-- ==== Sys2Proof/Word.lean ====
section
/-! DEFINITION. Words of the bus and the line number. -/

namespace Sys2Proof

/-- One word of the bus and of the mailbox region (00, addresses). -/
abbrev Word := BitVec 32

/-- A line number, 0 to 11 (00, names). -/
abbrev LineId := Fin 12

/-- The four byte enables UBE3 to UBE0 of a transfer. -/
abbrev ByteEnables := BitVec 4

/-- A tag of an order, 8 bits (00, terms). -/
abbrev Tag := BitVec 8

/-- A bus address, 24 bits (00, the host bus). -/
abbrev Address := BitVec 24

/-- A status record: 0 to 11 the line records, 12 the berth record (08). -/
abbrev RecId := Fin 13

/-- The twelve lines in ascending order. -/
def allLines : List LineId := [0, 1, 2, 3, 4, 5, 6, 7, 8, 9, 10, 11]

end Sys2Proof
end

