-- ==== Sys2Proof/Syntax.lean ====
section
/-! DEFINITION. The commands the part takes: one constructor for each row of spec/opcode_table.json. -/

namespace Sys2Proof

/-- A command. A host write carries the word as the host drives it and its byte enables; the part
reads kind, tag and codes from the word (R178), so the row names which word is sent (log 6). -/
inductive Instr where
  /-- ARGUMENT_WORD_WRITE (R29): word written at offset 8n. -/
  | argumentWordWrite (n : LineId) (w : Word) (be : ByteEnables)
  /-- LOCK (R48): order word written at offset 8n+4. -/
  | lock (n : LineId) (w : Word) (be : ByteEnables)
  /-- HAUL (R49). -/
  | haul (n : LineId) (w : Word) (be : ByteEnables)
  /-- TEND (R50). -/
  | tend (n : LineId) (w : Word) (be : ByteEnables)
  /-- EASE (R51). -/
  | ease (n : LineId) (w : Word) (be : ByteEnables)
  /-- SLIP (R45). -/
  | slip (n : LineId) (w : Word) (be : ByteEnables)
  /-- REWIND (R53). -/
  | rewind (n : LineId) (w : Word) (be : ByteEnables)
  /-- PARK (R54). -/
  | park (n : LineId) (w : Word) (be : ByteEnables)
  /-- RESTATE (R55). -/
  | restate (n : LineId) (w : Word) (be : ByteEnables)
  /-- GROUP_LOCK (R57): group word written at offset 0x060. -/
  | groupLock (w : Word) (be : ByteEnables)
  /-- GROUP_TEND (R57). -/
  | groupTend (w : Word) (be : ByteEnables)
  /-- GROUP_SLIP (R57). -/
  | groupSlip (w : Word) (be : ByteEnables)
  /-- GROUP_REWIND (R57). -/
  | groupRewind (w : Word) (be : ByteEnables)
  /-- VACANT_REQUEST (R124): berth request word written at offset 0x064. -/
  | vacantRequest (w : Word) (be : ByteEnables)
  /-- ARRIVAL_REQUEST (R124). -/
  | arrivalRequest (w : Word) (be : ByteEnables)
  /-- SECURED_REQUEST (R124). -/
  | securedRequest (w : Word) (be : ByteEnables)
  /-- DEPARTURE_REQUEST (R124). -/
  | departureRequest (w : Word) (be : ByteEnables)
  /-- LOCKDOWN_REQUEST (R124). -/
  | lockdownRequest (w : Word) (be : ByteEnables)
  /-- RESUME (R134). -/
  | resume (w : Word) (be : ByteEnables)
  /-- RESET_REQUEST (R135), with the MBASE strap levels at that moment (R197, log 10). -/
  | resetRequest (w : Word) (be : ByteEnables) (straps : BitVec 6)
  /-- ACKNOWLEDGE_WORD_WRITE (R173): word written at offset 0x068. -/
  | acknowledgeWordWrite (w : Word) (be : ByteEnables)
  /-- CURSOR_WORD_WRITE (R104): word written at offset 0x06C. -/
  | cursorWordWrite (w : Word) (be : ByteEnables)
  /-- SAMPLE_PORT_READ (R105): read of offset 0x070. -/
  | samplePortRead (be : ByteEnables)
  /-- COMMIT (R188): word written at offset 0x074. -/
  | commit (w : Word) (be : ByteEnables)
  /-- STRAY_WRITE (R146): write to word `i` of the status area, offset 0x100 + 4i. -/
  | strayWrite (i : Fin 52) (w : Word) (be : ByteEnables)
  /-- PROFILE_WINDOW_WRITE (R147): write to word `i` of the window, offset 0x200 + 4i. -/
  | profileWindowWrite (i : Fin 128) (w : Word) (be : ByteEnables)
  /-- STATUS_RECORD_READ (R159): read of word `k` of record `r`, offset 0x100 + 16r + 4k. -/
  | statusRecordRead (r : RecId) (k : Fin 4) (be : ByteEnables)
  /-- PASSED_WRITE (R142): a host write at a bus address. -/
  | passedWrite (a : Address) (w : Word) (be : ByteEnables)
  /-- HOST_TRANSFER_COMPLETE (R149): memory ends the host's access; `w` is what a read returns. -/
  | hostTransferComplete (w : Word)
  /-- PART_WRITE_COMPLETE (R150). -/
  | partWriteComplete
  /-- FETCH_COMPLETE (R157): memory ends the part's read, returning `w`. -/
  | fetchComplete (w : Word)
  /-- PULSE (R108): a rising edge on PULn, DIRn high or low, `gap` microseconds after the drum's
  last edge (log 8). -/
  | pulse (n : LineId) (outward : Bool) (gap : Nat)
  /-- BRAKE_FEEDBACK_CHANGE (R116): BRKn goes high (set) or low (released). -/
  | brakeFeedbackChange (n : LineId) (set : Bool)
  /-- STOW_MADE (R111): the filtered stow switch changes to made; it reaches the part together with the
  `back` commands taken just before it, none where `back` is 0 (log 27). -/
  | stowMade (n : LineId) (back : Nat := 0)
  /-- STOW_LOST (R111): the filtered stow switch changes to open. -/
  | stowLost (n : LineId)
  /-- STALL (R23). This row and the other expiries carry the ticks of the time base that pass up to
  the expiry, 0 where the timer stands at its end already (log 3). -/
  | stall (n : LineId) (ticks : Nat := 0)
  /-- HAUL_TIME_OUT (R24). -/
  | haulTimeOut (n : LineId) (ticks : Nat := 0)
  /-- SLIP_TIME_OUT (R24). -/
  | slipTimeOut (n : LineId) (ticks : Nat := 0)
  /-- BRAKE_MISMATCH (R26). -/
  | brakeMismatch (n : LineId) (ticks : Nat := 0)
  /-- HOLD_DEADLINE_EXPIRY (R72), of the entry of line `n`. -/
  | holdDeadlineExpiry (n : LineId) (ticks : Nat := 0)
  /-- PACING_EXPIRY (R84). -/
  | pacingExpiry (ticks : Nat := 0)
  /-- LINE_CONVERSION_COMPLETE (R85), with the raw value. -/
  | lineConversionComplete (raw : BitVec 12)
  /-- REFERENCE_CONVERSION_COMPLETE (R92), with the raw value. -/
  | referenceConversionComplete (raw : BitVec 12)
  /-- PROBE_CONVERSION_COMPLETE (R98), with the raw value. -/
  | probeConversionComplete (raw : BitVec 12)
  /-- HOST_SILENCE_EXPIRY (R129). -/
  | hostSilenceExpiry (ticks : Nat := 0)
  /-- VERIFICATION (R193); `upset` lists the words of the active copy that have come to hold another
  value by then (log 16). -/
  | verification (upset : List (Fin 128 × Word)) (ticks : Nat := 0)
  /-- SNAPSHOT_LOCK_TIMER_EXPIRY (R159). -/
  | snapshotLockTimerExpiry (ticks : Nat := 0)
  /-- SUPPLY_WARNING (R137): a judgement below the warning level. -/
  | supplyWarning
  /-- SUPPLY_RECOVERY (R138): a judgement at or above the warning level. -/
  | supplyRecovery
  /-- POWER_ON_RESET (R197). -/
  | powerOnReset
  /-- BROWN_OUT_RESET (R197). -/
  | brownOutReset
  /-- SUPPLY_RISE (R199): VDD rises above the brown-out reset level, with the strap levels and the
  stow switch inputs at that moment (R120, R140). -/
  | supplyRise (straps : BitVec 6) (stow : BitVec 12)
  /-- PIN_RESET (R197), with the strap levels at that moment. -/
  | pinReset (straps : BitVec 6)
  /-- RESETN_RELEASE (R199). -/
  | resetnRelease
  /-- SELF_TEST_END (R200): every word read back as written, or not. -/
  | selfTestEnd (pass : Bool)
  /-- HOST_READ_PASSED (R149): a host read at a bus address. -/
  | hostReadPassed (a : Address) (be : ByteEnables)
  deriving DecidableEq, Repr

end Sys2Proof
end

