-- ==== Sys2Proof/Decode.lean ====
section
/-! DEFINITION. Reading a command from the table's bits: no row of spec/opcode_table.json gives bits
(every row's fields are empty), so no word spells a command. -/

namespace Sys2Proof

/-- The command a table word spells: none, for the table gives no row any bits. -/
def decodeTableWord (_nbits _w : Nat) : Option Instr := none

end Sys2Proof
end

