-- ==== Sys2Proof/Config.lean ====
section
/-! DEFINITION. The numbers the manual fixes for every part, and the model's one free value. -/

namespace Sys2Proof

/-- The hold queue holds at most 8 entries (R59). -/
def Config.queueCapacity : Nat := 8

/-- A sample ring holds at most 8 samples (R90). -/
def Config.ringDepth : Nat := 8

/-- The greatest tension, in units of 0.1 kN (00, units; R87). -/
def Config.tensionMax : Nat := 16383

/-- The OVER and SLACK run counts saturate at 15 (R9, R89). -/
def Config.runCountMax : Nat := 15

/-- The payout count saturates at 65535 pulses (R109). -/
def Config.payoutMax : Nat := 65535

/-- The age of a latched argument stops at 1001 ms (R30). -/
def Config.latchAgeMax : Nat := 1001

/-- Edges nearer than 200 microseconds to the last pulse taken are ignored (R108). -/
def Config.pulseGap : Nat := 200

/-- The snapshot lock timer, in ms (R159). -/
def Config.snapshotMs : Nat := 2

/-- The verification period, in ms (R193). -/
def Config.verifyMs : Nat := 1000

/-- The profile image has 128 words (R183). -/
def Config.imageWords : Nat := 128

/-- FREE VALUE (log 2). The order in which the expiries that fall together on tick `k` of the time
base are taken: the place, among the `m` expiries after it, at which an expiry is taken. The manual
lets any be taken first (R72, R119). -/
opaque Config.tickPlace : Nat → Nat → Nat

end Sys2Proof
end

