-- ==== Sys2Proof/Machine/Fallback.lean ====
section
/-! DEFINITION. The fallback profile built into the part (R186), in the layout of the image (09). -/

namespace Sys2Proof.Machine

/-- The check word of an image: what makes the sum of all words 0 (09). -/
def checkWord (ws : List Word) : Word := 0 - ws.foldl (· + ·) 0

/-- The eight words of a line block of the fallback profile (R186). -/
def fallbackBlock : List Word :=
  [BitVec.ofNat 32 (0 + 4096 * 65536), BitVec.ofNat 32 (50 + 200 * 65536),
   BitVec.ofNat 32 (4000 + 6000 * 65536), BitVec.ofNat 32 (150 + 500 * 65536),
   BitVec.ofNat 32 (12000 + 150 * 65536), 0, 0, 0]

/-- Words 0 to 126 of the fallback profile in the layout of the image (R186). -/
def fallbackBody : List Word :=
  [0x000FFF4C#32, BitVec.ofNat 32 (20 + 0 * 65536), BitVec.ofNat 32 (1 + 3 * 65536),
   BitVec.ofNat 32 (5 + 3 * 65536), BitVec.ofNat 32 (250 + 500 * 65536),
   BitVec.ofNat 32 (4500 + 6000 * 65536), BitVec.ofNat 32 (3000 + 5000 * 65536),
   BitVec.ofNat 32 (90 + 40 * 65536), BitVec.ofNat 32 20, BitVec.ofNat 32 (1900 + 2200 * 65536),
   0, 0, 0, 0, 0, 0]
  ++ (fallbackBlock ++ fallbackBlock ++ fallbackBlock ++ fallbackBlock)
  ++ (fallbackBlock ++ fallbackBlock ++ fallbackBlock ++ fallbackBlock)
  ++ (fallbackBlock ++ fallbackBlock ++ fallbackBlock ++ fallbackBlock)
  ++ [0, 0, 0, 0, 0, 0, 0, 0, 0, 0, 0, 0, 0, 0, 0]

/-- The fallback profile with its check word (R186, R196). -/
def fallbackImage : List Word := fallbackBody ++ [checkWord fallbackBody]

end Sys2Proof.Machine
end

