-- ==== Sys2Proof/Machine/State.lean ====
section
/-! DEFINITION. The state of the Wacorin 1240: every register, queue, counter, timer, mode and pin the
manual gives the part, as plain data, and the state right after a power-on reset. -/

namespace Sys2Proof.Machine

/-- The order kinds, codes 1 to 8 (R38). -/
inductive OrderKind where
  | lock | haul | tend | ease | slip | rewind | park | restate
  deriving DecidableEq, Repr

/-- The ten fault reasons (01, fault reasons). -/
inductive FaultReason where
  | stall | haulTimeout | slipTimeout | lineSlack | brakeCreep | brakeMismatch | renderExhausted
  | snag | stowMismatch | stowLost
  deriving DecidableEq, Repr

/-- The state a render returns to (R1). -/
inductive RenderReturn where
  | locked | tending
  deriving DecidableEq, Repr

/-- The twelve line states (R3), each with the fields R1 gives as present in it: the ease target in
PAYING, the haul target in HAULING, return state and steps used in RENDERING, the reason in FAULTED. -/
inductive LineState where
  | adopting
  | parked
  | paying (easeTarget : Nat)
  | standing
  | hauling (haulTarget : Nat)
  | locked
  | tending
  | rendering (ret : RenderReturn) (stepsUsed : Nat)
  | slipping
  | slack
  | rewinding
  | faulted (reason : FaultReason)
  deriving DecidableEq, Repr

/-- The seven lockdown causes (R130). -/
inductive LockdownCause where
  | hostRequest | hostSilent | supplyLow | senseFault | profileFault | overload | adoption
  deriving DecidableEq, Repr

/-- The cause of a part order (R8): the line table's, a lockdown cause, or ADOPTION from derivation. -/
inductive PartCause where
  | runComplete | haulReached | renderStep | renderReturn | renderExhausted | stall | haulTimeout
  | slipTimeout | lineSlack | brakeCreep | brakeMismatch | snag | stowMismatch | stowMade
  | lockdown (c : LockdownCause)
  | derivation
  deriving DecidableEq, Repr

/-- The refusal reasons of a host order (02, verdicts). -/
inductive RefusalReason where
  | partialWrite | badCheck | badKind | notFitted | fallbackProfile | wrongPhase | wrongState
  | renderActive | notStowed | argumentStale | argumentRange | queueFull
  deriving DecidableEq, Repr

/-- The outcome of a host order, REFUSED with its reason (R31). -/
inductive Verdict where
  | passed | held | refused (r : RefusalReason) | forwarded | timedOut | flushed
  deriving DecidableEq, Repr

/-- The last-host-order field (R31, R32): tag and kind together or absent, the outcome or absent,
the superseded tag or absent. -/
structure LastHost where
  order : Option (Tag × OrderKind)
  outcome : Option Verdict
  superseded : Option Tag
  deriving DecidableEq, Repr

/-- The last-part-order field (R33). -/
structure LastPart where
  kind : OrderKind
  cause : PartCause
  deriving DecidableEq, Repr

/-- A loaded argument latch: the value and its age in whole ms, at most 1001 (R29, R30). -/
structure Latch where
  value : Nat
  age : Nat
  deriving DecidableEq, Repr

/-- A loaded run counter: the distance left and its ceiling, in pulses (R112). -/
structure RunCounter where
  left : Nat
  ceiling : Nat
  deriving DecidableEq, Repr

/-- A classification (R88); `noClass` is NONE. -/
inductive Classification where
  | noClass | slack | low | inBand | high | over
  deriving DecidableEq, Repr

/-- One entry of a sample ring (R90). -/
structure Sample where
  tension : Nat
  cls : Classification
  deriving DecidableEq, Repr

/-- A timer on the 1 ms time base: how many ticks until it expires, or stopped (log 17). -/
abbrev Timer := Option Nat

/-- What the blocks hold for one line. -/
structure Line where
  -- line table (R1)
  fitted : Bool
  state : LineState
  rank : Nat
  required : Bool
  -- screening (R29, R31, R33)
  latch : Option Latch
  lastHost : LastHost
  lastPart : Option LastPart
  -- tension scanning (R89, R90, R96)
  tension : Option Nat
  cls : Classification
  overRun : Nat
  slackRun : Nat
  ring : List Sample
  probeWaiting : Bool
  -- drum supervision (R108 to R117); the first four lie in the retained domain (R120)
  payout : Nat
  lengthUnknown : Bool
  stowMade : Bool
  pulseAge : Nat
  run : Option RunCounter
  stall : Timer
  haul : Timer
  slip : Timer
  brakeSettle : Timer
  creep : Nat
  -- the level of the brake feedback input (R107)
  brakeSet : Bool
  -- reporting (R170, R171)
  notice : Bool
  seq : BitVec 16
  deriving DecidableEq, Repr

/-- The kinds a hold entry can have (R60). -/
inductive HeldKind where
  | slip | rewind
  deriving DecidableEq, Repr

/-- The stage of a hold entry (R60). -/
inductive HoldStage where
  | waiting | probing
  deriving DecidableEq, Repr

/-- Where a held order came from (R60). -/
inductive Origin where
  | hostWord | groupWord
  deriving DecidableEq, Repr

/-- The closed-gate set of a hold entry (R61): true where the gate was closed at the latest judgement. -/
structure Gates where
  lineReady : Bool
  rankOrder : Bool
  surgeSettled : Bool
  tensionFree : Bool
  lineSlack : Bool
  deriving DecidableEq, Repr

/-- A hold entry (R60). `probeBegun`: a probe conversion of the line begun after the entry last
entered PROBING is running (R65, log 18). -/
structure Entry where
  line : LineId
  kind : HeldKind
  tag : Tag
  closed : Gates
  stage : HoldStage
  failed : Bool
  deadline : Nat
  origin : Origin
  probeBegun : Bool
  deriving DecidableEq, Repr

/-- A channel of the scan plan (R82). -/
inductive Channel where
  | line (n : LineId)
  | reference
  deriving DecidableEq, Repr

/-- The scan mode (R83). -/
inductive ScanMode where
  | paced | continuous
  deriving DecidableEq, Repr

/-- The pass state (R84). -/
inductive Pass where
  | idle
  | running (position : Nat)
  | probing (n : LineId) (resume : Option Nat)
  deriving DecidableEq, Repr

/-- The reference state (R92). -/
inductive RefState where
  | ok | fault
  deriving DecidableEq, Repr

/-- The sample cursor (R104). -/
structure Cursor where
  line : LineId
  index : Fin 8
  decrement : Bool
  deriving DecidableEq, Repr

/-- Tension scanning, what it holds once. -/
structure Scan where
  plan : List Channel
  mode : ScanMode
  pacing : Timer
  pass : Pass
  ref : RefState
  refCount : Nat
  cursor : Cursor
  deriving DecidableEq, Repr

/-- The berth phase (R121). -/
inductive Phase where
  | starting | halted | vacant | arrival | secured | departure | lockdown
  deriving DecidableEq, Repr

/-- The reason a berth request was refused (R126). -/
inductive RequestRefusal where
  | badRequest | wrongPhase | notReady
  deriving DecidableEq, Repr

/-- A set of lockdown causes: bit k for cause k of the berth record (09). -/
abbrev CauseSet := BitVec 7

/-- The berth block (R121, R126, R128, R130). -/
structure Berth where
  phase : Phase
  causes : CauseSet
  present : CauseSet
  silence : Timer
  refusal : Option RequestRefusal
  deriving DecidableEq, Repr

/-- The profile source (R183). -/
inductive ProfileSource where
  | loaded | fallback
  deriving DecidableEq, Repr

/-- The load state (R183). -/
inductive LoadState where
  | idle
  | loading (next : Nat)
  deriving DecidableEq, Repr

/-- The last profile outcome, REJECTED with its first failing word index (R168). -/
inductive ProfileOutcome where
  | noOutcome | activated | rejected (index : Nat) | disturbed | berthBusy | verifyFailed
  | selfTestFailed
  deriving DecidableEq, Repr

/-- The profile block (R183). -/
structure Profile where
  active : List Word
  source : ProfileSource
  load : LoadState
  buffer : List Word
  sum : Word
  verify : Timer
  outcome : ProfileOutcome
  deriving DecidableEq, Repr

/-- A transfer of the host on the U-port. -/
structure Transfer where
  write : Bool
  addr : Address
  data : Word
  be : ByteEnables
  deriving DecidableEq, Repr

/-- A passed host transfer, with the record word it reads where it reads one (R159). -/
structure HostAccess where
  transfer : Transfer
  statusWord : Option (RecId × Fin 4)
  deriving DecidableEq, Repr

/-- An entry of the fetch list (R157): word `i` of the profile window for the load, or the order word
of line `n` for the adoption read. -/
inductive Fetch where
  | image (i : Nat)
  | orderWord (n : LineId)
  deriving DecidableEq, Repr

/-- The transfer in progress on the D-port (R150), with what it writes; `discard` marks a fetch whose
value is not delivered (R158, R161). -/
inductive DTransfer where
  | host (h : HostAccess)
  | pair (n : LineId) (arg order : Word)
  | record (r : RecId) (w0 w1 w2 w3 : Word)
  | fetch (f : Fetch) (discard : Bool)
  deriving DecidableEq, Repr

/-- An entry of the order lane (R152). -/
structure LaneEntry where
  line : LineId
  arg : Word
  order : Word
  deriving DecidableEq, Repr

/-- The side named by the alternation mark (R151). -/
inductive Side where
  | host | internal
  deriving DecidableEq, Repr

/-- The snapshot lock with its timer (R159). -/
structure SnapLock where
  record : RecId
  timer : Nat
  deriving DecidableEq, Repr

/-- The bus path (R161). `waiting` is the host transfer at the arbiter (R149), `held` the host's
transfers that come while UWAIT is driven (log 5), `readData` the data last presented to the host. -/
structure Bus where
  base : BitVec 6
  orderLane : List LaneEntry
  reportLane : List RecId
  fetch : Option Fetch
  snap : Option SnapLock
  mark : Side
  dport : Option DTransfer
  waiting : Option HostAccess
  held : List Transfer
  readData : Word
  deriving DecidableEq, Repr

/-- The eight berth notices (R172). -/
inductive BerthNotice where
  | phaseRefused | lockdownEntered | scanOverrun | profileEvent | supplyWarning | resetDone
  | groupRefused | strayWrite
  deriving DecidableEq, Repr

/-- Reporting, what it holds once: the berth notices (bit k for notice k, 09), ATTN, the berth
record's sequence number and the pass divider count (R177). -/
structure Reporting where
  notices : BitVec 8
  attn : Bool
  seq : BitVec 16
  divider : Nat
  deriving DecidableEq, Repr

/-- The reset sources (R197). -/
inductive ResetCause where
  | powerOn | brownOut | pin | command
  deriving DecidableEq, Repr

/-- The start-up stages (11). -/
inductive Stage where
  | reset | selfTest | profileLoad | adoptRead | firstPass | derive | done
  deriving DecidableEq, Repr

/-- Start-up and supply (R208, R137, R197). `powered`: VDD is at or above the brown-out reset level.
`pinHeld`: a pin reset's condition holds, RESETN being still low (R199). `pinTaken`: this low period
of RESETN has been taken as a reset (R197). `straps`: the levels on MBASE5 to MBASE0. -/
structure Supply where
  stage : Stage
  cause : ResetCause
  live : Bool
  latched : Bool
  powered : Bool
  pinHeld : Bool
  pinTaken : Bool
  straps : BitVec 6
  deriving DecidableEq, Repr

/-- The whole part, with the queue of commands that wait for it. `ticks` counts the ticks of the time
base; `atTick` is true while an event that falls on a tick is taken (log 17). -/
structure State where
  pending : List Instr
  lines : Vector Line 12
  queue : List Entry
  scan : Scan
  berth : Berth
  profile : Profile
  bus : Bus
  report : Reporting
  supply : Supply
  ticks : Nat
  atTick : Bool
  deriving DecidableEq, Repr

/-- No command stops the part: the manual names no stop. No constructor, so no claim about a fault
can be false of the part (safe). -/
inductive Fault where
  deriving DecidableEq, Repr

/-- The reasons a command is not run. -/
inductive Refusal where
  /-- Raised by no arm of exec (safe): kept for a command without a meaning, by its mnemonic. -/
  | notModelled (mnemonic : String)
  deriving DecidableEq, Repr

/-- A line right after a power-on reset (R28, R58, R106, R120, R177); stow level, pulse filter and
brake feedback input by logs 8, 9 and 11. -/
def Line.reset : Line where
  fitted := false
  state := .adopting
  rank := 0
  required := false
  latch := none
  lastHost := ⟨none, none, none⟩
  lastPart := none
  tension := none
  cls := .noClass
  overRun := 0
  slackRun := 0
  ring := []
  probeWaiting := false
  payout := 0
  lengthUnknown := true
  stowMade := false
  pulseAge := Config.pulseGap
  run := none
  stall := none
  haul := none
  slip := none
  brakeSettle := none
  creep := 0
  brakeSet := false
  notice := false
  seq := 0

/-- Tension scanning after every reset (R106). -/
def Scan.reset : Scan where
  plan := []
  mode := .paced
  pacing := none
  pass := .idle
  ref := .ok
  refCount := 1
  cursor := ⟨0, 0, false⟩

/-- The berth block after every reset (R139). -/
def Berth.reset : Berth where
  phase := .starting
  causes := 0
  present := 0
  silence := none
  refusal := none

/-- The profile block after every reset (R196). -/
def Profile.reset : Profile where
  active := fallbackImage
  source := .fallback
  load := .idle
  buffer := []
  sum := 0
  verify := none
  outcome := .noOutcome

/-- Reporting after every reset (R177). -/
def Reporting.reset : Reporting where
  notices := 0
  attn := false
  seq := 0
  divider := 0

/-- The bus path after a power-on reset (R161, R162); base and read data by logs 10 and 13. -/
def Bus.reset : Bus where
  base := 0
  orderLane := []
  reportLane := []
  fetch := none
  snap := none
  mark := .internal
  dport := none
  waiting := none
  held := []
  readData := 0

/-- Start-up and supply after a power-on reset (R208): the reset condition of R197 still holds. -/
def Supply.reset : Supply where
  stage := .reset
  cause := .powerOn
  live := false
  latched := false
  powered := false
  pinHeld := false
  pinTaken := false
  straps := 0

/-- The part right after a power-on reset is taken, the supply still below the brown-out reset level
(R197, log 12). -/
def State.reset : State where
  pending := []
  lines := Vector.replicate 12 Line.reset
  queue := []
  scan := Scan.reset
  berth := Berth.reset
  profile := Profile.reset
  bus := Bus.reset
  report := Reporting.reset
  supply := Supply.reset
  ticks := 0
  atTick := false

end Sys2Proof.Machine
end

