-- ==== Sys2Proof/Machine/Image.lean ====
section
/-! DEFINITION. The profile image: its half-words and fields (09, R182), and its validation (R184, R185,
R191). -/

namespace Sys2Proof.Machine

/-- Word `i` of an image. -/
def imageWord (ws : List Word) (i : Nat) : Word := ws.getD i 0

/-- The low half of word `i`, an unsigned number (R182). -/
def low (ws : List Word) (i : Nat) : Nat := ((imageWord ws i).extractLsb' 0 16).toNat

/-- The high half of word `i`, an unsigned number (R182). -/
def high (ws : List Word) (i : Nat) : Nat := ((imageWord ws i).extractLsb' 16 16).toNat

/-- The fitted mask: line n at bit 8 + n of word 0 (09). -/
def fittedBit (ws : List Word) (n : LineId) : Bool := (imageWord ws 0).getLsbD (8 + n.val)

def pacingPeriod (ws : List Word) : Nat := low ws 1
/-- Scan mode, 0 PACED and 1 CONTINUOUS (09). -/
def scanMode (ws : List Word) : ScanMode := if high ws 1 = 1 then .continuous else .paced
def reportDivider (ws : List Word) : Nat := low ws 2
def renderPersistence (ws : List Word) : Nat := high ws 2
def slackPersistence (ws : List Word) : Nat := low ws 3
def renderStepLimit (ws : List Word) : Nat := high ws 3
def argumentFreshness (ws : List Word) : Nat := low ws 4
def brakeSettleTime (ws : List Word) : Nat := high ws 4
/-- The slip hold limit, held in units of 10 ms, in ms (R182). -/
def slipHoldLimit (ws : List Word) : Nat := 10 * low ws 5
/-- The rewind hold limit, held in units of 10 ms, in ms (R182). -/
def rewindHoldLimit (ws : List Word) : Nat := 10 * high ws 5
def stallTime (ws : List Word) : Nat := low ws 6
def hostSilenceTime (ws : List Word) : Nat := high ws 6
/-- The haul limit, held in seconds, in ms (R182). -/
def haulLimit (ws : List Word) : Nat := 1000 * low ws 7
/-- The slip time limit, held in seconds, in ms (R182). -/
def slipTimeLimit (ws : List Word) : Nat := 1000 * high ws 7
def creepLimit (ws : List Word) : Nat := low ws 8
def referenceLow (ws : List Word) : Nat := low ws 9
def referenceHigh (ws : List Word) : Nat := high ws 9

/-- The first word of the block of line `n` (09). -/
def block (n : LineId) : Nat := 16 + 8 * n.val

def zeroOffset (ws : List Word) (n : LineId) : Nat := low ws (block n)
def spanFactor (ws : List Word) (n : LineId) : Nat := high ws (block n)
def slackLimit (ws : List Word) (n : LineId) : Nat := low ws (block n + 1)
def bandMin (ws : List Word) (n : LineId) : Nat := high ws (block n + 1)
def bandMax (ws : List Word) (n : LineId) : Nat := low ws (block n + 2)
def renderLimit (ws : List Word) (n : LineId) : Nat := high ws (block n + 2)
def slipLimit (ws : List Word) (n : LineId) : Nat := low ws (block n + 3)
def surgeLimit (ws : List Word) (n : LineId) : Nat := high ws (block n + 3)
def maxPayout (ws : List Word) (n : LineId) : Nat := low ws (block n + 4)
def renderStep (ws : List Word) (n : LineId) : Nat := high ws (block n + 4)
/-- The release rank, bits 1:0 (09). -/
def releaseRank (ws : List Word) (n : LineId) : Nat := low ws (block n + 5) % 4
/-- The required flag, bit 4 (09). -/
def requiredFlag (ws : List Word) (n : LineId) : Bool := (imageWord ws (block n + 5)).getLsbD 4

/-- The sum of the words, modulo 2^32 (R193). -/
def imageSum (ws : List Word) : Word := ws.foldl (· + ·) 0

/-- A number within a range, both ends included. -/
def within (lo hi v : Nat) : Bool := decide (lo ≤ v) && decide (v ≤ hi)

/-- The berth-wide words 0 to 15 (R184). `keep n`: line `n` may be left out of the fitted mask. -/
def berthWordValid (ws : List Word) (keep : LineId → Bool) (i : Nat) : Bool :=
  match i with
  | 0 => (imageWord ws 0).extractLsb' 0 8 == 0x4C#8 && (imageWord ws 0).extractLsb' 20 12 == 0
      && allLines.all fun n => fittedBit ws n || keep n
  | 1 => within 5 200 (low ws 1) && within 0 1 (high ws 1)
  | 2 => within 1 16 (low ws 2) && within 1 15 (high ws 2)
  | 3 => within 1 15 (low ws 3) && within 1 7 (high ws 3)
  | 4 => within 20 1000 (low ws 4) && within 50 2000 (high ws 4)
  | 5 => within 100 12000 (low ws 5) && within 100 12000 (high ws 5)
  | 6 => within 500 10000 (low ws 6) && within 500 60000 (high ws 6)
  | 7 => within 5 300 (low ws 7) && within 5 300 (high ws 7)
  | 8 => within 1 1000 (low ws 8) && high ws 8 == 0
  | 9 => within 0 4095 (low ws 9) && within 0 4095 (high ws 9) && decide (low ws 9 ≤ high ws 9)
  | _ => imageWord ws i == 0

/-- Word `k` of the block of line `n` (R185), each condition at the word of the later field (R191). -/
def blockWordValid (ws : List Word) (n : LineId) (k : Nat) : Bool :=
  match k with
  | 0 => within 0 4095 (zeroOffset ws n) && within 1 65535 (spanFactor ws n)
  | 1 => within 0 16383 (slackLimit ws n) && within 0 16383 (bandMin ws n)
      && decide (slackLimit ws n < bandMin ws n)
  | 2 => within 0 16383 (bandMax ws n) && within 0 16383 (renderLimit ws n)
      && decide (bandMin ws n ≤ bandMax ws n) && decide (bandMax ws n < renderLimit ws n)
  | 3 => within 0 16383 (slipLimit ws n) && within 0 16383 (surgeLimit ws n)
      && decide (slackLimit ws n ≤ slipLimit ws n) && decide (slipLimit ws n ≤ bandMax ws n)
  | 4 => within 1 65535 (maxPayout ws n) && within 10 2000 (renderStep ws n)
  | 5 => (imageWord ws (block n + 5)).extractLsb' 2 2 == 0
      && (imageWord ws (block n + 5)).extractLsb' 5 27 == 0
  | _ => imageWord ws (block n + k) == 0

/-- Word `i` of an image with sum `sum` is valid (R184, R185). -/
def wordValid (ws : List Word) (sum : Word) (keep : LineId → Bool) (i : Nat) : Bool :=
  if i < 16 then berthWordValid ws keep i
  else if i < 112 then blockWordValid ws (Fin.ofNat 12 ((i - 16) / 8)) ((i - 16) % 8)
  else if i < 127 then imageWord ws i == 0
  else sum == 0

/-- The first word at which a condition fails, in word order (R191). -/
def firstFailing (ws : List Word) (sum : Word) (keep : LineId → Bool) : Option Nat :=
  (List.range Config.imageWords).find? fun i => !wordValid ws sum keep i

end Sys2Proof.Machine
end

