-- ==== Sys2Proof/Machine/Operands.lean ====
section
/-! DEFINITION. The words the host writes, read field by field (09), the order words the part composes
(R47), and the windows of the mailbox region (R140, R141). -/

namespace Sys2Proof.Machine

/-- A write with all four byte enables set (R142). -/
def isFull (be : ByteEnables) : Bool := be == 15#4

/-- Byte `i` of a word, byte 0 the least significant (00, addresses). -/
def byteAt (w : Word) (i : Nat) : BitVec 8 := w.extractLsb' (8 * i) 8

/-- The sum of the four bytes, modulo 256 (R179). -/
def byteSum (w : Word) : BitVec 8 := byteAt w 0 + byteAt w 1 + byteAt w 2 + byteAt w 3

/-- The check of a guarded word is good (R179). -/
def checkGood (w : Word) : Bool := byteSum w == 0xC3#8

/-- Bits 11:8: the kind code of an order or group word, the code of a request word (09). -/
def codeField (w : Word) : Nat := (w.extractLsb' 8 4).toNat

/-- Bits 19:12: the tag of an order or group word (09). -/
def tagField (w : Word) : Tag := w.extractLsb' 12 8

/-- The kind of a kind code, none for 0 and 9 to 15 (R38). -/
def kindOfCode (c : Nat) : Option OrderKind :=
  match c with
  | 1 => some .lock
  | 2 => some .haul
  | 3 => some .tend
  | 4 => some .ease
  | 5 => some .slip
  | 6 => some .rewind
  | 7 => some .park
  | 8 => some .restate
  | _ => none

/-- The kind code of a kind (R38). -/
def OrderKind.code : OrderKind → Nat
  | .lock => 1 | .haul => 2 | .tend => 3 | .ease => 4
  | .slip => 5 | .rewind => 6 | .park => 7 | .restate => 8

/-- HAUL and EASE take an argument (R44). -/
def OrderKind.takesArgument : OrderKind → Bool
  | .haul | .ease => true
  | .lock | .tend | .slip | .rewind | .park | .restate => false

/-- Bits 31:20 of a host order word, the screen mark among them, which must be 0 (R38). -/
def orderSpare (w : Word) : BitVec 12 := w.extractLsb' 20 12

/-- Kind and tag of an order word of good form, none for BAD_KIND (R38). -/
def readOrder (w : Word) : Option (OrderKind × Tag) :=
  if tagField w = 0 ∨ orderSpare w ≠ 0 then none
  else (kindOfCode (codeField w)).map fun k => (k, tagField w)

/-- What ADOPT_READ recovers from an order word in memory (R202): screen mark and bits 30:20 are not
judged, RESTATE does not qualify. -/
def recoverOrder (w : Word) : Option (Tag × OrderKind) :=
  if checkGood w && tagField w != 0 && 1 ≤ codeField w && codeField w ≤ 7 then
    (kindOfCode (codeField w)).map fun k => (tagField w, k)
  else none

/-- The line mask of a group word: bit 20 + n names line n (09). -/
def groupNames (w : Word) (n : LineId) : Bool := w.getLsbD (20 + n.val)

/-- Kind and tag of a group word of good form, none where the group is dropped (R56). -/
def readGroup (w : Word) (be : ByteEnables) : Option (OrderKind × Tag) :=
  if isFull be && checkGood w && tagField w != 0 && w.extractLsb' 20 12 != 0 then
    match kindOfCode (codeField w) with
    | some .lock => some (.lock, tagField w)
    | some .tend => some (.tend, tagField w)
    | some .slip => some (.slip, tagField w)
    | some .rewind => some (.rewind, tagField w)
    | some .haul | some .ease | some .park | some .restate | none => none
  else none

/-- The seven berth requests (06, the berth request word). -/
inductive Request where
  | vacant | arrival | secured | departure | lockdown | resume | reset
  deriving DecidableEq, Repr

/-- The request of a request code, none for 0 and 8 to 15 (R123). -/
def requestOfCode (c : Nat) : Option Request :=
  match c with
  | 1 => some .vacant
  | 2 => some .arrival
  | 3 => some .secured
  | 4 => some .departure
  | 5 => some .lockdown
  | 6 => some .resume
  | 7 => some .reset
  | _ => none

/-- The request of a berth request word, none for BAD_REQUEST (R123). -/
def readRequest (w : Word) (be : ByteEnables) : Option Request :=
  if isFull be && checkGood w && (w.extractLsb' 12 4).toNat == 15 - codeField w
      && w.extractLsb' 16 16 == 0 then
    requestOfCode (codeField w)
  else none

/-- An acknowledge word of good form (R173). -/
def ackForm (w : Word) (be : ByteEnables) : Bool :=
  isFull be && w.extractLsb' 12 4 == 0 && w.extractLsb' 24 8 == 0

/-- The line mask of an acknowledge word: bit n names line n (09). -/
def ackNames (w : Word) (n : LineId) : Bool := w.getLsbD n.val

/-- The berth mask of an acknowledge word: bit 16 + k names notice k (09). -/
def ackBerth (w : Word) : BitVec 8 := w.extractLsb' 16 8

/-- The cursor a cursor word sets, none for a word that leaves the cursor unchanged (R104). -/
def readCursor (w : Word) (be : ByteEnables) : Option Cursor :=
  if h : (w.extractLsb' 0 4).toNat < 12 then
    if isFull be && w.extractLsb' 8 24 == 0 then
      some ⟨⟨(w.extractLsb' 0 4).toNat, h⟩, (w.extractLsb' 4 3).toFin, w.getLsbD 7⟩
    else none
  else none

/-- A well-formed commit word (R187). -/
def commitForm (w : Word) (be : ByteEnables) : Bool :=
  isFull be && checkGood w && w.extractLsb' 8 8 == 0x6E#8 && w.extractLsb' 16 16 == 0

/-- The latch a write to an argument word leaves (R29). -/
def readArgument (w : Word) (be : ByteEnables) : Option Latch :=
  if isFull be && w.extractLsb' 16 16 == 0 then some ⟨(w.extractLsb' 0 16).toNat, 0⟩ else none

/-- The argument word of a pair: the argument in the lower half (R47). -/
def composeArgument (v : Nat) : Word := (BitVec.ofNat 16 v).setWidth 32

/-- The order word of a pair before its check byte: kind, tag and the screen mark (R47). -/
def orderBody (k : OrderKind) (t : Tag) : Word :=
  (BitVec.ofNat 32 k.code <<< 8) ||| (t.setWidth 32 <<< 12) ||| 0x80000000#32

/-- The order word of a pair, its check byte made good over the word as composed (R47, R179). -/
def composeOrder (k : OrderKind) (t : Tag) : Word :=
  orderBody k t ||| (0xC3#8 - byteSum (orderBody k t)).setWidth 32

/-- A word of the mailbox region with a handling of its own, or any other address (R141). -/
inductive Target where
  | argument (n : LineId)
  | order (n : LineId)
  | group
  | request
  | acknowledge
  | cursor
  | samplePort
  | commit
  | status (r : RecId) (k : Fin 4)
  | profile (i : Fin 128)
  | plain
  deriving DecidableEq, Repr

/-- The target of word `j` of the region, offset 4j (R141). -/
def targetOf (j : Nat) : Target :=
  if j < 24 then
    if j % 2 = 0 then .argument (Fin.ofNat 12 (j / 2)) else .order (Fin.ofNat 12 (j / 2))
  else if j = 24 then .group
  else if j = 25 then .request
  else if j = 26 then .acknowledge
  else if j = 27 then .cursor
  else if j = 28 then .samplePort
  else if j = 29 then .commit
  else if 64 ≤ j ∧ j < 116 then .status (Fin.ofNat 13 ((j - 64) / 4)) (Fin.ofNat 4 (j - 64))
  else if 128 ≤ j ∧ j < 256 then .profile (Fin.ofNat 128 (j - 128))
  else .plain

/-- Classification of an address against the region in force (R140); inside it the two lowest bits
are ignored (R142). -/
def classify (base : BitVec 6) (a : Address) : Target :=
  if a.toNat / 4096 = base.toNat then targetOf (a.toNat % 4096 / 4) else .plain

/-- The bus address of word `j` of the region (R140). -/
def regionWord (base : BitVec 6) (j : Nat) : Address :=
  BitVec.ofNat 24 (base.toNat * 4096 + 4 * j)

end Sys2Proof.Machine
end

