-- ==== Sys2Proof/Machine/Ops.lean ====
section
/-! DEFINITION. The shared operations over the state: lines, timers, record requests, notices, the order
lane, the verdict fields, and what drum supervision does at a change of a line's state. -/

namespace Sys2Proof.Machine

/-! ### Lines -/

/-- Line `n`. -/
def State.line (s : State) (n : LineId) : Line := s.lines.get n

/-- `s` with line `n` changed by `f`. -/
def modLine (n : LineId) (f : Line → Line) (s : State) : State :=
  { s with lines := s.lines.set n.val (f (s.line n)) n.isLt }

/-- An operation on each line, in ascending order. -/
def eachLine (f : LineId → State → State) (s : State) : State :=
  allLines.foldl (fun t n => f n t) s

/-- The words of the active profile (R183). -/
def State.image (s : State) : List Word := s.profile.active

/-- The entry of line `n` in the hold queue. -/
def State.entry (s : State) (n : LineId) : Option Entry := s.queue.find? fun e => e.line == n

/-- The surge span: largest tension less smallest, while the ring holds 8 samples (R90). -/
def Line.span (l : Line) : Option Nat :=
  let largest := (l.ring.map (·.tension)).foldl max 0
  if l.ring.length = Config.ringDepth then
    some (largest - (l.ring.map (·.tension)).foldl min largest)
  else none

/-- Every fitted line is PARKED (R125, the counting rule). -/
def State.allParked (s : State) : Bool :=
  allLines.all fun n => !(s.line n).fitted || (s.line n).state == .parked

/-- UWAIT: a passed host transfer waits or is in progress (R149). -/
def State.uwait (s : State) : Bool :=
  s.bus.waiting.isSome || match s.bus.dport with
    | some (.host _) => true
    | _ => false

/-- A stow made of line `n` has come together with the command being taken and is taken after it: it
waits in the queue, and the commands it came with reach back to this one (R22, log 27). -/
def State.stowComing (s : State) (n : LineId) : Bool :=
  s.pending.zipIdx.any fun x =>
    match x.1 with
    | .stowMade m back => m == n && decide (x.2 < back)
    | _ => false

/-- The phases in which the part takes no guarded word (R148). -/
def Phase.silent : Phase → Bool
  | .starting | .halted => true
  | .vacant | .arrival | .secured | .departure | .lockdown => false

/-! ### Timers -/

/-- How many ticks a timer loaded now with `ms` milliseconds runs: the first tick at which at least
that time has passed (00, units; log 17). -/
def State.ticksFor (s : State) (ms : Nat) : Nat := if s.atTick then ms else ms + 1

/-! ### Requests for records (R155, R163, R176) -/

/-- Record `r` joins the report lane or coalesces into its entry; nothing is placed in STARTING, and no
line record in HALTED (R155, R176). -/
def askRecord (r : RecId) (s : State) : State :=
  if s.berth.phase = .starting ∨ (s.berth.phase = .halted ∧ r ≠ 12) ∨ r ∈ s.bus.reportLane then s
  else { s with bus := { s.bus with reportLane := s.bus.reportLane ++ [r] } }

/-- Ask for the record of line `n`. -/
def askLine (n : LineId) (s : State) : State := askRecord n.castSucc s

/-- Ask for the berth record. -/
def askBerth (s : State) : State := askRecord 12 s

/-! ### Notices (R171, R172, R175) -/

/-- The number k of a berth notice (09). -/
def BerthNotice.code : BerthNotice → Nat
  | .phaseRefused => 0 | .lockdownEntered => 1 | .scanOverrun => 2 | .profileEvent => 3
  | .supplyWarning => 4 | .resetDone => 5 | .groupRefused => 6 | .strayWrite => 7

/-- Berth notice `k` is set. -/
def State.notice (s : State) (k : BerthNotice) : Bool := s.report.notices.getLsbD k.code

/-- At least one notice is set. -/
def State.anyNotice (s : State) : Bool :=
  s.report.notices != 0 || allLines.any fun n => (s.line n).notice

/-- ATTN follows the notices (R175). -/
def judgeAttn (s : State) : State := { s with report := { s.report with attn := s.anyNotice } }

/-- Set the notice of line `n`; a set notice stays and asks nothing (R171). -/
def setLineNotice (n : LineId) (s : State) : State :=
  if (s.line n).notice then s
  else askBerth (askLine n (judgeAttn (modLine n (fun l => { l with notice := true }) s)))

/-- Set berth notice `k`; a set notice stays and asks nothing (R172). -/
def setBerthNotice (k : BerthNotice) (s : State) : State :=
  if s.notice k then s
  else askBerth (judgeAttn
    { s with report := { s.report with notices := s.report.notices ||| (1#8 <<< k.code) } })

/-! ### The order lane (R152) -/

/-- The lane after a pair is placed: it replaces its line's pending entry in place, or joins at the
tail (R152). -/
def placeIn (e : LaneEntry) (lane : List LaneEntry) : List LaneEntry :=
  if lane.any fun x => x.line == e.line then lane.map fun x => if x.line = e.line then e else x
  else lane ++ [e]

/-- A pair is placed in the order lane (R152). -/
def placePair (e : LaneEntry) (s : State) : State :=
  { s with bus := { s.bus with orderLane := placeIn e s.bus.orderLane } }

/-- The pair of a kind, tag and argument for line `n` (R47). -/
def makePair (n : LineId) (k : OrderKind) (t : Tag) (arg : Nat) : LaneEntry :=
  ⟨n, composeArgument arg, composeOrder k t⟩

/-- A pair that lockdown entry leaves in the lane: tag 0, or kind LOCK (R154). -/
def LaneEntry.stays (e : LaneEntry) : Bool :=
  tagField e.order == 0 || codeField e.order == OrderKind.lock.code

/-- Withdrawal on lockdown entry: host pairs of kinds other than LOCK leave the lane (R154). -/
def withdrawPairs (s : State) : State :=
  { s with bus := { s.bus with orderLane := s.bus.orderLane.filter LaneEntry.stays } }

/-! ### Verdict fields (R31 to R33) -/

/-- The last-host-order field takes a new value, and the line's record is asked for (R31). -/
def recordHost (n : LineId) (h : LastHost) (s : State) : State :=
  askLine n (modLine n (fun l => { l with lastHost := h }) s)

/-- An entry's ending verdict: tag, kind and outcome, the superseded tag as it was (R31, R32). -/
def recordEnding (n : LineId) (t : Tag) (k : OrderKind) (v : Verdict) (s : State) : State :=
  recordHost n ⟨some (t, k), some v, (s.line n).lastHost.superseded⟩ s

/-- A refusal with its reason: the field, the superseded tag removed, and the line's notice (R34). -/
def refuse (n : LineId) (o : Option (Tag × OrderKind)) (r : RefusalReason) (s : State) : State :=
  setLineNotice n (recordHost n ⟨o, some (.refused r), none⟩ s)

/-! ### Drum supervision at a change of state (R5 step 2, R118) -/

/-- The states whose motion keeps a run counter and a stall timer (R112, R114). -/
def LineState.moves : LineState → Bool
  | .paying _ | .rendering _ _ | .rewinding => true
  | .adopting | .parked | .standing | .hauling _ | .locked | .tending | .slipping | .slack
  | .faulted _ => false

def LineState.isHauling : LineState → Bool
  | .hauling _ => true
  | .adopting | .parked | .paying _ | .standing | .locked | .tending | .rendering _ _ | .slipping
  | .slack | .rewinding | .faulted _ => false

def LineState.isRendering : LineState → Bool
  | .rendering _ _ => true
  | .adopting | .parked | .paying _ | .standing | .hauling _ | .locked | .tending | .slipping
  | .slack | .rewinding | .faulted _ => false

/-- The states that count creep (R117). -/
def LineState.countsCreep : LineState → Bool
  | .parked | .standing | .locked | .slack => true
  | .adopting | .paying _ | .hauling _ | .tending | .rendering _ _ | .slipping | .rewinding
  | .faulted _ => false

/-- The expected brake of a state: set, released, or not checked (R3). -/
def LineState.expectedBrake : LineState → Option Bool
  | .parked | .standing | .locked | .slack => some true
  | .paying _ | .hauling _ | .tending | .rendering _ _ | .slipping | .rewinding => some false
  | .adopting | .faulted _ => none

/-- The expected direction of a pulse: outward, inward, or none (R118). -/
def LineState.expectedOutward : LineState → Option Bool
  | .paying _ | .rendering _ _ => some true
  | .rewinding => some false
  | .adopting | .parked | .standing | .hauling _ | .locked | .tending | .slipping | .slack
  | .faulted _ => none

/-- Drum supervision takes a line into state `st`: timers, run counter, creep count (R118), the
brake-settle timer afresh (R116). `t` gives the ticks of a load. -/
def Line.enter (img : List Word) (t : Nat → Nat) (st : LineState) (l : Line) : Line :=
  { l with
    state := st
    run := if st.moves then l.run else none
    stall := if st.moves then l.stall else none
    haul := if st.isHauling then
        (if l.state.isHauling then l.haul else some (t (haulLimit img))) else none
    slip := if st = .slipping then
        (if l.state = .slipping then l.slip else some (t (slipTimeLimit img))) else none
    brakeSettle := match st.expectedBrake with
      | none => none
      | some b => if l.brakeSet = b then none else some (t (brakeSettleTime img))
    creep := if st.countsCreep then 0 else l.creep }

/-- Line `n` takes state `st`: steps 1 and 2 of R5. -/
def enterState (n : LineId) (st : LineState) (s : State) : State :=
  modLine n (Line.enter s.image s.ticksFor st) s

/-- A load of the run counter, and of the stall timer with it (R112, R114). -/
def loadRun (n : LineId) (v : Nat) (s : State) : State :=
  modLine n (fun l => { l with
    run := some ⟨v, v⟩, stall := some (s.ticksFor (stallTime s.image)) }) s

/-- The stall timer alone is loaded: a rewind of unknown length (R114). -/
def loadStall (n : LineId) (s : State) : State :=
  modLine n (fun l => { l with stall := some (s.ticksFor (stallTime s.image)) }) s

/-- An order of the part's own: tag 0, argument the render step for an EASE and 0 otherwise, the
last-part-order field, the line's record (R7); an EASE loads the run counter. -/
def partOrder (n : LineId) (k : OrderKind) (c : PartCause) (s : State) : State :=
  let arg := if k = .ease then renderStep s.image n else 0
  let s := placePair (makePair n k 0 arg) s
  let s := askLine n (modLine n (fun l => { l with lastPart := some ⟨k, c⟩ }) s)
  if k = .ease then loadRun n arg s else s

/-- Fault entry, without the hand-on to the hold queue: the state and its reason, the notice, the LOCK
where the case calls for one (R4, R5 steps 1 to 3). -/
def faultEntry (n : LineId) (r : FaultReason) (lock : Option PartCause) (s : State) : State :=
  let s := setLineNotice n (enterState n (.faulted r) s)
  match lock with
  | some c => partOrder n .lock c s
  | none => s

/-! ### Probe requests (R96 to R98) -/

/-- The entry of line `n` marks that its probe has begun, if it is PROBING (R65, log 18). -/
def markBegun (n : LineId) (s : State) : State :=
  { s with queue := s.queue.map fun e =>
      if e.line = n ∧ e.stage = .probing then { e with probeBegun := true } else e }

/-- The probe conversion of line `n` begins (R96, R97). -/
def beginProbe (n : LineId) (resume : Option Nat) (s : State) : State :=
  let s := modLine n (fun l => { l with probeWaiting := false }) s
  markBegun n { s with scan := { s.scan with pass := .probing n resume } }

/-- The request of line `n` joins the probe set (R96). -/
def joinProbe (n : LineId) (s : State) : State := modLine n (fun l => { l with probeWaiting := true }) s

/-- A probe request for line `n` reaches the scan (R96 to R98): it begins at once, or waits while a probe
runs. -/
def requestProbe (n : LineId) (s : State) : State :=
  match s.scan.pass with
  | .idle => beginProbe n none s
  | .running p => beginProbe n (some p) s
  | .probing _ _ => joinProbe n s

/-- The lowest line whose probe request waits (R96). -/
def lowestProbe (s : State) : Option LineId := allLines.find? fun n => (s.line n).probeWaiting

end Sys2Proof.Machine
end

