-- ==== Sys2Proof/Machine/Effects.lean ====
section
/-! DEFINITION. What a forwarded order does to its line (R48 to R54), and rewind completion (R22). Each is
steps 1 to 3 of R5; the hand-on to the hold queue follows in Queue.lean. -/

namespace Sys2Proof.Machine

/-- LOCKED or STANDING by the latest classification (R21, R48). -/
def restState : Classification → LineState
  | .inBand | .high | .over => .locked
  | .noClass | .slack | .low => .standing

/-- The state a forwarded LOCK gives (R48). -/
def lockState (st : LineState) (c : Classification) : LineState :=
  match st with
  | .paying _ | .hauling _ | .tending | .locked | .standing => restState c
  | .slipping => if c = .slack then .slack else restState c
  | .rewinding | .slack => .slack
  | .adopting | .parked | .rendering _ _ | .faulted _ => st

/-- A forwarded LOCK; a state kept is no change (R48). -/
def lockEffect (n : LineId) (s : State) : State :=
  let st := lockState (s.line n).state (s.line n).cls
  if st = (s.line n).state then s else enterState n st s

/-- A run complete for a REWINDING line: PARKED by a part PARK with the stow switch made, or with a stow
made that came together with the run complete and is taken after it; a fault with STOW_MISMATCH
otherwise (R22, R113; log 27). -/
def rewindComplete (n : LineId) (s : State) : State :=
  if (s.line n).stowMade || s.stowComing n then partOrder n .park .runComplete (enterState n .parked s)
  else faultEntry n .stowMismatch (some .stowMismatch) s

/-- A forwarded REWIND: the run counter takes the payout count, is left empty for an unknown length,
and a count of 0 is a run complete at once (R53, R113; log 20). -/
def rewindEffect (n : LineId) (s : State) : State :=
  let s := enterState n .rewinding s
  if (s.line n).lengthUnknown then loadStall n s
  else if (s.line n).payout = 0 then rewindComplete n s
  else loadRun n (s.line n).payout s

/-- The effect of each order kind on its line (R48 to R54); RESTATE has its own rule (R55). -/
def applyEffect (n : LineId) (k : OrderKind) (arg : Nat) (s : State) : State :=
  match k with
  | .lock => lockEffect n s
  | .haul => enterState n (.hauling arg) s
  | .tend => enterState n .tending s
  | .ease => loadRun n arg (enterState n (.paying arg) s)
  | .slip => enterState n .slipping s
  | .rewind => rewindEffect n s
  | .park => enterState n .parked s
  | .restate => s

end Sys2Proof.Machine
end

