-- ==== Sys2Proof/Machine/Queue.lean ====
section
/-! DEFINITION. The hold queue: gates, stages, re-evaluation, forwarding, endings (R59 to R80), and the
hand-on of a change of a line's state (R5 steps 4 and 5, R127). -/

namespace Sys2Proof.Machine

/-! ### Gates (R61 to R64) -/

/-- LINE_READY is open (R62). -/
def lineReady (s : State) (n : LineId) : Bool :=
  (s.line n).state == .locked || (s.line n).state == .tending || (s.line n).state == .standing

/-- A line that has gone before: SLACK, REWINDING or PARKED (R63). -/
def LineState.released : LineState → Bool
  | .slack | .rewinding | .parked => true
  | .adopting | .paying _ | .standing | .hauling _ | .locked | .tending | .rendering _ _
  | .slipping | .faulted _ => false

/-- RANK_ORDER is open (R63). -/
def rankOrder (s : State) (n : LineId) : Bool :=
  allLines.all fun m =>
    !(s.line m).fitted || !decide ((s.line m).rank < (s.line n).rank) || (s.line m).state.released

/-- SURGE_SETTLED is open (R64). -/
def surgeSettled (s : State) (n : LineId) : Bool :=
  match (s.line n).span with
  | some v => decide (v ≤ surgeLimit s.image n)
  | none => false

/-- LINE_READY, RANK_ORDER and SURGE_SETTLED are all open (R66). -/
def gatesOpen (s : State) (n : LineId) : Bool :=
  lineReady s n && rankOrder s n && surgeSettled s n

/-- The closed-gate set of a SLIP entry as judged now (R61). -/
def slipGates (s : State) (n : LineId) : Gates where
  lineReady := !lineReady s n
  rankOrder := !rankOrder s n
  surgeSettled := !surgeSettled s n
  tensionFree := true
  lineSlack := false

/-- The closed-gate set of a REWIND entry (R61). -/
def rewindGates : Gates := ⟨false, false, false, false, true⟩

/-! ### The list of entries (R59) -/

/-- The entry of `e`'s line becomes `e`, in place. -/
def putEntry (e : Entry) (s : State) : State :=
  { s with queue := s.queue.map fun x => if x.line = e.line then e else x }

/-- The entry of line `n` leaves the list; those behind close up (R59). -/
def dropEntry (n : LineId) (s : State) : State :=
  { s with queue := s.queue.filter fun x => !(x.line == n) }

/-- The kind of the order an entry holds. -/
def HeldKind.order : HeldKind → OrderKind
  | .slip => .slip
  | .rewind => .rewind

/-! ### Judgement and forwarding (R67 to R71) -/

/-- Forwarding: the verdict, the removal, the pair, the new state (R71). -/
def forward (e : Entry) (s : State) : State :=
  let s := recordEnding e.line e.tag e.kind.order .forwarded s
  let s := askBerth (dropEntry e.line s)
  let s := placePair (makePair e.line e.kind.order e.tag 0) s
  askLine e.line (applyEffect e.line e.kind.order 0 s)

/-- A SLIP entry after a judgement of its three gates (R67, R68): back to WAITING with the failed mark
cleared where one is closed; to PROBING where all are open and the mark is clear. -/
def judged (s : State) (e : Entry) : Entry :=
  if gatesOpen s e.line then
    if e.stage = .probing ∨ e.failed = true then { e with closed := slipGates s e.line }
    else { e with closed := slipGates s e.line, stage := .probing, probeBegun := false }
  else { e with closed := slipGates s e.line, stage := .waiting, failed := false, probeBegun := false }

/-- A SLIP entry is judged: it takes its new form, its record is asked for where stage or closed set
changed, and on entry to PROBING its request joins the probe set (R67, R80, R96). -/
def judgeSlip (e : Entry) (s : State) : State :=
  let e' := judged s e
  let s := putEntry e' s
  let s := if e'.stage = e.stage ∧ e'.closed = e.closed then s else askLine e.line s
  if e.stage = .waiting ∧ e'.stage = .probing then joinProbe e.line s else s

/-- One judgement in a walk: a REWIND whose line is SLACK is forwarded (R62, R69). -/
def judgeEntry (n : LineId) (s : State) : State :=
  match s.entry n with
  | none => s
  | some e =>
    match e.kind with
    | .rewind => if (s.line n).state = .slack then forward e s else s
    | .slip => judgeSlip e s

/-- One walk of the list, oldest first (R69). -/
def walkOnce (s : State) : State :=
  (s.queue.map (·.line)).foldl (fun t n => judgeEntry n t) s

/-- Walks follow one another until one forwards nothing (R69); `fuel` bounds them, for each forwarding
removes an entry. -/
def walks : Nat → State → State
  | 0, s => s
  | fuel + 1, s =>
    if (walkOnce s).queue.length < s.queue.length then walks fuel (walkOnce s) else walkOnce s

/-- The walks of one re-evaluation (R69). -/
def rewalk (s : State) : State := walks (s.queue.length + 1) s

/-- The lowest line with an entry whose probe request waits (R96). -/
def lowestAsked (s : State) : Option LineId :=
  allLines.find? fun n => (s.line n).probeWaiting && (s.entry n).isSome

/-- The requests that the judgements of one hand-on have put into the probe set reach the scan together:
where it is not PROBING, the lowest line goes first (R96 to R98; log 32). -/
def takeProbes (s : State) : State :=
  match lowestAsked s with
  | some m => requestProbe m s
  | none => s

/-- The re-evaluation of the hold queue: the walks, then the probes they asked for (R69). -/
def reevaluate (s : State) : State := takeProbes (rewalk s)

/-- The re-evaluations for the lines whose state is not the one it was in `old`, where one step has changed
the state of several (R5 step 4). -/
def reevaluateChanged (old s : State) : State :=
  eachLine (fun n t => if (s.line n).state = (old.line n).state then t else reevaluate t) s

/-! ### The host-silence timer and the automatic change (R122, R127, R128) -/

/-- The phases in which the host-silence timer runs (R128). -/
def Phase.runsSilence : Phase → Bool
  | .arrival | .secured | .departure => true
  | .starting | .halted | .vacant | .lockdown => false

/-- The host-silence timer at a change of phase from `old` (R128). -/
def silenceAt (old : Phase) (s : State) : State :=
  let t : Timer :=
    if s.berth.phase.runsSilence then
      (if old.runsSilence then s.berth.silence else some (s.ticksFor (hostSilenceTime s.image)))
    else none
  { s with berth := { s.berth with silence := t } }

/-- A change of phase: the new value, the actions that go with it, the host-silence timer, the berth
record (R122). -/
def changePhase (p : Phase) (actions : State → State) (s : State) : State :=
  askBerth (silenceAt s.berth.phase (actions { s with berth := { s.berth with phase := p } }))

/-- DEPARTURE becomes VACANT when a change of a line's state leaves every fitted line PARKED (R127). -/
def autoVacant (s : State) : State :=
  if s.berth.phase = .departure ∧ s.allParked then changePhase .vacant id s else s

/-- The hand-on of a change of line `n`'s state after steps 1 to 3 of R5: the hold queue, the line's
record, the automatic change (log 23). -/
def settle (n : LineId) (s : State) : State := autoVacant (askLine n (reevaluate s))

/-! ### Entries made, ended, sampled -/

/-- The entry made for a held order (R60, R66): a REWIND is WAITING with LINE_SLACK closed, a SLIP is
PROBING where its three gates are open. -/
def newEntry (s : State) (n : LineId) (k : HeldKind) (t : Tag) (o : Origin) : Entry where
  line := n
  kind := k
  tag := t
  closed := match k with
    | .slip => slipGates s n
    | .rewind => rewindGates
  stage := match k with
    | .slip => if gatesOpen s n then .probing else .waiting
    | .rewind => .waiting
  failed := false
  deadline := s.ticksFor (match k with
    | .slip => slipHoldLimit s.image
    | .rewind => rewindHoldLimit s.image)
  origin := o
  probeBegun := false

/-- A new entry asks for its probe where it is PROBING (R66). -/
def askProbe (e : Entry) (s : State) : State :=
  if e.stage = .probing then requestProbe e.line s else s

/-- The hold step (R45): replace the line's entry in place, refuse with QUEUE_FULL, or append. -/
def holdOrder (n : LineId) (k : HeldKind) (t : Tag) (o : Origin) (s : State) : State :=
  match s.entry n with
  | some old =>
    let e := newEntry s n k t o
    let s := recordHost n ⟨some (t, k.order), some .held, some old.tag⟩ s
    askProbe e (setLineNotice n (putEntry e s))
  | none =>
    if Config.queueCapacity ≤ s.queue.length then refuse n (some (t, k.order)) .queueFull s
    else
      let e := newEntry s n k t o
      let s := recordHost n ⟨some (t, k.order), some .held, none⟩ s
      askProbe e (askBerth { s with queue := s.queue ++ [e] })

/-- Supersession by a passing order: the entry goes, its line's notice is set, the berth record is
asked for (R74). -/
def supersede (n : LineId) (s : State) : State :=
  match s.entry n with
  | none => s
  | some _ => askBerth (setLineNotice n (dropEntry n s))

/-- An entry ended without forwarding: its verdict, its removal, the notice (R72, R78). -/
def endEntry (v : Verdict) (e : Entry) (s : State) : State :=
  setLineNotice e.line (recordEnding e.line e.tag e.kind.order v (dropEntry e.line s))

/-- The flush: every entry ends as FLUSHED, oldest first (R78, R79). -/
def flush (s : State) : State :=
  if s.queue = [] then s
  else askBerth (s.queue.foldl (fun t e => endEntry .flushed e t) s)

/-- The probe result passes: the tension is fresh and at or below the slip limit (R65). -/
def tensionFree (s : State) (n : LineId) : Bool :=
  match (s.line n).tension with
  | some v => decide (v ≤ slipLimit s.image n)
  | none => false

/-- A probe result with the three gates open fails: WAITING with the failed-probe mark (R68). -/
def failProbe (e : Entry) (s : State) : State :=
  askLine e.line (putEntry { e with
    closed := slipGates s e.line, stage := .waiting, failed := true, probeBegun := false } s)

/-- The hold queue takes a sample of line `n` for its entry, after the line table (R70); `probe` says
that a probe conversion gave it. -/
def sampleEntry (n : LineId) (probe : Bool) (s : State) : State :=
  match s.entry n with
  | none => s
  | some e =>
    match e.kind with
    | .rewind => s
    | .slip =>
      if probe && e.probeBegun && e.stage == .probing && gatesOpen s n then
        if tensionFree s n then autoVacant (reevaluate (forward e s)) else failProbe e s
      else if probe && e.probeBegun && e.stage == .probing then judgeSlip e s
      else takeProbes (judgeSlip { e with failed := e.failed && !tensionFree s n } s)

end Sys2Proof.Machine
end

