-- ==== Sys2Proof/Machine/Lockdown.lean ====
section
/-! DEFINITION. Lockdown causes and lockdown entry (R130 to R132), the end of STARTING (R136) and the
change between part events and the line table that lockdown shares with it. -/

namespace Sys2Proof.Machine

/-- Line `n` takes state `st` with an order of the part's own, handed on by R5. -/
def transition (n : LineId) (st : LineState) (o : Option (OrderKind × PartCause)) (s : State) : State :=
  let s := enterState n st s
  match o with
  | some (k, c) => settle n (partOrder n k c s)
  | none => settle n s

/-- Fault entry handed on by R5 (R4). -/
def faultLine (n : LineId) (r : FaultReason) (lock : Option PartCause) (s : State) : State :=
  settle n (faultEntry n r lock s)

/-- The number k of a lockdown cause (09). -/
def LockdownCause.code : LockdownCause → Nat
  | .hostRequest => 0 | .hostSilent => 1 | .supplyLow => 2 | .senseFault => 3 | .profileFault => 4
  | .overload => 5 | .adoption => 6

/-- The set of one cause. -/
def LockdownCause.bit (c : LockdownCause) : CauseSet := 1#7 <<< c.code

/-- A cause stands in a set (R130). -/
def CauseSet.has (cs : CauseSet) (c : LockdownCause) : Bool := cs.getLsbD c.code

/-- The cause set and the still-present set take new values; the berth record is asked for where either
changed (R130). -/
def setCauses (causes present : CauseSet) (s : State) : State :=
  if causes = s.berth.causes ∧ present = s.berth.present then s
  else askBerth { s with berth := { s.berth with causes := causes, present := present } }

/-- A cause joins the cause set, and the still-present set where its condition holds (R131). -/
def addCause (c : LockdownCause) (present : Bool) (s : State) : State :=
  setCauses (s.berth.causes ||| c.bit)
    (if present then s.berth.present ||| c.bit else s.berth.present) s

/-- A condition has ended: the cause leaves the still-present set alone (R130). -/
def endCause (c : LockdownCause) (s : State) : State :=
  setCauses s.berth.causes (s.berth.present &&& ~~~c.bit) s

/-- The states lockdown entry writes LOCK for (R132). -/
def LineState.inMotion : LineState → Bool
  | .paying _ | .hauling _ | .tending | .slipping | .rewinding => true
  | .adopting | .parked | .standing | .locked | .rendering _ _ | .slack | .faulted _ => false

/-- The lockdown LOCK of a fitted line in motion, with the cause that entered LOCKDOWN (R132). -/
def lockdownLock (c : LockdownCause) (n : LineId) (s : State) : State :=
  if (s.line n).fitted ∧ (s.line n).state.inMotion then
    transition n (lockState (s.line n).state (s.line n).cls) (some (.lock, .lockdown c)) s
  else s

/-- Every argument latch is emptied (R132). -/
def emptyLatches (s : State) : State :=
  eachLine (fun n => modLine n fun l => { l with latch := none }) s

/-- The actions of lockdown entry, in the order of R132. -/
def entryActions (c : LockdownCause) (s : State) : State :=
  setBerthNotice .lockdownEntered
    (emptyLatches (withdrawPairs (eachLine (lockdownLock c) (flush s))))

/-- LOCKDOWN is entered with a cause (R122, R132). -/
def enterLockdown (c : LockdownCause) (s : State) : State :=
  changePhase .lockdown (entryActions c) s

/-- A cause is raised to the berth block (R131). -/
def raiseCause (c : LockdownCause) (present : Bool) (s : State) : State :=
  let new := !(s.berth.causes.has c)
  let s := addCause c present s
  match s.berth.phase with
  | .vacant | .arrival | .secured | .departure => enterLockdown c s
  | .lockdown => if new then setBerthNotice .lockdownEntered s else s
  | .starting | .halted => s

/-- The berth leaves STARTING at DONE (R136). -/
def leaveStarting (s : State) : State :=
  if s.berth.causes = 0 ∧ s.allParked then changePhase .vacant id s
  else
    enterLockdown .adoption (if s.allParked then s else addCause .adoption false s)

end Sys2Proof.Machine
end

