-- ==== Sys2Proof/Machine/Flags.lean ====
section
/-! DEFINITION. The codes and flags software sees: the sample port answer, the line status record and the
berth status record, composed from the state (08 R164, R168; 09 R180, R181). -/

namespace Sys2Proof.Machine

/-- A number placed at bit `at_` of a word. -/
def field (v at_ : Nat) : Word := BitVec.ofNat 32 v <<< at_

/-- One bit of a word. -/
def flag (b : Bool) (at_ : Nat) : Word := field b.toNat at_

/-- State code (09). -/
def LineState.code : LineState → Nat
  | .adopting => 0 | .parked => 1 | .paying _ => 2 | .standing => 3 | .hauling _ => 4 | .locked => 5
  | .tending => 6 | .rendering _ _ => 7 | .slipping => 8 | .slack => 9 | .rewinding => 10
  | .faulted _ => 11

/-- Fault reason code (09). -/
def FaultReason.code : FaultReason → Nat
  | .stall => 1 | .haulTimeout => 2 | .slipTimeout => 3 | .lineSlack => 4 | .brakeCreep => 5
  | .brakeMismatch => 6 | .renderExhausted => 7 | .snag => 8 | .stowMismatch => 9 | .stowLost => 10

/-- The fault reason shown, 0 unless FAULTED (09). -/
def LineState.reasonCode : LineState → Nat
  | .faulted r => r.code
  | .adopting | .parked | .paying _ | .standing | .hauling _ | .locked | .tending | .rendering _ _
  | .slipping | .slack | .rewinding => 0

/-- Render steps used shown, 0 unless RENDERING (09). -/
def LineState.stepsShown : LineState → Nat
  | .rendering _ used => used
  | .adopting | .parked | .paying _ | .standing | .hauling _ | .locked | .tending | .slipping
  | .slack | .rewinding | .faulted _ => 0

/-- Classification code (09). -/
def Classification.code : Classification → Nat
  | .noClass => 0 | .slack => 1 | .low => 2 | .inBand => 3 | .high => 4 | .over => 5

/-- Outcome code (09). -/
def Verdict.code : Verdict → Nat
  | .passed => 1 | .held => 2 | .refused _ => 3 | .forwarded => 4 | .timedOut => 5 | .flushed => 6

/-- Refusal reason code (09). -/
def RefusalReason.code : RefusalReason → Nat
  | .partialWrite => 1 | .badCheck => 2 | .badKind => 3 | .notFitted => 4 | .fallbackProfile => 5
  | .wrongPhase => 6 | .wrongState => 7 | .renderActive => 8 | .notStowed => 9
  | .argumentStale => 10 | .argumentRange => 11 | .queueFull => 12

/-- Cause code of a part order (09). -/
def PartCause.code : PartCause → Nat
  | .runComplete => 1 | .haulReached => 2 | .renderStep => 3 | .renderReturn => 4
  | .renderExhausted => 5 | .stall => 6 | .haulTimeout => 7 | .slipTimeout => 8 | .lineSlack => 9
  | .brakeCreep => 10 | .brakeMismatch => 11 | .snag => 12 | .stowMismatch => 13 | .stowMade => 14
  | .lockdown c => 15 + c.code
  | .derivation => 21

/-- Last part order kind code, bits 23:22 of word 3 (R181). -/
def partKindCode : OrderKind → Nat
  | .tend => 1
  | .ease => 2
  | .park => 3
  | .lock | .haul | .slip | .rewind | .restate => 0

/-- Phase code (09). -/
def Phase.code : Phase → Nat
  | .starting => 0 | .vacant => 1 | .arrival => 2 | .secured => 3 | .departure => 4 | .lockdown => 5
  | .halted => 6

/-- Reset cause code (09). -/
def ResetCause.code : ResetCause → Nat
  | .powerOn => 0 | .brownOut => 1 | .pin => 2 | .command => 3

/-- Phase refusal reason code (09). -/
def RequestRefusal.code : RequestRefusal → Nat
  | .badRequest => 1 | .wrongPhase => 2 | .notReady => 3

/-- Profile outcome code (09). -/
def ProfileOutcome.code : ProfileOutcome → Nat
  | .noOutcome => 0 | .activated => 1 | .rejected _ => 2 | .disturbed => 3 | .berthBusy => 4
  | .verifyFailed => 5 | .selfTestFailed => 6

/-- The first failing word index with its present bit, word 3 bits 19:12 (09). -/
def ProfileOutcome.indexField : ProfileOutcome → Word
  | .rejected i => field i 12 ||| flag true 19
  | .noOutcome | .activated | .disturbed | .berthBusy | .verifyFailed | .selfTestFailed => 0

/-- The closed-gate set shown, bits 23:19 of word 2 (09). -/
def Gates.shown (g : Gates) : Word :=
  flag g.lineReady 19 ||| flag g.rankOrder 20 ||| flag g.surgeSettled 21 ||| flag g.tensionFree 22
    ||| flag g.lineSlack 23

/-- Bits 31:24 of word 3: the reason while REFUSED, the superseded tag otherwise (R181). -/
def reasonOrTag (h : LastHost) : Nat :=
  match h.outcome with
  | some (.refused r) => r.code
  | some .passed | some .held | some .forwarded | some .timedOut | some .flushed | none =>
    (h.superseded.map (·.toNat)).getD 0

/-- Word 0 of the record of line `n` (09). -/
def lineWord0 (s : State) (n : LineId) : Word :=
  let l := s.line n
  let e := s.entry n
  l.seq.setWidth 32 ||| field l.state.code 16 ||| field l.state.reasonCode 20
    ||| flag l.lengthUnknown 24 ||| flag l.tension.isNone 25 ||| flag e.isSome 26 ||| flag l.notice 27
    ||| flag (e.any fun x => x.stage == .probing) 28
    ||| flag (e.any fun x => x.origin == .groupWord) 29
    ||| flag l.lastHost.superseded.isSome 30

/-- Word 1 of the record of line `n` (09). -/
def lineWord1 (s : State) (n : LineId) : Word :=
  let l := s.line n
  field (l.tension.getD 0) 0 ||| field l.cls.code 14 ||| field (l.span.getD 32767) 17

/-- Word 2 of the record of line `n` (09). -/
def lineWord2 (s : State) (n : LineId) : Word :=
  let l := s.line n
  field l.payout 0 ||| field l.state.stepsShown 16
    ||| ((s.entry n).map fun x => x.closed.shown).getD 0
    ||| field ((l.lastPart.map fun p => p.cause.code).getD 0) 24

/-- Word 3 of the record of line `n` (09, R181). -/
def lineWord3 (s : State) (n : LineId) : Word :=
  let l := s.line n
  ((l.seq.setWidth 8).setWidth 32)
    ||| field ((l.lastHost.order.map fun o => o.1.toNat).getD 0) 8
    ||| field ((l.lastHost.order.map fun o => o.2.code % 8).getD 0) 16
    ||| field ((l.lastHost.outcome.map Verdict.code).getD 0) 19
    ||| field ((l.lastPart.map fun p => partKindCode p.kind).getD 0) 22
    ||| field (reasonOrTag l.lastHost) 24

/-- Word 0 of the berth record (09). -/
def berthWord0 (s : State) : Word :=
  s.report.seq.setWidth 32 ||| field s.berth.phase.code 16 ||| flag (s.profile.source == .loaded) 19

/-- Word 1 of the berth record (09). -/
def berthWord1 (s : State) : Word :=
  s.berth.causes.setWidth 32 ||| (s.berth.present.setWidth 32 <<< 8) ||| field s.supply.cause.code 16
    ||| field ((s.berth.refusal.map RequestRefusal.code).getD 0) 18

/-- The line notice summary, bits 11:0 (09). -/
def noticeSummary (s : State) : Word :=
  allLines.foldl (fun w n => w ||| flag (s.line n).notice n.val) 0

/-- Word 2 of the berth record (09). -/
def berthWord2 (s : State) : Word :=
  noticeSummary s ||| (s.report.notices.setWidth 32 <<< 12) ||| field s.queue.length 20
    ||| flag s.supply.live 24 ||| flag s.supply.latched 25

/-- Word 3 of the berth record (09). -/
def berthWord3 (s : State) : Word :=
  ((s.report.seq.setWidth 8).setWidth 32) ||| field s.profile.outcome.code 8
    ||| flag (s.profile.load != .idle) 11 ||| s.profile.outcome.indexField

/-- The four words of record `r` as they stand (R163). -/
def recordWords (r : RecId) (s : State) : DTransfer :=
  if h : r.val < 12 then
    .record r (lineWord0 s ⟨r.val, h⟩) (lineWord1 s ⟨r.val, h⟩) (lineWord2 s ⟨r.val, h⟩)
      (lineWord3 s ⟨r.val, h⟩)
  else .record r (berthWord0 s) (berthWord1 s) (berthWord2 s) (berthWord3 s)

/-- The ring entry the cursor names, absent in STARTING and HALTED and for an unfitted line (R105). -/
def cursorSample (s : State) : Option Sample :=
  if s.berth.phase.silent || !(s.line s.scan.cursor.line).fitted then none
  else (s.line s.scan.cursor.line).ring[s.scan.cursor.index.val]?

/-- The answer to a read of the sample port (R105, 09). -/
def portAnswer (s : State) : Word :=
  let c := s.scan.cursor
  field c.index.val 17 ||| field c.line.val 20 |||
    match cursorSample s with
    | some x => field x.tension 0 ||| field x.cls.code 14 ||| flag true 31
    | none => 0

/-- The cursor after an answer (R105). -/
def Cursor.advance (c : Cursor) : Cursor :=
  if c.decrement then
    if c.index = 0 then { c with index := 7, line := c.line - 1 } else { c with index := c.index - 1 }
  else
    if c.index = 7 then { c with index := 0, line := c.line + 1 } else { c with index := c.index + 1 }

end Sys2Proof.Machine
end

