-- ==== Sys2Proof/Machine/LineEvents.lean ====
section
/-! DEFINITION. The line table: sample events, renders, drum events and derivation (01, R204). -/

namespace Sys2Proof.Machine

/-! ### Derivation (R204) -/

/-- The state derivation gives (R204 steps 2 to 4). -/
def derivedState (l : Line) : LineState :=
  if l.stowMade then .parked else restState l.cls

/-- The derivation procedure, handed on up to step 3 of R5 (R204): a LOCK for a released brake, the
derived state, a payout count of 0 for a line found stowed. -/
def deriveLine (n : LineId) (s : State) : State :=
  let s := if (s.line n).brakeSet then s else partOrder n .lock .derivation s
  let s := if (s.line n).stowMade then modLine n (fun l => { l with payout := 0 }) s else s
  enterState n (derivedState (s.line n)) s

/-! ### Samples (R9 to R17) -/

/-- OVER persistence is met by the sample just taken (R9). -/
def overMet (s : State) (n : LineId) : Bool :=
  (s.line n).cls == .over && decide (renderPersistence s.image ≤ (s.line n).overRun)

/-- SLACK persistence is met by the sample just taken (R9). -/
def slackMet (s : State) (n : LineId) : Bool :=
  (s.line n).cls == .slack && decide (slackPersistence s.image ≤ (s.line n).slackRun)

/-- Render entry (R16). -/
def renderEntry (n : LineId) (ret : RenderReturn) (s : State) : State :=
  settle n (setLineNotice n (partOrder n .ease .renderStep (enterState n (.rendering ret 1) s)))

/-- Render return (R17). -/
def renderReturn (n : LineId) (ret : RenderReturn) (s : State) : State :=
  match ret with
  | .tending => transition n .tending (some (.tend, .renderReturn)) s
  | .locked => transition n .locked (some (.lock, .renderReturn)) s

/-- The classifications that relieve a render (R17). -/
def Classification.relieves : Classification → Bool
  | .slack | .low | .inBand => true
  | .noClass | .high | .over => false

/-- The classifications that take up a STANDING line (R12). -/
def Classification.loaded : Classification → Bool
  | .inBand | .high | .over => true
  | .noClass | .slack | .low => false

/-- The classifications that snag a REWINDING line (R15). -/
def Classification.snags : Classification → Bool
  | .low | .inBand | .high | .over => true
  | .noClass | .slack => false

/-- The latest tension is fresh and at or above the haul target (R10). -/
def haulReached (s : State) (n : LineId) (target : Nat) : Bool :=
  match (s.line n).tension with
  | some v => decide (target ≤ v)
  | none => false

/-- A sample event at the line table (R9 to R17, R206). -/
def sampleEvent (n : LineId) (s : State) : State :=
  match (s.line n).state with
  | .adopting => if s.berth.phase.silent then s else settle n (deriveLine n s)
  | .hauling target =>
    if overMet s n then renderEntry n .locked s
    else if haulReached s n target then transition n .locked (some (.lock, .haulReached)) s
    else s
  | .locked =>
    if overMet s n then renderEntry n .locked s
    else if slackMet s n then faultLine n .lineSlack none s
    else s
  | .standing =>
    if overMet s n then renderEntry n .locked s
    else if (s.line n).cls.loaded then transition n .locked none s
    else s
  | .tending =>
    if overMet s n then renderEntry n .tending s
    else if slackMet s n then faultLine n .lineSlack (some .lineSlack) s
    else s
  | .slipping => if slackMet s n then transition n .slack none s else s
  | .rewinding => if (s.line n).cls.snags then faultLine n .snag (some .snag) s else s
  | .rendering ret _ => if (s.line n).cls.relieves then renderReturn n ret s else s
  | .paying _ | .parked | .slack | .faulted _ => s

/-! ### Drum events (R18 to R27) -/

/-- A further render step: the EASE and the count of steps, with steps 3 and 5 of R5 alone (R18). -/
def renderStepOn (n : LineId) (ret : RenderReturn) (used : Nat) (s : State) : State :=
  askLine n (partOrder n .ease .renderStep
    (modLine n (fun l => { l with state := .rendering ret (used + 1) }) s))

/-- A run complete at the line table (R18, R19, R21, R22). -/
def runComplete (n : LineId) (s : State) : State :=
  match (s.line n).state with
  | .paying _ => transition n (restState (s.line n).cls) (some (.lock, .runComplete)) s
  | .rendering ret used =>
    if used < renderStepLimit s.image then renderStepOn n ret used s
    else raiseCause .overload false (faultLine n .renderExhausted (some .renderExhausted) s)
  | .rewinding => settle n (rewindComplete n s)
  | .adopting | .parked | .standing | .hauling _ | .locked | .tending | .slipping | .slack
  | .faulted _ => s

/-- A stall at the line table (R23). -/
def stallEvent (n : LineId) (s : State) : State :=
  if (s.line n).state.moves then faultLine n .stall (some .stall) s else s

/-- A haul time-out at the line table (R24). -/
def haulTimeOutEvent (n : LineId) (s : State) : State :=
  if (s.line n).state.isHauling then faultLine n .haulTimeout (some .haulTimeout) s else s

/-- A slip time-out at the line table (R24). -/
def slipTimeOutEvent (n : LineId) (s : State) : State :=
  if (s.line n).state = .slipping then faultLine n .slipTimeout (some .slipTimeout) s else s

/-- A creep limit at the line table (R25). -/
def creepEvent (n : LineId) (s : State) : State :=
  match (s.line n).state with
  | .parked => faultLine n .brakeCreep none s
  | .standing | .locked | .slack => faultLine n .brakeCreep (some .brakeCreep) s
  | .adopting | .paying _ | .hauling _ | .tending | .rendering _ _ | .slipping | .rewinding
  | .faulted _ => s

/-- A brake mismatch at the line table (R26). -/
def mismatchEvent (n : LineId) (s : State) : State :=
  if (s.line n).state.expectedBrake.isSome then
    faultLine n .brakeMismatch (some .brakeMismatch) s
  else s

/-- A stow made at the line table (R22, R27). -/
def stowMadeEvent (n : LineId) (s : State) : State :=
  if (s.line n).state = .rewinding then transition n .parked (some (.park, .stowMade)) s else s

/-- A stow lost at the line table (R27). -/
def stowLostEvent (n : LineId) (s : State) : State :=
  if (s.line n).state = .parked then faultLine n .stowLost none s else s

end Sys2Proof.Machine
end

