-- ==== Sys2Proof/Machine/Scanning.lean ====
section
/-! DEFINITION. Tension scanning: samples, the reference, passes and probes, the restart of the scan (04),
and the end of start-up that the first pass complete brings (R205, R207). -/

namespace Sys2Proof.Machine

/-! ### From raw value to sample (R87 to R91, R94) -/

/-- The tension of a raw value of line `n`, in 0.1 kN (R87). -/
def tensionOf (img : List Word) (n : LineId) (raw : Nat) : Nat :=
  min Config.tensionMax ((raw - zeroOffset img n) * spanFactor img n / 4096)

/-- The classification of a tension of line `n`, the first condition that holds (R88). -/
def classOf (img : List Word) (n : LineId) (t : Nat) : Classification :=
  if renderLimit img n < t then .over
  else if bandMax img n < t then .high
  else if bandMin img n ≤ t then .inBand
  else if slackLimit img n ≤ t then .low
  else .slack

/-- A run count after a sample: raised to at most 15 by its own class, 0 by another (R89). -/
def runAfter (own : Bool) (count : Nat) : Nat :=
  if own then min Config.runCountMax (count + 1) else 0

/-- The newest sample joins a ring of at most 8 (R90). -/
def pushSample (x : Sample) (ring : List Sample) : List Sample := (x :: ring).take Config.ringDepth

/-- A line's tension record takes a sample with the reference OK (R89, R90). -/
def Line.takeSample (t : Nat) (c : Classification) (l : Line) : Line :=
  { l with
    tension := some t
    cls := c
    overRun := runAfter (c == .over) l.overRun
    slackRun := runAfter (c == .slack) l.slackRun
    ring := pushSample ⟨t, c⟩ l.ring }

/-- A stale record: no latest tension, NONE, run counts 0; the ring is kept (R93, R94). -/
def Line.stale (l : Line) : Line :=
  { l with tension := none, cls := .noClass, overRun := 0, slackRun := 0 }

/-- The ring emptied, and with it the surge span absent (R95). -/
def Line.emptyRing (l : Line) : Line := { l with ring := [] }

/-- A line's tension record takes a sample under a reference FAULT: stale, the ring alone moves (R94). -/
def Line.takeUnderFault (t : Nat) (l : Line) : Line :=
  { l.stale with ring := pushSample ⟨t, .noClass⟩ l.ring }

/-- The record of line `n` takes a raw value (R91 step 1). -/
def storeSample (n : LineId) (raw : Nat) (s : State) : State :=
  let t := tensionOf s.image n raw
  match s.scan.ref with
  | .ok => modLine n (Line.takeSample t (classOf s.image n t)) s
  | .fault => modLine n (Line.takeUnderFault t) s

/-- A line sample: stored, raised to the line table, taken by the hold queue (R91). -/
def lineSample (n : LineId) (probe : Bool) (raw : Nat) (s : State) : State :=
  let s := storeSample n raw s
  let s := if (s.line n).fitted then sampleEvent n s else s
  sampleEntry n probe s

/-! ### Passes and probes (R84 to R86, R98, R99) -/

/-- The pass state takes a value. -/
def setPass (p : Pass) (s : State) : State := { s with scan := { s.scan with pass := p } }

/-- A line conversion of a pass completes: the pass moves on, the sample is handed on (R85, R97;
log 19). -/
def lineConversion (raw : Nat) (s : State) : State :=
  match s.scan.pass with
  | .running p =>
    match s.scan.plan[p]? with
    | some (.line n) => lineSample n false raw (setPass (.running (p + 1)) s)
    | some .reference | none => s
  | .idle | .probing _ _ => s

/-- What the scan does when a probe conversion has ended (R98). -/
def nextProbe (resume : Option Nat) (s : State) : State :=
  match lowestProbe s with
  | some m => beginProbe m resume s
  | none =>
    match resume with
    | some p => setPass (.running p) s
    | none => setPass .idle s

/-- A probe conversion completes (R98, R100). -/
def probeConversion (raw : Nat) (s : State) : State :=
  match s.scan.pass with
  | .probing n resume => nextProbe resume (lineSample n true raw s)
  | .idle | .running _ => s

/-- A pacing expiry: the timer reloads; a pass starts, waits behind a probe, or is dropped as an
overrun (R83, R84, R86, R99). -/
def pacingEvent (s : State) : State :=
  let s := { s with scan := { s.scan with pacing := some (s.ticksFor (pacingPeriod s.image)) } }
  match s.scan.pass with
  | .idle => setPass (.running 0) s
  | .probing n none => setPass (.probing n (some 0)) s
  | .running _ | .probing _ (some _) => setBerthNotice .scanOverrun s

/-! ### The reference (R92 to R95) -/

/-- The records of every fitted line are asked for. -/
def askFitted (s : State) : State :=
  eachLine (fun n t => if (t.line n).fitted then askLine n t else t) s

/-- The reference state takes a value and a count. -/
def setRef (r : RefState) (c : Nat) (s : State) : State :=
  { s with scan := { s.scan with ref := r, refCount := c } }

/-- Entry to the reference FAULT (R93). -/
def enterRefFault (s : State) : State :=
  let s := eachLine (fun n => modLine n Line.stale) (setRef .fault 0 s)
  askFitted (raiseCause .senseFault true s)

/-- Clearing of the reference FAULT (R95). -/
def clearRefFault (s : State) : State :=
  let s := eachLine (fun n => modLine n Line.emptyRing) (setRef .ok 0 s)
  askBerth (askFitted (endCause .senseFault s))

/-- The raw reference value lies in the active window (R92). -/
def refInWindow (s : State) (raw : Nat) : Bool :=
  within (referenceLow s.image) (referenceHigh s.image) raw

/-- The reference judgement (R92). -/
def judgeReference (raw : Nat) (s : State) : State :=
  match s.scan.ref, refInWindow s raw with
  | .ok, true => setRef .ok 0 s
  | .ok, false => if 2 ≤ s.scan.refCount + 1 then enterRefFault s else setRef .ok (s.scan.refCount + 1) s
  | .fault, true =>
    if 2 ≤ s.scan.refCount + 1 then clearRefFault s else setRef .fault (s.scan.refCount + 1) s
  | .fault, false => setRef .fault 0 s

/-! ### Pass complete (R103, R167, R205, R207) -/

/-- The start-up stage takes a value. -/
def setStage (g : Stage) (s : State) : State := { s with supply := { s.supply with stage := g } }

/-- The pass divider count takes a value. -/
def setDivider (d : Nat) (s : State) : State := { s with report := { s.report with divider := d } }

/-- The pass-end refresh (R167). -/
def refresh (s : State) : State :=
  if s.report.divider + 1 = reportDivider s.image then askFitted (setDivider 0 s)
  else setDivider (s.report.divider + 1) s

/-- DERIVE: the derivation procedure for every fitted line (R205). -/
def deriveAll (s : State) : State :=
  eachLine (fun n t => if (t.line n).fitted then settle n (deriveLine n t) else t) s

/-- DERIVE and DONE, within the event of the first pass complete (R205, R207). -/
def finishStartUp (s : State) : State :=
  let s := setStage .done (deriveAll (setStage .derive s))
  let s := setBerthNotice .resetDone (leaveStarting s)
  askBerth (eachLine askLine s)

/-- Pass complete (R103). -/
def passComplete (s : State) : State :=
  if s.supply.stage = .firstPass then finishStartUp s
  else if s.berth.phase.silent then s
  else refresh s

/-- The reference conversion that ends a pass completes (R85, R92, R103). -/
def referenceConversion (raw : Nat) (s : State) : State :=
  match s.scan.pass with
  | .running p =>
    match s.scan.plan[p]? with
    | some .reference =>
      let s := passComplete (judgeReference raw s)
      setPass (if s.scan.mode = .continuous then .running 0 else .idle) s
    | some (.line _) | none => s
  | .idle | .probing _ _ => s

/-! ### Activation and the start of the scan (R101, R102) -/

/-- The scan plan of a profile: the fitted lines, then the reference (R82). -/
def planOf (img : List Word) : List Channel :=
  ((allLines.filter (fittedBit img)).map Channel.line) ++ [.reference]

/-- Every record cleared: ring, span, run counts, tension (R101 step 3). -/
def clearRecords (s : State) : State :=
  eachLine (fun n => modLine n fun l => l.stale.emptyRing) s

/-- The pacing timer loaded in PACED mode, stopped in CONTINUOUS mode: the mode is the one taken at the
latest activation (R83). -/
def pacingFor (s : State) : Timer :=
  match s.scan.mode with
  | .paced => some (s.ticksFor (pacingPeriod s.image))
  | .continuous => none

/-- The scan plan and the scan mode are taken from the profile (R82, R83). -/
def takePlan (s : State) : State :=
  { s with scan := { s.scan with plan := planOf s.image, mode := scanMode s.image } }

/-- The pacing timer is started, where the mode runs it (R83). -/
def startPacing (s : State) : State := { s with scan := { s.scan with pacing := pacingFor s } }

/-- The request of an aborted probe goes back into the probe set (R101 step 1). -/
def returnProbe (s : State) : State :=
  match s.scan.pass with
  | .probing n _ => modLine n (fun l => { l with probeWaiting := true }) s
  | .idle | .running _ => s

/-- The requests of lines that the profile does not fit leave the probe set (R101 step 2). -/
def dropProbes (s : State) : State :=
  eachLine (fun n => modLine n fun l =>
    { l with probeWaiting := l.probeWaiting && fittedBit s.image n }) s

/-- The restart of the scan by an activation in service (R101). -/
def restartScan (s : State) : State :=
  nextProbe (some 0) (startPacing (takePlan (clearRecords (dropProbes (returnProbe s)))))

/-- The limited restart before FIRST_PASS: records, plan and mode, no pass, the timer stopped (R102). -/
def prepareScan (s : State) : State :=
  let s := takePlan (clearRecords s)
  { s with scan := { s.scan with pacing := none, pass := .idle } }

/-- FIRST_PASS is entered: the first pass starts (R102, R203). -/
def startFirstPass (s : State) : State := startPacing (setPass (.running 0) (setStage .firstPass s))

end Sys2Proof.Machine
end

