-- ==== Sys2Proof/Machine/ProfileOps.lean ====
section
/-! DEFINITION. The profile block: commit, load, validation, activation, verification, the start-up load
and the adoption read (10, R201, R202), and what the line table does at a change of profile (R2). -/

namespace Sys2Proof.Machine

/-! ### The line table at a change of the active profile (R2) -/

/-- Every drum timer stopped and the run counter empty. -/
def Line.stopDrum (l : Line) : Line :=
  { l with run := none, stall := none, haul := none, slip := none, brakeSettle := none }

/-- A line takes ADOPTING: no drum timer, no run counter (R2, R118). -/
def Line.adopt (l : Line) : Line := { l.stopDrum with state := .adopting }

/-- A line becomes PARKED and frozen: no drum timer, no run counter, the creep count 0 on entry (R2,
R107, R117). -/
def Line.freeze (l : Line) : Line :=
  { l.stopDrum with state := .parked, creep := if l.state = .parked then l.creep else 0 }

/-- The line's fitted flag, rank and required flag are copied from the profile (R2). -/
def Line.copyFlags (img : List Word) (n : LineId) (l : Line) : Line :=
  { l with fitted := fittedBit img n, rank := releaseRank img n, required := requiredFlag img n }

/-- A line at a change of profile; `starting` says that the phase is STARTING (R2). -/
def Line.applyProfile (img : List Word) (starting : Bool) (n : LineId) (l : Line) : Line :=
  let l' := l.copyFlags img n
  if starting then (if fittedBit img n then (if l.state = .adopting then l' else l'.adopt) else l'.freeze)
  else if fittedBit img n = l.fitted then l'
  else if fittedBit img n then l'.adopt
  else l'.freeze

/-- The line table copies the flags of every line and acts on each line whose flag changes (R2). -/
def applyProfile (s : State) : State :=
  eachLine (fun n => modLine n (Line.applyProfile s.image (s.berth.phase == .starting) n)) s

/-- The records of the lines whose fitted flag is not the one it was in `old` (R192 step 6). -/
def askChanged (old s : State) : State :=
  eachLine (fun n t => if (old.line n).fitted = (t.line n).fitted then t else askLine n t) s

/-! ### Outcomes -/

/-- A profile outcome is recorded: PROFILE_EVENT is set and the berth record asked for (R172, R183). -/
def recordOutcome (o : ProfileOutcome) (s : State) : State :=
  askBerth (setBerthNotice .profileEvent { s with profile := { s.profile with outcome := o } })

/-- The active copy, its source, and the verification timer loaded with 1000 ms (R192 step 1). -/
def setActive (img : List Word) (src : ProfileSource) (s : State) : State :=
  { s with profile := { s.profile with
    active := img, source := src, verify := some (s.ticksFor Config.verifyMs) } }

/-- The load ends: IDLE, the buffer empty (R189, R190). -/
def clearLoad (s : State) : State :=
  { s with profile := { s.profile with load := .idle, buffer := [], sum := 0 } }

/-! ### Activation (R192, R195) -/

/-- Activation of a valid loaded image in service; the hold queue is empty, so it has nothing to re-evaluate
for the lines that change (R192). -/
def activate (img : List Word) (s : State) : State :=
  let old := s
  let s := applyProfile (setActive img .loaded s)
  let s := setDivider 0 (restartScan s)
  askChanged old (recordOutcome .activated (endCause .profileFault s))

/-- The next fitted line at or above number `k`. -/
def nextFitted (s : State) (k : Nat) : Option LineId :=
  allLines.find? fun n => decide (k ≤ n.val) && (s.line n).fitted

/-- A fetch is asked for (R157). -/
def askFetch (f : Fetch) (s : State) : State := { s with bus := { s.bus with fetch := some f } }

/-- The adoption read goes on with the next fitted line at or above `k`, or FIRST_PASS begins (R202). -/
def adoptFrom (k : Nat) (s : State) : State :=
  match nextFitted s k with
  | some n => askFetch (.orderWord n) s
  | none => startFirstPass s

/-- The end of the start-up load: a profile is activated in the limited way, the outcome recorded, and
ADOPT_READ begins (R195, R201). -/
def endStartUpLoad (img : List Word) (src : ProfileSource) (o : ProfileOutcome) (s : State) : State :=
  let s := setDivider 0 (prepareScan (applyProfile (setActive img src s)))
  let s := if src = .loaded then endCause .profileFault s else s
  adoptFrom 0 (setStage .adoptRead (recordOutcome o s))

/-! ### Commit, load, validation (R188 to R191) -/

/-- The berth is quiet: the three conditions of R188. -/
def quiet (s : State) : Bool :=
  (s.berth.phase == .vacant || s.berth.phase == .lockdown) && s.queue.isEmpty &&
    allLines.all fun n => !(s.line n).fitted ||
      !((s.line n).state.moves || (s.line n).state.isHauling || (s.line n).state == .slipping)

/-- A fetch in progress on the D-port is marked, so that its value is not delivered (R158). -/
def discardFetch (s : State) : State :=
  match s.bus.dport with
  | some (.fetch f _) => { s with bus := { s.bus with dport := some (.fetch f true), fetch := none } }
  | some (.host _) | some (.pair _ _ _) | some (.record _ _ _ _ _) | none =>
    { s with bus := { s.bus with fetch := none } }

/-- A load starts or restarts at word 0 (R188). -/
def startLoad (s : State) : State :=
  askFetch (.image 0)
    { s with profile := { s.profile with load := .loading 0, buffer := [], sum := 0 } }

/-- A well-formed commit word is taken or refused (R188). -/
def commitWord (s : State) : State :=
  if quiet s then
    match s.profile.load with
    | .idle => askBerth (startLoad s)
    | .loading _ => startLoad (discardFetch s)
  else recordOutcome .berthBusy s

/-- A line may be left out of the fitted mask (R184): it is not fitted, or PARKED, or ADOPTING. -/
def mayUnfit (s : State) (n : LineId) : Bool :=
  !(s.line n).fitted || (s.line n).state == .parked || (s.line n).state == .adopting

/-- A load has ended at word 127 with image `img` and running sum `sum`: the image is judged and
activated, rejected, or turned away (R191, R195). -/
def endLoad (img : List Word) (sum : Word) (s : State) : State :=
  let s := askBerth (clearLoad s)
  match firstFailing img sum (mayUnfit s), s.supply.stage with
  | some i, .profileLoad => endStartUpLoad fallbackImage .fallback (.rejected i) s
  | none, .profileLoad => endStartUpLoad img .loaded .activated s
  | some i, _ => recordOutcome (.rejected i) s
  | none, _ => if quiet s then activate img s else recordOutcome .berthBusy s

/-- The value of a fetched image word is delivered to the load (R189). -/
def deliverImage (v : Word) (s : State) : State :=
  match s.profile.load with
  | .idle => s
  | .loading i =>
    let buffer := s.profile.buffer ++ [v]
    if i + 1 < Config.imageWords then
      askFetch (.image (i + 1)) { s with profile := { s.profile with
        load := .loading (i + 1), buffer := buffer, sum := s.profile.sum + v } }
    else endLoad buffer (s.profile.sum + v) s

/-- The value of an order word is delivered to the adoption read (R202). -/
def deliverOrderWord (n : LineId) (v : Word) (s : State) : State :=
  let s := recordHost n ⟨recoverOrder v, none, none⟩ s
  adoptFrom (n.val + 1) s

/-- A host write to the profile window aborts a load in flight (R190, R195). -/
def abortLoad (s : State) : State :=
  match s.profile.load with
  | .idle => s
  | .loading _ =>
    let s := askBerth (clearLoad (discardFetch s))
    if s.supply.stage = .profileLoad then endStartUpLoad fallbackImage .fallback .disturbed s
    else recordOutcome .disturbed s

/-! ### Verification (R193, R194) -/

/-- Words of the active copy come to hold other values (log 16). -/
def upsetCopy (u : List (Fin 128 × Word)) (s : State) : State :=
  { s with profile := { s.profile with
    active := u.foldl (fun ws x => ws.set x.1.val x.2) s.profile.active } }

/-- Render steps used above the limit are set to the limit. -/
def LineState.clamp (limit : Nat) : LineState → LineState
  | .rendering ret used => .rendering ret (min used limit)
  | .adopting => .adopting | .parked => .parked | .paying v => .paying v | .standing => .standing
  | .hauling v => .hauling v | .locked => .locked | .tending => .tending | .slipping => .slipping
  | .slack => .slack | .rewinding => .rewinding | .faulted r => .faulted r

/-- The render steps used of line `n` are held to the limit, and its record is asked for where they
change (R20, R166). -/
def clampLine (n : LineId) (s : State) : State :=
  let st := (s.line n).state.clamp (renderStepLimit s.image)
  if st = (s.line n).state then s else askLine n (modLine n (fun l => { l with state := st }) s)

/-- The render steps used of every line are held to the limit (R20). -/
def clampSteps (s : State) : State := eachLine clampLine s

/-- A verification mismatch swaps in the fallback profile (R194). The hold queue meets the lines newly
fitted within step 2, before the scan restarts (R5; log 21). -/
def mismatch (s : State) : State :=
  let old := s
  let s := reevaluateChanged old (applyProfile (setActive fallbackImage .fallback s))
  let s := clampSteps s
  let s := if s.supply.stage = .profileLoad ∨ s.supply.stage = .adoptRead then prepareScan s
    else restartScan s
  let s := recordOutcome .verifyFailed (setDivider 0 s)
  askChanged old (askBerth (raiseCause .profileFault true s))

/-- The verification timer expires and reloads; the active copy is summed (R193). -/
def verifyEvent (s : State) : State :=
  let s := { s with profile := { s.profile with verify := some (s.ticksFor Config.verifyMs) } }
  if imageSum s.image = 0 then s else mismatch s

end Sys2Proof.Machine
end

