-- ==== Sys2Proof/Machine/Resets.lean ====
section
/-! DEFINITION. The resets, the ends of their conditions, the self-test, and the supply monitor (11, R28,
R58, R81, R106, R120, R137 to R140, R161, R177, R196). -/

namespace Sys2Proof.Machine

/-- A reset for want of supply: it clears the retained domain (R120). -/
def ResetCause.clearsRetained : ResetCause → Bool
  | .powerOn | .brownOut => true
  | .pin | .command => false

/-- A line after a reset: the values of Line.reset, but for the retained domain at PIN and COMMAND and
the brake feedback input at every reset (R28, R58, R106, R120, R177). -/
def Line.afterReset (c : ResetCause) (l : Line) : Line :=
  if c.clearsRetained then { Line.reset with brakeSet := l.brakeSet }
  else { Line.reset with
    payout := l.payout, lengthUnknown := l.lengthUnknown, stowMade := l.stowMade,
    pulseAge := l.pulseAge, brakeSet := l.brakeSet }

/-- A D-port transfer at a PIN or COMMAND reset: it runs on, a fetch without its delivery (R161). -/
def DTransfer.afterReset : DTransfer → DTransfer
  | .fetch f _ => .fetch f true
  | .host h => .host h
  | .pair n a o => .pair n a o
  | .record r w0 w1 w2 w3 => .record r w0 w1 w2 w3

/-- The bus path after a reset: empty lanes and lists, no lock, the mark on internal traffic; for want
of supply every transfer is abandoned (R161, R162). -/
def Bus.afterReset (c : ResetCause) (b : Bus) : Bus :=
  if c.clearsRetained then { Bus.reset with base := b.base, readData := b.readData }
  else { Bus.reset with
    base := b.base, readData := b.readData, dport := b.dport.map DTransfer.afterReset,
    waiting := b.waiting, held := b.held }

/-- A reset from source `c`: every block at its values after reset, the stage RESET, the cause recorded
(R198, R208). -/
def takeReset (c : ResetCause) (s : State) : State :=
  let s := eachLine (fun n => modLine n (Line.afterReset c)) s
  { s with
    queue := []
    scan := Scan.reset
    berth := Berth.reset
    profile := Profile.reset
    bus := s.bus.afterReset c
    report := Reporting.reset
    supply := { s.supply with stage := .reset, cause := c, live := false, latched := false } }

/-- The straps are sampled: the mailbox base takes their levels (R140). -/
def sampleStraps (s : State) : State := { s with bus := { s.bus with base := s.supply.straps } }

/-- The levels on the strap pins. -/
def setStraps (v : BitVec 6) (s : State) : State := { s with supply := { s.supply with straps := v } }

/-- A power-on reset: VDD has been below the power-on level, so it is below the brown-out reset level
(R197). A pin reset in force stays in force, and holds stage RESET after the rise; R199 says so of a brown-out
only (log 15). -/
def powerOnEvent (s : State) : State :=
  let s := takeReset .powerOn s
  { s with supply := { s.supply with powered := false } }

/-- A brown-out reset: VDD, having been at or above the level, falls below it (R197). -/
def brownOutEvent (s : State) : State :=
  if s.supply.powered then
    let s := takeReset .brownOut s
    { s with supply := { s.supply with powered := false } }
  else s

/-- A drum at the start of the retained domain: count 0, the stow level taken from its input without
event, the length known where it is made (R110, R120). -/
def Line.startDomain (made : Bool) (l : Line) : Line :=
  { l with
    payout := 0
    stowMade := made
    lengthUnknown := !made
    pulseAge := Config.pulseGap }

/-- VDD rises above the brown-out reset level: the reset condition ends, the straps are sampled, the
retained domain starts, and start-up goes on unless a pin reset still holds (R120, R197, R199;
log 15 for one in force at a power-on reset). -/
def supplyRiseEvent (straps : BitVec 6) (stow : BitVec 12) (s : State) : State :=
  if s.supply.powered then s
  else
    let s := sampleStraps (setStraps straps s)
    let s := eachLine (fun n => modLine n (Line.startDomain (stow.getLsbD n.val))) s
    let s := { s with supply := { s.supply with powered := true, pinTaken := false } }
    if s.supply.pinHeld then s else setStage .selfTest s

/-- A pin reset: RESETN has been low for 1 ms; one low period is one reset (R197). -/
def pinResetEvent (straps : BitVec 6) (s : State) : State :=
  if s.supply.powered && !s.supply.pinTaken then
    let s := sampleStraps (takeReset .pin (setStraps straps s))
    { s with supply := { s.supply with pinHeld := true, pinTaken := true } }
  else s

/-- RESETN returns high: a pin reset's condition ends (R199). -/
def resetnReleaseEvent (s : State) : State :=
  let go := s.supply.powered && s.supply.pinHeld && s.supply.stage == .reset
  let s := { s with supply := { s.supply with pinHeld := false, pinTaken := false } }
  if go then setStage .selfTest s else s

/-- A command reset: no condition to hold, so RESET is left at once (R135, R197, R199). -/
def commandReset (s : State) : State :=
  setStage .selfTest (sampleStraps (takeReset .command s))

/-- The self-test ends: PROFILE_LOAD with its load, or HALTED (R200, R201). -/
def selfTestEvent (pass : Bool) (s : State) : State :=
  if s.supply.powered = true ∧ s.supply.stage = .selfTest ∧ s.berth.phase = .starting then
    if pass then startLoad (setStage .profileLoad s)
    else recordOutcome .selfTestFailed (changePhase .halted id s)
  else s

/-- The supply flags take values. -/
def setSupplyFlags (live latched : Bool) (s : State) : State :=
  { s with supply := { s.supply with live := live, latched := latched } }

/-- A judgement below the warning level: a supply warning where the live flag is clear (R137). The
monitor does not run in stage RESET (11, the stage table). -/
def supplyWarningEvent (s : State) : State :=
  if s.supply.stage = .reset ∨ s.supply.live = true then s
  else askBerth (raiseCause .supplyLow true (setBerthNotice .supplyWarning (setSupplyFlags true true s)))

/-- A judgement at or above the warning level: a recovery where the live flag is set (R138). -/
def supplyRecoveryEvent (s : State) : State :=
  if s.supply.stage ≠ .reset ∧ s.supply.live = true then
    askBerth (endCause .supplyLow (setSupplyFlags false s.supply.latched s))
  else s

end Sys2Proof.Machine
end

