-- ==== Sys2Proof/Machine/Screening.lean ====
section
/-! DEFINITION. Screening: the argument latch, the judgement of order words and of the group word (02). -/

namespace Sys2Proof.Machine

/-- A host write to an argument word loads or empties the latch (R29). -/
def writeArgument (n : LineId) (w : Word) (be : ByteEnables) (s : State) : State :=
  modLine n (fun l => { l with latch := readArgument w be }) s

/-- A HAUL or EASE past the kind check and not REPEATED empties the latch (R44). -/
def useLatch (n : LineId) (k : OrderKind) (s : State) : State :=
  if k.takesArgument then modLine n (fun l => { l with latch := none }) s else s

/-- The kinds refused while the profile source is FALLBACK (R41). -/
def OrderKind.needsLoaded : OrderKind → Bool
  | .haul | .tend | .ease | .slip => true
  | .lock | .rewind | .park | .restate => false

/-- Phase allowance (R42). -/
def phaseAllows (k : OrderKind) (p : Phase) : Bool :=
  match k with
  | .lock | .restate => !p.silent
  | .haul | .ease => p == .arrival || p == .secured
  | .tend => p == .secured
  | .slip => p == .departure
  | .rewind | .park => p == .vacant || p == .arrival || p == .departure

/-- What state allowance says (R43). -/
inductive Allow where
  | pass
  | hold
  | no (r : RefusalReason)
  deriving DecidableEq, Repr

/-- Pass where a condition holds, refuse otherwise. -/
def passIf (c : Bool) (r : RefusalReason) : Allow := if c then .pass else .no r

/-- State allowance, kind by kind (R43). `stowed`: payout count 0 and stow switch made. -/
def stateAllows (k : OrderKind) (p : Phase) (stowed : Bool) (st : LineState) : Allow :=
  match k with
  | .lock =>
    match st with
    | .rendering _ _ => .no .renderActive
    | .adopting | .parked => .no .wrongState
    | .paying _ | .standing | .hauling _ | .locked | .tending | .slipping | .slack | .rewinding
    | .faulted _ => .pass
  | .haul =>
    match st with
    | .paying _ | .standing | .locked | .tending => .pass
    | .adopting | .parked | .hauling _ | .rendering _ _ | .slipping | .slack | .rewinding
    | .faulted _ => .no .wrongState
  | .tend =>
    match st with
    | .hauling _ | .locked => .pass
    | .adopting | .parked | .paying _ | .standing | .tending | .rendering _ _ | .slipping | .slack
    | .rewinding | .faulted _ => .no .wrongState
  | .ease =>
    match st with
    | .parked => passIf (p == .arrival) .wrongState
    | .standing | .locked | .tending => .pass
    | .adopting | .paying _ | .hauling _ | .rendering _ _ | .slipping | .slack | .rewinding
    | .faulted _ => .no .wrongState
  | .slip =>
    match st with
    | .paying _ | .standing | .hauling _ | .locked | .tending => .hold
    | .adopting | .parked | .rendering _ _ | .slipping | .slack | .rewinding | .faulted _ =>
      .no .wrongState
  | .rewind =>
    match st with
    | .standing => passIf (p == .vacant || p == .arrival) .wrongState
    | .slipping => .hold
    | .slack => .pass
    | .adopting | .parked | .paying _ | .hauling _ | .locked | .tending | .rendering _ _
    | .rewinding | .faulted _ => .no .wrongState
  | .park =>
    match st with
    | .standing | .slack => passIf stowed .notStowed
    | .adopting | .parked | .paying _ | .hauling _ | .locked | .tending | .rendering _ _ | .slipping
    | .rewinding | .faulted _ => .no .wrongState
  | .restate =>
    match st with
    | .faulted _ => .pass
    | .adopting | .parked | .paying _ | .standing | .hauling _ | .locked | .tending | .rendering _ _
    | .slipping | .slack | .rewinding => .no .wrongState

/-- The line is stowed: payout count 0 and stow switch made (R43). -/
def Line.stowed (l : Line) : Bool := l.payout == 0 && l.stowMade

/-- The latch is fresh: it holds a value no older than the argument freshness (R30). -/
def freshValue (s : State) (latch : Option Latch) : Option Nat :=
  match latch with
  | some l => if l.age ≤ argumentFreshness s.image then some l.value else none
  | none => none

/-- The argument lies in its range (R44). -/
def argumentInRange (s : State) (n : LineId) (k : OrderKind) (v : Nat) : Bool :=
  match k with
  | .haul => within (bandMin s.image n) (bandMax s.image n) v
  | .ease => within 1 4000 v && decide ((s.line n).payout + v ≤ maxPayout s.image n)
      && !(s.line n).lengthUnknown
  | .lock | .tend | .slip | .rewind | .park | .restate => true

/-- The superseded tag a verdict records: the tag of the entry it displaces (R32). -/
def displacedTag (s : State) (n : LineId) : Option Tag := (s.entry n).map (·.tag)

/-- The pass step (R46): the verdict, the supersession, the pair, the effect with its hand-on. -/
def passOrder (n : LineId) (k : OrderKind) (t : Tag) (arg : Nat) (s : State) : State :=
  let s := recordHost n ⟨some (t, k), some .passed, displacedTag s n⟩ s
  let s := placePair (makePair n k t arg) (supersede n s)
  let s' := applyEffect n k arg s
  if (s'.line n).state = (s.line n).state then s' else settle n s'

/-- A RESTATE that passes: the verdict, the supersession, the derivation with its hand-on (R55). -/
def passRestate (n : LineId) (t : Tag) (s : State) : State :=
  let s := recordHost n ⟨some (t, .restate), some .passed, displacedTag s n⟩ s
  settle n (deriveLine n (supersede n s))

/-- The steps from the argument step on, for an order that state allowance let go on (R44 to R46). -/
def completeOrder (n : LineId) (k : OrderKind) (t : Tag) (o : Origin) (latch : Option Latch)
    (hold : Bool) (s : State) : State :=
  match k with
  | .haul | .ease =>
    match freshValue s latch with
    | none => refuse n (some (t, k)) .argumentStale s
    | some v =>
      if argumentInRange s n k v then passOrder n k t v s
      else refuse n (some (t, k)) .argumentRange s
  | .slip => holdOrder n .slip t o s
  | .rewind => if hold then holdOrder n .rewind t o s else passOrder n .rewind t 0 s
  | .restate => passRestate n t s
  | .lock | .tend | .park => passOrder n k t 0 s

/-- The steps from the fallback restriction on (R41 to R46). -/
def judgeOrder (n : LineId) (k : OrderKind) (t : Tag) (o : Origin) (latch : Option Latch)
    (s : State) : State :=
  if s.profile.source = .fallback ∧ k.needsLoaded then refuse n (some (t, k)) .fallbackProfile s
  else if phaseAllows k s.berth.phase = false then refuse n (some (t, k)) .wrongPhase s
  else
    match stateAllows k s.berth.phase (s.line n).stowed (s.line n).state with
    | .no r => refuse n (some (t, k)) r s
    | .hold => completeOrder n k t o latch true s
    | .pass => completeOrder n k t o latch false s

/-- Screening from the fitted check on (R39, R40): what a host order word and a group expansion share
(R57). -/
def screen (n : LineId) (k : OrderKind) (t : Tag) (o : Origin) (s : State) : State :=
  if (s.line n).fitted = false then refuse n (some (t, k)) .notFitted (useLatch n k s)
  else if (s.line n).lastHost.order = some (t, k) then s
  else judgeOrder n k t o (s.line n).latch (useLatch n k s)

/-- A host write to an order word, judged from the partial-write check on (R34, R36 to R38). -/
def writeOrder (n : LineId) (w : Word) (be : ByteEnables) (s : State) : State :=
  if isFull be = false then refuse n none .partialWrite s
  else if checkGood w = false then refuse n none .badCheck s
  else
    match readOrder w with
    | none => refuse n none .badKind s
    | some (k, t) => screen n k t .hostWord s

/-- A host write to the group word (R56, R57). -/
def writeGroup (w : Word) (be : ByteEnables) (s : State) : State :=
  match readGroup w be with
  | none => setBerthNotice .groupRefused s
  | some (k, t) => eachLine (fun n u => if groupNames w n then screen n k t .groupWord u else u) s

end Sys2Proof.Machine
end

