-- ==== Sys2Proof/Machine/Requests.lean ====
section
/-! DEFINITION. Berth requests (R123 to R126, R134, R135), the acknowledge word (R173) and the cursor word
(R104). -/

namespace Sys2Proof.Machine

/-- A refused berth request (R126). -/
def refuseRequest (r : RequestRefusal) (s : State) : State :=
  askBerth (setBerthNotice .phaseRefused { s with berth := { s.berth with refusal := some r } })

/-- Every required fitted line is LOCKED or TENDING (R125). -/
def requiredHeld (s : State) : Bool :=
  allLines.all fun n => !((s.line n).fitted && (s.line n).required) ||
    (s.line n).state == .locked || (s.line n).state == .tending

/-- No fitted line is SLIPPING, SLACK or REWINDING (R125). -/
def noneLoose (s : State) : Bool :=
  allLines.all fun n => !(s.line n).fitted ||
    !((s.line n).state == .slipping || (s.line n).state == .slack || (s.line n).state == .rewinding)

/-- A RESUME accepted (R134). -/
def resumeBerth (s : State) : State :=
  let s := setCauses 0 0 s
  changePhase (if s.allParked then .vacant else .secured) id s

/-- What the pairing of a phase and a request gives (R124). -/
inductive Ruling where
  /-- Accepted where the condition holds, NOT_READY otherwise. -/
  | when (condition : Bool) (result : State)
  | wrongPhase

/-- The pairings of R124 with their conditions (R125). An accepted request sets no notice of its own (R126);
the cause that a LOCKDOWN request raises sets LOCKDOWN_ENTERED by R131 and R132 (log 33). -/
def ruling (q : Request) (s : State) : Ruling :=
  match q, s.berth.phase with
  | .arrival, .vacant =>
    .when (s.profile.source == .loaded && s.profile.load == .idle) (changePhase .arrival id s)
  | .secured, .arrival => .when (requiredHeld s) (changePhase .secured id s)
  | .vacant, .arrival => .when s.allParked (changePhase .vacant id s)
  | .departure, .secured => .when true (changePhase .departure id s)
  | .arrival, .secured => .when true (changePhase .arrival id s)
  | .secured, .departure => .when (noneLoose s) (changePhase .secured flush s)
  | .vacant, .departure => .when s.allParked (changePhase .vacant id s)
  | .lockdown, .vacant | .lockdown, .arrival | .lockdown, .secured | .lockdown, .departure
  | .lockdown, .lockdown => .when true (raiseCause .hostRequest false s)
  | .resume, .lockdown =>
    .when (s.berth.present == 0 && s.profile.load == .idle) (resumeBerth s)
  | .reset, .vacant | .reset, .lockdown => .when true (commandReset s)
  | _, _ => .wrongPhase

/-- A host write to the berth request word: form, pairing, condition (R123 to R126). -/
def writeRequest (w : Word) (be : ByteEnables) (s : State) : State :=
  match readRequest w be with
  | none => refuseRequest .badRequest s
  | some q =>
    match ruling q s with
    | .wrongPhase => refuseRequest .wrongPhase s
    | .when condition result => if condition then result else refuseRequest .notReady s

/-- The named notices cleared (R173 step 1). -/
def clearNotices (w : Word) (s : State) : State :=
  let s := eachLine (fun n => modLine n fun l => { l with notice := l.notice && !ackNames w n }) s
  { s with report := { s.report with notices := s.report.notices &&& ~~~(ackBerth w) } }

/-- A host write to the acknowledge word (R173). -/
def writeAcknowledge (w : Word) (be : ByteEnables) (s : State) : State :=
  if ackForm w be then
    let old := s
    let s := clearNotices w s
    let s := if (ackBerth w).getLsbD BerthNotice.supplyWarning.code
      then setSupplyFlags s.supply.live false s else s
    let s := judgeAttn s
    let s := eachLine (fun n t =>
      if (old.line n).notice && ackNames w n then askLine n t else t) s
    if (allLines.any fun n => (old.line n).notice && ackNames w n)
        || s.report.notices != old.report.notices || s.supply.latched != old.supply.latched
    then askBerth s else s
  else s

/-- A host write to the cursor word (R104). -/
def writeCursor (w : Word) (be : ByteEnables) (s : State) : State :=
  match readCursor w be with
  | some c => { s with scan := { s.scan with cursor := c } }
  | none => s

/-- A host write to the commit word (R187). -/
def writeCommit (w : Word) (be : ByteEnables) (s : State) : State :=
  if commitForm w be then commitWord s else s

end Sys2Proof.Machine
end

