-- ==== Sys2Proof/Machine/Bus.lean ====
section
/-! DEFINITION. The bus path: the D-port arbiter, the handling of each host transfer, the completions and
the snapshot lock (07). -/

namespace Sys2Proof.Machine

/-! ### The arbiter (R150, R151, R153, R156, R157) -/

/-- A record is under the snapshot lock (R160). -/
def snapLocked (s : State) (r : RecId) : Bool :=
  match s.bus.snap with
  | some l => l.record == r
  | none => false

/-- The eligible head of the report lane (R156). -/
def eligibleRecord (s : State) : Option RecId := s.bus.reportLane.find? fun r => !snapLocked s r

/-- Part-internal traffic waits: the fetch list or an eligible record (R151). -/
def internalWaits (s : State) : Bool := s.bus.fetch.isSome || (eligibleRecord s).isSome

/-- The oldest pair of the order lane is granted (R153). -/
def grantPair (e : LaneEntry) (rest : List LaneEntry) (s : State) : State :=
  { s with bus := { s.bus with orderLane := rest, dport := some (.pair e.line e.arg e.order) } }

/-- The waiting host transfer is granted (R151). -/
def grantHost (h : HostAccess) (s : State) : State :=
  { s with bus := { s.bus with waiting := none, mark := .host, dport := some (.host h) } }

/-- The fetch is granted (R157). -/
def grantFetch (f : Fetch) (s : State) : State :=
  { s with bus := { s.bus with fetch := none, mark := .internal, dport := some (.fetch f false) } }

/-- The record's sequence number is raised (R163, R170). -/
def raiseSeq (r : RecId) (s : State) : State :=
  if h : r.val < 12 then modLine ⟨r.val, h⟩ (fun l => { l with seq := l.seq + 1 }) s
  else { s with report := { s.report with seq := s.report.seq + 1 } }

/-- A record is granted: the sequence, then the contents as they stand (R156, R163). -/
def grantRecord (r : RecId) (s : State) : State :=
  let s := raiseSeq r s
  { s with bus := { s.bus with
    reportLane := s.bus.reportLane.erase r, mark := .internal, dport := some (recordWords r s) } }

/-- Part-internal traffic is granted: the fetch list before the report lane (R151). -/
def grantInternal (s : State) : State :=
  match s.bus.fetch, eligibleRecord s with
  | some f, _ => grantFetch f s
  | none, some r => grantRecord r s
  | none, none => s

/-- The D-port takes transfers: the supply is up and none is in progress (R150, R162). -/
def dportFree (s : State) : Bool := s.supply.powered && s.bus.dport.isNone

/-- The arbiter at a free point (R151). -/
def arbitrate (s : State) : State :=
  if dportFree s then
    match s.bus.orderLane, s.bus.waiting with
    | e :: rest, _ => grantPair e rest s
    | [], some h =>
      if internalWaits s ∧ s.bus.mark = .host then grantInternal s else grantHost h s
    | [], none => grantInternal s
  else s

/-! ### Host transfers (R141 to R149) -/

/-- A transfer is passed: it waits at the arbiter (R149). -/
def passTransfer (t : Transfer) (word : Option (RecId × Fin 4)) (s : State) : State :=
  { s with bus := { s.bus with waiting := some ⟨t, word⟩ } }

/-- A guarded write as host activity: the host-silence timer, if it runs, is loaded afresh (R128, R142). -/
def hostActivity (s : State) : State :=
  { s with berth := { s.berth with
    silence := s.berth.silence.map fun _ => s.ticksFor (hostSilenceTime s.image) } }

/-- A write to a guarded word: dropped in STARTING and HALTED, otherwise host activity and then the
owner's (R142, R148). -/
def guarded (owner : State → State) (s : State) : State :=
  if s.berth.phase.silent then s else owner (hostActivity s)

/-- A write to the status area is dropped, with STRAY_WRITE outside STARTING and HALTED (R146, R148). -/
def strayWrite (s : State) : State :=
  if s.berth.phase.silent then s else setBerthNotice .strayWrite s

/-- A read of word `k` of record `r`: word 0 sets or moves the snapshot lock as the read is taken (R159). -/
def lockRecord (r : RecId) (k : Fin 4) (s : State) : State :=
  if k = 0 then
    { s with bus := { s.bus with snap := some ⟨r, s.ticksFor Config.snapshotMs⟩ } }
  else s

/-- The sample port is read: the answer, then the cursor advances outside STARTING and HALTED (R105). -/
def readPort (s : State) : State :=
  let s := { s with bus := { s.bus with readData := portAnswer s } }
  if s.berth.phase.silent then s
  else { s with scan := { s.scan with cursor := s.scan.cursor.advance } }

/-- A host write is taken at its target (R141). -/
def takeWrite (t : Transfer) (g : Target) (s : State) : State :=
  match g with
  | .argument n => guarded (writeArgument n t.data t.be) s
  | .order n => guarded (writeOrder n t.data t.be) s
  | .group => guarded (writeGroup t.data t.be) s
  | .request => guarded (writeRequest t.data t.be) s
  | .acknowledge => guarded (writeAcknowledge t.data t.be) s
  | .cursor => guarded (writeCursor t.data t.be) s
  | .samplePort => s
  | .commit => guarded (writeCommit t.data t.be) s
  | .status _ _ => strayWrite s
  | .profile _ => passTransfer t none (abortLoad s)
  | .plain => passTransfer t none s

/-- A host read is taken at its target (R141). -/
def takeRead (t : Transfer) (g : Target) (s : State) : State :=
  match g with
  | .samplePort => readPort s
  | .status r k => passTransfer t (some (r, k)) (lockRecord r k s)
  | .argument _ | .order _ | .group | .request | .acknowledge | .cursor | .commit | .profile _
  | .plain => passTransfer t none s

/-- A transfer is taken: classified against the region in force and handled (R140). -/
def takeTransfer (t : Transfer) (s : State) : State :=
  if t.write then takeWrite t (classify s.bus.base t.addr) s
  else takeRead t (classify s.bus.base t.addr) s

/-- The host presents a transfer. With the supply down the port takes none (R197); while UWAIT is
driven the transfer waits on the host bus (R149, log 5); otherwise it is taken, and the arbiter meets
the claims of the event. -/
def present (t : Transfer) (s : State) : State :=
  if s.supply.powered = false then s
  else if s.uwait then { s with bus := { s.bus with held := s.bus.held ++ [t] } }
  else arbitrate (takeTransfer t s)

/-- The transfers that waited on the host bus are taken, one after the other, until one holds UWAIT
again (R149, log 5). -/
def drainHeld : List Transfer → State → State
  | [], s => { s with bus := { s.bus with held := [] } }
  | t :: ts, s =>
    if s.uwait then { s with bus := { s.bus with held := t :: ts } }
    else drainHeld ts (arbitrate (takeTransfer t s))

/-! ### Completions (R149, R150, R157) -/

/-- The D-port reaches a free point. -/
def freePort (s : State) : State := { s with bus := { s.bus with dport := none } }

/-- A completing read of word 3 of the locked record releases the lock (R159). -/
def releaseSnap (h : HostAccess) (s : State) : State :=
  match h.statusWord with
  | some (r, k) =>
    if k = 3 ∧ snapLocked s r then { s with bus := { s.bus with snap := none } } else s
  | none => s

/-- The data memory returned on a read is presented to the host (R149). -/
def presentData (h : HostAccess) (w : Word) (s : State) : State :=
  if h.transfer.write then s else { s with bus := { s.bus with readData := w } }

/-- Memory ends the host's access (R149, R159). -/
def hostComplete (w : Word) (s : State) : State :=
  match s.bus.dport with
  | some (.host h) =>
    let s := arbitrate (presentData h w (releaseSnap h (freePort s)))
    drainHeld s.bus.held s
  | some (.pair _ _ _) | some (.record _ _ _ _ _) | some (.fetch _ _) | none => s

/-- Memory ends an order pair or a status record (R150). -/
def partComplete (s : State) : State :=
  match s.bus.dport with
  | some (.pair _ _ _) | some (.record _ _ _ _ _) => arbitrate (freePort s)
  | some (.host _) | some (.fetch _ _) | none => s

/-- The value of a fetch is delivered to the block that asked (R157). -/
def deliver (f : Fetch) (v : Word) (s : State) : State :=
  match f with
  | .image _ => deliverImage v s
  | .orderWord n => deliverOrderWord n v s

/-- Memory ends a fetch: delivered, or discarded where it was withdrawn (R157, R158). -/
def fetchComplete (v : Word) (s : State) : State :=
  match s.bus.dport with
  | some (.fetch f discard) =>
    arbitrate (if discard then freePort s else deliver f v (freePort s))
  | some (.host _) | some (.pair _ _ _) | some (.record _ _ _ _ _) | none => s

/-- The snapshot lock timer reaches 0: the lock is released (R159). -/
def snapExpiry (s : State) : State := { s with bus := { s.bus with snap := none } }

end Sys2Proof.Machine
end

