-- ==== Sys2Proof/Machine/Events.lean ====
section
/-! DEFINITION. How an event is taken, the expiries of the timers, and the tick of the 1 ms time base. -/

namespace Sys2Proof.Machine

/-- An event at the part: below the brown-out reset level the part judges no input (R197); the arbiter
meets the claims of the event together (R150). -/
def event (f : State → State) (s : State) : State :=
  if s.supply.powered then arbitrate (f s) else s

/-- An event that falls on a tick of the time base: timers it loads run whole milliseconds (log 17). -/
def onTick (f : State → State) (s : State) : State :=
  { f { s with atTick := true } with atTick := false }

/-! ### Expiries (R114 to R116, R72, R83, R129, R159, R193) -/

/-- The stall timer of line `n` expires (R114, R23). -/
def expireStall (n : LineId) (s : State) : State :=
  stallEvent n (modLine n (fun l => { l with stall := none }) s)

/-- The haul timer of line `n` expires (R115, R24). -/
def expireHaul (n : LineId) (s : State) : State :=
  haulTimeOutEvent n (modLine n (fun l => { l with haul := none }) s)

/-- The slip timer of line `n` expires (R115, R24). -/
def expireSlip (n : LineId) (s : State) : State :=
  slipTimeOutEvent n (modLine n (fun l => { l with slip := none }) s)

/-- The brake-settle timer of line `n` expires (R116, R26). -/
def expireBrake (n : LineId) (s : State) : State :=
  mismatchEvent n (modLine n (fun l => { l with brakeSettle := none }) s)

/-- The hold deadline of line `n`'s entry expires (R72). -/
def expireHold (n : LineId) (s : State) : State :=
  match s.entry n with
  | some e => askBerth (endEntry .timedOut e s)
  | none => s

/-- The host-silence timer expires (R129). -/
def expireSilence (s : State) : State := raiseCause .hostSilent false s

/-! ### The tick (log 1) -/

/-- One tick of a timer. -/
def tickTimer (t : Timer) : Timer := t.map (· - 1)

/-- One tick of a line: its timers and the age of its latch (R30, R114 to R116). -/
def Line.tick (l : Line) : Line :=
  { l with
    stall := tickTimer l.stall
    haul := tickTimer l.haul
    slip := tickTimer l.slip
    brakeSettle := tickTimer l.brakeSettle
    latch := l.latch.map fun x => ⟨x.value, min Config.latchAgeMax (x.age + 1)⟩ }

/-- One tick of every timer and age. -/
def countDown (s : State) : State :=
  let s := eachLine (fun n => modLine n Line.tick) s
  { s with
    queue := s.queue.map fun e => { e with deadline := e.deadline - 1 }
    scan := { s.scan with pacing := tickTimer s.scan.pacing }
    berth := { s.berth with silence := tickTimer s.berth.silence }
    profile := { s.profile with verify := tickTimer s.profile.verify }
    bus := { s.bus with snap := s.bus.snap.map fun l => ⟨l.record, l.timer - 1⟩ }
    ticks := s.ticks + 1 }

/-- The expiries a tick can bring. -/
inductive Expiry where
  | stall (n : LineId)
  | haul (n : LineId)
  | slip (n : LineId)
  | brake (n : LineId)
  | hold (n : LineId)
  | silence
  | pacing
  | verify
  | snap
  deriving DecidableEq, Repr

/-- An expiry whose timer stands at 0 ticks to go. -/
def Expiry.due (s : State) : Expiry → Bool
  | .stall n => (s.line n).stall == some 0
  | .haul n => (s.line n).haul == some 0
  | .slip n => (s.line n).slip == some 0
  | .brake n => (s.line n).brakeSettle == some 0
  | .hold n => (s.entry n).any fun e => e.deadline == 0
  | .silence => s.berth.silence == some 0
  | .pacing => s.scan.pacing == some 0
  | .verify => s.profile.verify == some 0
  | .snap => s.bus.snap.any fun l => l.timer == 0

/-- An expiry is taken. -/
def Expiry.take : Expiry → State → State
  | .stall n => expireStall n
  | .haul n => expireHaul n
  | .slip n => expireSlip n
  | .brake n => expireBrake n
  | .hold n => expireHold n
  | .silence => expireSilence
  | .pacing => pacingEvent
  | .verify => verifyEvent
  | .snap => snapExpiry

/-- An expiry comes where its timer stands at 0: a stopped timer does not expire, nor one that has been
loaded afresh (R119). -/
def expire (e : Expiry) (s : State) : State := if e.due s then e.take s else s

/-- Every expiry there is. -/
def allExpiries : List Expiry :=
  (allLines.map Expiry.stall) ++ (allLines.map Expiry.haul) ++ (allLines.map Expiry.slip)
    ++ (allLines.map Expiry.brake) ++ (allLines.map Expiry.hold) ++ [.silence, .pacing, .verify, .snap]

/-- The expiries due on this tick. -/
def dueNow (s : State) : List Expiry := allExpiries.filter (Expiry.due s)

/-- Expiries that fall together, in the order they are taken: the free value places each among those
after it, so that every order is possible (log 2). -/
def tickOrder (k : Nat) (es : List Expiry) : List Expiry :=
  match es with
  | [] => []
  | [e] => [e]
  | e :: f :: rest =>
    let later := tickOrder k (f :: rest)
    later.insertIdx (Config.tickPlace k later.length % (later.length + 1)) e

/-- An expiry is taken as an event of its own, where its timer still stands at 0 (R119). -/
def takeDue (s : State) (e : Expiry) : State := if e.due s then arbitrate (e.take s) else s

/-- Every expiry that stands due is taken. -/
def takeAllDue (s : State) : State :=
  onTick (fun u => (tickOrder u.ticks (dueNow u)).foldl takeDue u) s

/-- The time base reaches its next tick: what still stood due at the tick before is taken, then every
timer and age counts (log 1). -/
def count (s : State) : State := if s.supply.powered then countDown (takeAllDue s) else s

/-- The time base makes `k` ticks; what falls due at the last of them is not yet taken (log 3). -/
def elapse : Nat → State → State
  | 0, s => s
  | k + 1, s => elapse k (count s)

/-- A tick of the 1 ms time base: every timer counts, then what is due expires (log 1). -/
def tick (s : State) : State := if s.supply.powered then takeAllDue (count s) else s

end Sys2Proof.Machine
end

