-- ==== Sys2Proof/Machine/Conversions.lean ====
section
/-! DEFINITION. The conversions of the scan end (04). -/

namespace Sys2Proof.Machine

/-- LINE_CONVERSION_COMPLETE (R85). -/
def execLineConversionComplete (raw : BitVec 12) (s : State) : Host.Outcome State Fault Refusal :=
  .next (event (lineConversion raw.toNat) s)

/-- REFERENCE_CONVERSION_COMPLETE (R92, R103). -/
def execReferenceConversionComplete (raw : BitVec 12) (s : State) :
    Host.Outcome State Fault Refusal := .next (event (referenceConversion raw.toNat) s)

/-- PROBE_CONVERSION_COMPLETE (R98, R100). -/
def execProbeConversionComplete (raw : BitVec 12) (s : State) :
    Host.Outcome State Fault Refusal := .next (event (probeConversion raw.toNat) s)

end Sys2Proof.Machine
end

