-- ==== Sys2Proof/Machine/Drums.lean ====
section
/-! DEFINITION. The drum inputs: PULSE, BRAKE_FEEDBACK_CHANGE, STOW_MADE, STOW_LOST (05). -/

namespace Sys2Proof.Machine

/-- The payout count after a pulse, held at its ends (R109). -/
def movePayout (outward : Bool) (v : Nat) : Nat :=
  if outward then min Config.payoutMax (v + 1) else v - 1

/-- The run counter after a pulse: down in the expected direction, up to the ceiling against it
(R112). -/
def Line.moveRun (outward : Bool) (l : Line) : Option RunCounter :=
  match l.run, l.state.expectedOutward with
  | some r, some d =>
    if outward = d then some ⟨r.left - 1, r.ceiling⟩ else some ⟨min r.ceiling (r.left + 1), r.ceiling⟩
  | r, none => r
  | none, some _ => none

/-- The creep count counts a pulse: a state that counts creep, the brake feedback set (R117). -/
def Line.creeps (l : Line) : Bool := l.state.countsCreep && l.brakeSet

/-- Steps 1 to 4 of a pulse (R108): the count of every drum, the rest for a fitted line. -/
def Line.countPulse (outward : Bool) (stallLoad : Nat) (l : Line) : Line :=
  let l' := { l with payout := movePayout outward l.payout, pulseAge := 0 }
  if l.fitted then
    { l' with
      run := l.moveRun outward
      stall := if l.state.expectedOutward = some outward then l.stall.map fun _ => stallLoad else l.stall
      creep := if l.creeps then l.creep + 1 else l.creep }
  else l'

/-- The run counter stands at 0 (R113). -/
def Line.runDone (l : Line) : Bool := l.run.any fun r => r.left == 0

/-- Step 5 of a pulse: run complete or creep limit (R108, R113, R117). -/
def pulseEvents (n : LineId) (before : Line) (s : State) : State :=
  if before.fitted = false then s
  else if (s.line n).runDone then runComplete n (modLine n (fun l => { l with run := none }) s)
  else if before.creeps && decide (creepLimit s.image ≤ (s.line n).creep) then creepEvent n s
  else s

/-- An edge on PULn, `gap` microseconds after the last edge: a pulse when at least 200 microseconds have
passed since the last pulse taken (R108, log 8). -/
def pulseEdge (n : LineId) (outward : Bool) (gap : Nat) (s : State) : State :=
  if (s.line n).pulseAge + gap < Config.pulseGap then
    modLine n (fun l => { l with pulseAge := l.pulseAge + gap }) s
  else
    pulseEvents n (s.line n)
      (modLine n (Line.countPulse outward (s.ticksFor (stallTime s.image))) s)

/-- The brake-settle timer at a change of the feedback level (R116). -/
def brakeChange (n : LineId) (v : Bool) (s : State) : State :=
  if (s.line n).brakeSet = v then s
  else
    modLine n (fun l => { l with
      brakeSet := v
      brakeSettle :=
        if l.fitted then
          match l.state.expectedBrake with
          | none => none
          | some b => if v = b then none else some (s.ticksFor (brakeSettleTime s.image))
        else none }) s

/-- The filtered stow switch becomes made: level, count and flag for every drum, then the line table
for a fitted line (R111). -/
def stowMadeChange (n : LineId) (s : State) : State :=
  if (s.line n).stowMade then s
  else
    let s := modLine n (fun l => { l with stowMade := true, payout := 0, lengthUnknown := false }) s
    if (s.line n).fitted then stowMadeEvent n s else s

/-- The filtered stow switch becomes open (R111). -/
def stowLostChange (n : LineId) (s : State) : State :=
  if (s.line n).stowMade then
    let s := modLine n (fun l => { l with stowMade := false }) s
    if (s.line n).fitted then stowLostEvent n s else s
  else s

/-- PULSE (R108). -/
def execPulse (n : LineId) (outward : Bool) (gap : Nat) (s : State) :
    Host.Outcome State Fault Refusal :=
  .next (event (pulseEdge n outward gap) s)

/-- BRAKE_FEEDBACK_CHANGE (R116); the input keeps its level through every reset (log 11). -/
def execBrakeFeedbackChange (n : LineId) (v : Bool) (s : State) : Host.Outcome State Fault Refusal :=
  .next (brakeChange n v s)

/-- STOW_MADE (R111). What it came together with has been taken already, so its own effect is the same
for every `back` (R22, log 27). -/
def execStowMade (n : LineId) (s : State) (_back : Nat := 0) : Host.Outcome State Fault Refusal :=
  .next (event (stowMadeChange n) s)

/-- STOW_LOST (R111). -/
def execStowLost (n : LineId) (s : State) : Host.Outcome State Fault Refusal :=
  .next (event (stowLostChange n) s)

end Sys2Proof.Machine
end

