-- ==== Sys2Proof/Machine/Expiries.lean ====
section
/-! DEFINITION. The expiry commands: each lets the ticks it carries pass and then takes the expiry of its
timer, if that timer has run down (log 3). -/

namespace Sys2Proof.Machine

/-- STALL (R23, R114). -/
def execStall (n : LineId) (s : State) (ticks : Nat := 0) :
    Host.Outcome State Fault Refusal :=
  .next (event (onTick (expire (.stall n))) (elapse ticks s))

/-- HAUL_TIME_OUT (R24, R115). -/
def execHaulTimeOut (n : LineId) (s : State) (ticks : Nat := 0) :
    Host.Outcome State Fault Refusal :=
  .next (event (onTick (expire (.haul n))) (elapse ticks s))

/-- SLIP_TIME_OUT (R24, R115). -/
def execSlipTimeOut (n : LineId) (s : State) (ticks : Nat := 0) :
    Host.Outcome State Fault Refusal :=
  .next (event (onTick (expire (.slip n))) (elapse ticks s))

/-- BRAKE_MISMATCH (R26, R116). -/
def execBrakeMismatch (n : LineId) (s : State) (ticks : Nat := 0) :
    Host.Outcome State Fault Refusal :=
  .next (event (onTick (expire (.brake n))) (elapse ticks s))

/-- HOLD_DEADLINE_EXPIRY (R72). -/
def execHoldDeadlineExpiry (n : LineId) (s : State) (ticks : Nat := 0) :
    Host.Outcome State Fault Refusal :=
  .next (event (onTick (expire (.hold n))) (elapse ticks s))

/-- PACING_EXPIRY (R84, R86, R99). -/
def execPacingExpiry (s : State) (ticks : Nat := 0) : Host.Outcome State Fault Refusal :=
  .next (event (onTick (expire .pacing)) (elapse ticks s))

/-- HOST_SILENCE_EXPIRY (R129). -/
def execHostSilenceExpiry (s : State) (ticks : Nat := 0) : Host.Outcome State Fault Refusal :=
  .next (event (onTick (expire .silence)) (elapse ticks s))

/-- VERIFICATION (R193, R194), of the active copy as disturbed by `upset` (log 16). -/
def execVerification (upset : List (Fin 128 × Word)) (s : State) (ticks : Nat := 0) :
    Host.Outcome State Fault Refusal :=
  .next (event (onTick fun u => if Expiry.due u .verify then verifyEvent (upsetCopy upset u) else u)
    (elapse ticks s))

/-- SNAPSHOT_LOCK_TIMER_EXPIRY (R159). -/
def execSnapshotLockTimerExpiry (s : State) (ticks : Nat := 0) : Host.Outcome State Fault Refusal :=
  .next (event (onTick (expire .snap)) (elapse ticks s))

end Sys2Proof.Machine
end

