-- ==== Sys2Proof/Machine/HostWords.lean ====
section
/-! DEFINITION. The commands that write a guarded word: argument word, order words, group word, berth
request word, acknowledge word, cursor word, commit word. -/

namespace Sys2Proof.Machine

/-- A host write of word `j` of the region in force. -/
def hostWrite (j : Nat) (w : Word) (be : ByteEnables) (s : State) : State :=
  present ⟨true, regionWord s.bus.base j, w, be⟩ s

/-- The word number of line `n`'s argument word, offset 8n (R141). -/
def argumentAt (n : LineId) : Nat := 2 * n.val

/-- The word number of line `n`'s order word, offset 8n+4 (R141). -/
def orderAt (n : LineId) : Nat := 2 * n.val + 1

/-- ARGUMENT_WORD_WRITE (R29). -/
def execArgumentWordWrite (n : LineId) (w : Word) (be : ByteEnables) (s : State) :
    Host.Outcome State Fault Refusal := .next (hostWrite (argumentAt n) w be s)

/-- LOCK (R34 to R48). -/
def execLock (n : LineId) (w : Word) (be : ByteEnables) (s : State) :
    Host.Outcome State Fault Refusal := .next (hostWrite (orderAt n) w be s)

/-- HAUL (R34 to R47, R49). -/
def execHaul (n : LineId) (w : Word) (be : ByteEnables) (s : State) :
    Host.Outcome State Fault Refusal := .next (hostWrite (orderAt n) w be s)

/-- TEND (R34 to R47, R50). -/
def execTend (n : LineId) (w : Word) (be : ByteEnables) (s : State) :
    Host.Outcome State Fault Refusal := .next (hostWrite (orderAt n) w be s)

/-- EASE (R34 to R47, R51). -/
def execEase (n : LineId) (w : Word) (be : ByteEnables) (s : State) :
    Host.Outcome State Fault Refusal := .next (hostWrite (orderAt n) w be s)

/-- SLIP (R34 to R45, R66). -/
def execSlip (n : LineId) (w : Word) (be : ByteEnables) (s : State) :
    Host.Outcome State Fault Refusal := .next (hostWrite (orderAt n) w be s)

/-- REWIND (R34 to R47, R53). -/
def execRewind (n : LineId) (w : Word) (be : ByteEnables) (s : State) :
    Host.Outcome State Fault Refusal := .next (hostWrite (orderAt n) w be s)

/-- PARK (R34 to R47, R54). -/
def execPark (n : LineId) (w : Word) (be : ByteEnables) (s : State) :
    Host.Outcome State Fault Refusal := .next (hostWrite (orderAt n) w be s)

/-- RESTATE (R34 to R43, R55). -/
def execRestate (n : LineId) (w : Word) (be : ByteEnables) (s : State) :
    Host.Outcome State Fault Refusal := .next (hostWrite (orderAt n) w be s)

/-- GROUP_LOCK, offset 0x060 (R56, R57). -/
def execGroupLock (w : Word) (be : ByteEnables) (s : State) : Host.Outcome State Fault Refusal :=
  .next (hostWrite 24 w be s)

/-- GROUP_TEND (R56, R57). -/
def execGroupTend (w : Word) (be : ByteEnables) (s : State) : Host.Outcome State Fault Refusal :=
  .next (hostWrite 24 w be s)

/-- GROUP_SLIP (R56, R57). -/
def execGroupSlip (w : Word) (be : ByteEnables) (s : State) : Host.Outcome State Fault Refusal :=
  .next (hostWrite 24 w be s)

/-- GROUP_REWIND (R56, R57). -/
def execGroupRewind (w : Word) (be : ByteEnables) (s : State) : Host.Outcome State Fault Refusal :=
  .next (hostWrite 24 w be s)

/-- VACANT_REQUEST, offset 0x064 (R123 to R126). -/
def execVacantRequest (w : Word) (be : ByteEnables) (s : State) : Host.Outcome State Fault Refusal :=
  .next (hostWrite 25 w be s)

/-- ARRIVAL_REQUEST (R123 to R126). -/
def execArrivalRequest (w : Word) (be : ByteEnables) (s : State) :
    Host.Outcome State Fault Refusal := .next (hostWrite 25 w be s)

/-- SECURED_REQUEST (R123 to R126). -/
def execSecuredRequest (w : Word) (be : ByteEnables) (s : State) :
    Host.Outcome State Fault Refusal := .next (hostWrite 25 w be s)

/-- DEPARTURE_REQUEST (R123 to R126). -/
def execDepartureRequest (w : Word) (be : ByteEnables) (s : State) :
    Host.Outcome State Fault Refusal := .next (hostWrite 25 w be s)

/-- LOCKDOWN_REQUEST (R123, R124, R131). -/
def execLockdownRequest (w : Word) (be : ByteEnables) (s : State) :
    Host.Outcome State Fault Refusal := .next (hostWrite 25 w be s)

/-- RESUME (R123 to R126, R134). -/
def execResume (w : Word) (be : ByteEnables) (s : State) : Host.Outcome State Fault Refusal :=
  .next (hostWrite 25 w be s)

/-- RESET_REQUEST (R123, R124, R135); the strap pins stand at `straps` (log 10). -/
def execResetRequest (w : Word) (be : ByteEnables) (straps : BitVec 6) (s : State) :
    Host.Outcome State Fault Refusal := .next (hostWrite 25 w be (setStraps straps s))

/-- ACKNOWLEDGE_WORD_WRITE, offset 0x068 (R173). -/
def execAcknowledgeWordWrite (w : Word) (be : ByteEnables) (s : State) :
    Host.Outcome State Fault Refusal := .next (hostWrite 26 w be s)

/-- CURSOR_WORD_WRITE, offset 0x06C (R104). -/
def execCursorWordWrite (w : Word) (be : ByteEnables) (s : State) :
    Host.Outcome State Fault Refusal := .next (hostWrite 27 w be s)

/-- COMMIT, offset 0x074 (R187, R188). -/
def execCommit (w : Word) (be : ByteEnables) (s : State) : Host.Outcome State Fault Refusal :=
  .next (hostWrite 29 w be s)

end Sys2Proof.Machine
end

