-- ==== Sys2Proof/Machine/SupplyReset.lean ====
section
/-! DEFINITION. The supply, the reset pin and the self-test (06 R137, R138; 11). -/

namespace Sys2Proof.Machine

/-- SUPPLY_WARNING (R137). -/
def execSupplyWarning (s : State) : Host.Outcome State Fault Refusal :=
  .next (event supplyWarningEvent s)

/-- SUPPLY_RECOVERY (R138). -/
def execSupplyRecovery (s : State) : Host.Outcome State Fault Refusal :=
  .next (event supplyRecoveryEvent s)

/-- POWER_ON_RESET (R197). -/
def execPowerOnReset (s : State) : Host.Outcome State Fault Refusal := .next (powerOnEvent s)

/-- BROWN_OUT_RESET (R197). -/
def execBrownOutReset (s : State) : Host.Outcome State Fault Refusal := .next (brownOutEvent s)

/-- SUPPLY_RISE (R199, R120). -/
def execSupplyRise (straps : BitVec 6) (stow : BitVec 12) (s : State) :
    Host.Outcome State Fault Refusal := .next (supplyRiseEvent straps stow s)

/-- PIN_RESET (R197, R198). -/
def execPinReset (straps : BitVec 6) (s : State) : Host.Outcome State Fault Refusal :=
  .next (pinResetEvent straps s)

/-- RESETN_RELEASE (R199). -/
def execResetnRelease (s : State) : Host.Outcome State Fault Refusal := .next (resetnReleaseEvent s)

/-- SELF_TEST_END (R200, R201). -/
def execSelfTestEnd (pass : Bool) (s : State) : Host.Outcome State Fault Refusal :=
  .next (event (selfTestEvent pass) s)

end Sys2Proof.Machine
end

