-- ==== Sys2Proof/Machine/Transfers.lean ====
section
/-! DEFINITION. The other host transfers and the completions on the D-port (07). -/

namespace Sys2Proof.Machine

/-- SAMPLE_PORT_READ, offset 0x070 (R105, R145). -/
def execSamplePortRead (be : ByteEnables) (s : State) : Host.Outcome State Fault Refusal :=
  .next (present ⟨false, regionWord s.bus.base 28, 0, be⟩ s)

/-- STRAY_WRITE, offset 0x100 + 4i (R146). -/
def execStrayWrite (i : Fin 52) (w : Word) (be : ByteEnables) (s : State) :
    Host.Outcome State Fault Refusal :=
  .next (present ⟨true, regionWord s.bus.base (64 + i.val), w, be⟩ s)

/-- PROFILE_WINDOW_WRITE, offset 0x200 + 4i (R147, R190). -/
def execProfileWindowWrite (i : Fin 128) (w : Word) (be : ByteEnables) (s : State) :
    Host.Outcome State Fault Refusal :=
  .next (present ⟨true, regionWord s.bus.base (128 + i.val), w, be⟩ s)

/-- STATUS_RECORD_READ, offset 0x100 + 16r + 4k (R146, R159). -/
def execStatusRecordRead (r : RecId) (k : Fin 4) (be : ByteEnables) (s : State) :
    Host.Outcome State Fault Refusal :=
  .next (present ⟨false, regionWord s.bus.base (64 + 4 * r.val + k.val), 0, be⟩ s)

/-- PASSED_WRITE at a bus address (R142, R149); an address with a handling of its own is handled so. -/
def execPassedWrite (a : Address) (w : Word) (be : ByteEnables) (s : State) :
    Host.Outcome State Fault Refusal := .next (present ⟨true, a, w, be⟩ s)

/-- HOST_READ_PASSED at a bus address (R149); an address with a handling of its own is handled so. -/
def execHostReadPassed (a : Address) (be : ByteEnables) (s : State) :
    Host.Outcome State Fault Refusal := .next (present ⟨false, a, 0, be⟩ s)

/-- HOST_TRANSFER_COMPLETE (R149, R159). -/
def execHostTransferComplete (w : Word) (s : State) : Host.Outcome State Fault Refusal :=
  .next (hostComplete w s)

/-- PART_WRITE_COMPLETE (R150). -/
def execPartWriteComplete (s : State) : Host.Outcome State Fault Refusal := .next (partComplete s)

/-- FETCH_COMPLETE (R157). -/
def execFetchComplete (w : Word) (s : State) : Host.Outcome State Fault Refusal :=
  .next (fetchComplete w s)

end Sys2Proof.Machine
end

