-- ==== Sys2Proof/Machine/Dispatch.lean ====
section
/-! DEFINITION. One arm for each command. -/

namespace Sys2Proof.Machine

def exec (i : Instr) (s : State) : Host.Outcome State Fault Refusal :=
  match i with
  | .argumentWordWrite n w be => Sys2Proof.Machine.execArgumentWordWrite n w be s
  | .lock n w be => Sys2Proof.Machine.execLock n w be s
  | .haul n w be => Sys2Proof.Machine.execHaul n w be s
  | .tend n w be => Sys2Proof.Machine.execTend n w be s
  | .ease n w be => Sys2Proof.Machine.execEase n w be s
  | .slip n w be => Sys2Proof.Machine.execSlip n w be s
  | .rewind n w be => Sys2Proof.Machine.execRewind n w be s
  | .park n w be => Sys2Proof.Machine.execPark n w be s
  | .restate n w be => Sys2Proof.Machine.execRestate n w be s
  | .groupLock w be => Sys2Proof.Machine.execGroupLock w be s
  | .groupTend w be => Sys2Proof.Machine.execGroupTend w be s
  | .groupSlip w be => Sys2Proof.Machine.execGroupSlip w be s
  | .groupRewind w be => Sys2Proof.Machine.execGroupRewind w be s
  | .vacantRequest w be => Sys2Proof.Machine.execVacantRequest w be s
  | .arrivalRequest w be => Sys2Proof.Machine.execArrivalRequest w be s
  | .securedRequest w be => Sys2Proof.Machine.execSecuredRequest w be s
  | .departureRequest w be => Sys2Proof.Machine.execDepartureRequest w be s
  | .lockdownRequest w be => Sys2Proof.Machine.execLockdownRequest w be s
  | .resume w be => Sys2Proof.Machine.execResume w be s
  | .resetRequest w be straps => Sys2Proof.Machine.execResetRequest w be straps s
  | .acknowledgeWordWrite w be => Sys2Proof.Machine.execAcknowledgeWordWrite w be s
  | .cursorWordWrite w be => Sys2Proof.Machine.execCursorWordWrite w be s
  | .samplePortRead be => Sys2Proof.Machine.execSamplePortRead be s
  | .commit w be => Sys2Proof.Machine.execCommit w be s
  | .strayWrite j w be => Sys2Proof.Machine.execStrayWrite j w be s
  | .profileWindowWrite j w be => Sys2Proof.Machine.execProfileWindowWrite j w be s
  | .statusRecordRead r k be => Sys2Proof.Machine.execStatusRecordRead r k be s
  | .passedWrite a w be => Sys2Proof.Machine.execPassedWrite a w be s
  | .hostTransferComplete w => Sys2Proof.Machine.execHostTransferComplete w s
  | .partWriteComplete => Sys2Proof.Machine.execPartWriteComplete s
  | .fetchComplete w => Sys2Proof.Machine.execFetchComplete w s
  | .pulse n outward gap => Sys2Proof.Machine.execPulse n outward gap s
  | .brakeFeedbackChange n set => Sys2Proof.Machine.execBrakeFeedbackChange n set s
  | .stowMade n back => Sys2Proof.Machine.execStowMade n s back
  | .stowLost n => Sys2Proof.Machine.execStowLost n s
  | .stall n ticks => Sys2Proof.Machine.execStall n s ticks
  | .haulTimeOut n ticks => Sys2Proof.Machine.execHaulTimeOut n s ticks
  | .slipTimeOut n ticks => Sys2Proof.Machine.execSlipTimeOut n s ticks
  | .brakeMismatch n ticks => Sys2Proof.Machine.execBrakeMismatch n s ticks
  | .holdDeadlineExpiry n ticks => Sys2Proof.Machine.execHoldDeadlineExpiry n s ticks
  | .pacingExpiry ticks => Sys2Proof.Machine.execPacingExpiry s ticks
  | .lineConversionComplete raw => Sys2Proof.Machine.execLineConversionComplete raw s
  | .referenceConversionComplete raw => Sys2Proof.Machine.execReferenceConversionComplete raw s
  | .probeConversionComplete raw => Sys2Proof.Machine.execProbeConversionComplete raw s
  | .hostSilenceExpiry ticks => Sys2Proof.Machine.execHostSilenceExpiry s ticks
  | .verification upset ticks => Sys2Proof.Machine.execVerification upset s ticks
  | .snapshotLockTimerExpiry ticks => Sys2Proof.Machine.execSnapshotLockTimerExpiry s ticks
  | .supplyWarning => Sys2Proof.Machine.execSupplyWarning s
  | .supplyRecovery => Sys2Proof.Machine.execSupplyRecovery s
  | .powerOnReset => Sys2Proof.Machine.execPowerOnReset s
  | .brownOutReset => Sys2Proof.Machine.execBrownOutReset s
  | .supplyRise straps stow => Sys2Proof.Machine.execSupplyRise straps stow s
  | .pinReset straps => Sys2Proof.Machine.execPinReset straps s
  | .resetnRelease => Sys2Proof.Machine.execResetnRelease s
  | .selfTestEnd pass => Sys2Proof.Machine.execSelfTestEnd pass s
  | .hostReadPassed a be => Sys2Proof.Machine.execHostReadPassed a be s

end Sys2Proof.Machine
end

