-- ==== Sys2Proof/Safety.lean ====
section
/-! DEFINITION. What the claims call a sound state of the part, and the readings of a state that the claims
are stated in. -/

namespace Sys2Proof.Machine

/-! ### Readings -/

/-- The part takes the host's guarded words: supply up, UWAIT not driven, phase neither STARTING nor
HALTED (R148, R149, R197). -/
def State.takesWords (s : State) : Prop :=
  s.supply.powered = true ∧ s.uwait = false ∧ s.berth.phase.silent = false

/-- The pair being written on the D-port. -/
def DTransfer.pairs : DTransfer → List LaneEntry
  | .pair n arg order => [⟨n, arg, order⟩]
  | .host _ | .record _ _ _ _ _ | .fetch _ _ => []

/-- The order pairs on their way to memory: the one being written, then the order lane (R152, R153). -/
def State.pairs (s : State) : List LaneEntry :=
  (match s.bus.dport with
   | some d => d.pairs
   | none => []) ++ s.bus.orderLane

/-- Motion under a host order: the states that LOCKDOWN does not let stand (R132, R133). TENDING is not
among them, for a render that ends in LOCKDOWN may return to it (R17). -/
def LineState.hostMotion : LineState → Bool
  | .paying _ | .hauling _ | .slipping | .rewinding => true
  | .adopting | .parked | .standing | .locked | .tending | .rendering _ _ | .slack | .faulted _ => false

/-- A stow made of line `n` has come together with the command being taken, and is taken after it: it
stands at place `i` of the queue and came with more than `i` of the commands before it (R22, log 27). -/
def State.StowComes (s : State) (n : LineId) : Prop :=
  ∃ i back, s.pending[i]? = some (Instr.stowMade n back) ∧ i < back

/-! ### The gates of a held SLIP (R62 to R64) -/

/-- LINE_READY is open (R62). -/
def State.Ready (s : State) (n : LineId) : Prop :=
  (s.line n).state = .locked ∨ (s.line n).state = .tending ∨ (s.line n).state = .standing

/-- RANK_ORDER is open: every fitted line of lower rank is SLACK, REWINDING or PARKED (R63). -/
def State.Ranked (s : State) (n : LineId) : Prop :=
  ∀ m, (s.line m).fitted = true → (s.line m).rank < (s.line n).rank →
    (s.line m).state = .slack ∨ (s.line m).state = .rewinding ∨ (s.line m).state = .parked

/-- SURGE_SETTLED is open: eight samples, no two of them farther apart than the surge limit (R64, R90). -/
def State.Settled (s : State) (n : LineId) : Prop :=
  (s.line n).ring.length = 8 ∧ ∀ x ∈ (s.line n).ring, ∀ y ∈ (s.line n).ring,
    x.tension ≤ y.tension + surgeLimit s.image n

/-- The three gates are open (R66). -/
def State.Open (s : State) (n : LineId) : Prop := s.Ready n ∧ s.Ranked n ∧ s.Settled n

/-- A closed-gate set names the gates of a SLIP that are closed now (R61). -/
def State.Closed (s : State) (n : LineId) (g : Gates) : Prop :=
  (g.lineReady = true ↔ ¬ s.Ready n) ∧ (g.rankOrder = true ↔ ¬ s.Ranked n) ∧
    (g.surgeSettled = true ↔ ¬ s.Settled n) ∧ g.tensionFree = true ∧ g.lineSlack = false

/-- The tension of the line is fresh and at or below its slip limit (R65). -/
def State.Free (s : State) (n : LineId) : Prop :=
  ∃ v, (s.line n).tension = some v ∧ v ≤ slipLimit s.image n

/-! ### Time (log 1, log 3) -/

/-- The command of an expiry, `ticks` ticks from now. -/
def Expiry.command (ticks : Nat) : Expiry → Instr
  | .stall n => .stall n ticks
  | .haul n => .haulTimeOut n ticks
  | .slip n => .slipTimeOut n ticks
  | .brake n => .brakeMismatch n ticks
  | .hold n => .holdDeadlineExpiry n ticks
  | .silence => .hostSilenceExpiry ticks
  | .pacing => .pacingExpiry ticks
  | .verify => .verification [] ticks
  | .snap => .snapshotLockTimerExpiry ticks

/-- The timer of an expiry stands at 0. -/
def Expiry.StandsDue (s : State) : Expiry → Prop
  | .stall n => (s.line n).stall = some 0
  | .haul n => (s.line n).haul = some 0
  | .slip n => (s.line n).slip = some 0
  | .brake n => (s.line n).brakeSettle = some 0
  | .hold n => ∃ e, s.entry n = some e ∧ e.deadline = 0
  | .silence => s.berth.silence = some 0
  | .pacing => s.scan.pacing = some 0
  | .verify => s.profile.verify = some 0
  | .snap => ∃ l, s.bus.snap = some l ∧ l.timer = 0

/-- The state a command leaves. -/
def State.after (s : State) (c : Instr) : State :=
  match exec c s with
  | .next t => t
  | .fault _ | .refused _ => s

/-- Each expiry that stands due in `s` is taken, by its command and in some order (log 2). -/
def DueTaken (s t : State) : Prop :=
  ∃ es : List Expiry, es.Nodup ∧ (∀ e, e ∈ es ↔ e.StandsDue s) ∧
    t = es.foldl (fun u e => u.after (e.command 0)) s

/-- One millisecond is counted: every running timer goes down by 1, every latch age up by 1 and no
farther than 1001, and nothing else changes (R30, R72, R83, R114 to R116, R128, R159, R193). -/
structure Counted (s c : State) : Prop where
  lines : ∀ n, c.line n = { s.line n with
    stall := (s.line n).stall.map (· - 1)
    haul := (s.line n).haul.map (· - 1)
    slip := (s.line n).slip.map (· - 1)
    brakeSettle := (s.line n).brakeSettle.map (· - 1)
    latch := (s.line n).latch.map fun x => ⟨x.value, min 1001 (x.age + 1)⟩ }
  rest : c = { s with
    lines := c.lines
    queue := s.queue.map fun e => { e with deadline := e.deadline - 1 }
    scan := { s.scan with pacing := s.scan.pacing.map (· - 1) }
    berth := { s.berth with silence := s.berth.silence.map (· - 1) }
    profile := { s.profile with verify := s.profile.verify.map (· - 1) }
    bus := { s.bus with snap := s.bus.snap.map fun l => ⟨l.record, l.timer - 1⟩ }
    ticks := s.ticks + 1 }

/-! ### Soundness of one line -/

/-- A line is sound: its fields agree with its state and keep their ranges. -/
structure Line.Sound (l : Line) : Prop where
  /-- A record is stale while, and only while, its classification is NONE (R164). -/
  stale : l.tension = none ↔ l.cls = .noClass
  /-- R89. -/
  overRun : l.overRun ≤ 15
  /-- R89. -/
  slackRun : l.slackRun ≤ 15
  /-- R90. -/
  ring : l.ring.length ≤ 8
  /-- R109. -/
  payout : l.payout ≤ 65535
  /-- R30. -/
  age : ∀ x, l.latch = some x → x.age ≤ 1001
  /-- A refusal keeps no superseded tag (R32, R181). -/
  refused : ∀ r, l.lastHost.outcome = some (.refused r) → l.lastHost.superseded = none
  /-- A run counter is loaded only in PAYING, RENDERING or REWINDING (R112). -/
  run : l.run.isSome = true → l.state.moves = true
  /-- The remaining distance does not pass its ceiling (R112). -/
  ceiling : ∀ r, l.run = some r → r.left ≤ r.ceiling
  /-- R114. -/
  stall : l.stall.isSome = true → l.state.moves = true
  /-- R115. -/
  haul : l.haul.isSome = true → l.state.isHauling = true
  /-- R115. -/
  slip : l.slip.isSome = true → l.state = .slipping
  /-- R116. -/
  brake : l.brakeSettle.isSome = true → l.state.expectedBrake.isSome = true

/-- A load in flight has as many words in the buffer as its next index says, and their sum; no load, no
words (R188, R189). -/
def Profile.Sound (p : Profile) : Prop :=
  match p.load with
  | .idle => p.buffer = [] ∧ p.sum = 0
  | .loading i => p.buffer.length = i ∧ i < 128 ∧ p.sum = imageSum p.buffer

/-! ### Soundness of the part -/

/-- The part is sound, but for what hangs on the berth phase. -/
structure State.Sound (s : State) : Prop where
  /-- Every line is sound. -/
  line : ∀ n, (s.line n).Sound
  /-- ATTN is asserted exactly while a notice is set (R175). -/
  attn : s.report.attn = s.anyNotice
  /-- At most 8 entries (R59). -/
  queueSize : s.queue.length ≤ 8
  /-- Never two entries for one line (R59). -/
  queueLines : (s.queue.map (·.line)).Nodup
  /-- The still-present set lies within the cause set (R130). -/
  present : ∀ c, s.berth.present.has c = true → s.berth.causes.has c = true
  /-- At most one pending pair for a line (R156). -/
  orderLines : (s.bus.orderLane.map (·.line)).Nodup
  /-- At most one pending entry for a record (R156). -/
  reports : s.bus.reportLane.Nodup
  /-- The load buffer agrees with the load state (R189). -/
  load : s.profile.Sound

/-- What hangs on the berth phase. -/
structure State.Phased (s : State) : Prop where
  /-- The host-silence timer runs in ARRIVAL, SECURED and DEPARTURE, and is stopped elsewhere (R128). -/
  silence : s.berth.silence.isSome = s.berth.phase.runsSilence
  /-- The hold queue is empty in STARTING, HALTED and LOCKDOWN (R59). -/
  emptyQueue : (s.berth.phase.silent = true ∨ s.berth.phase = .lockdown) → s.queue = []
  /-- In LOCKDOWN no fitted line is PAYING, HAULING, SLIPPING or REWINDING (R132, R133). -/
  still : s.berth.phase = .lockdown → ∀ n, (s.line n).fitted = true →
    (s.line n).state.hostMotion = false
  /-- In STARTING nothing is placed in the report lane (R176). -/
  noReports : s.berth.phase = .starting → s.bus.reportLane = []
  /-- In HALTED no line record is (R176). -/
  berthOnly : s.berth.phase = .halted → ∀ r ∈ s.bus.reportLane, r = 12

/-- The D-port is not idle while a claim waits for it (R150), transfers of the host wait outside only
while UWAIT is driven (R149), and with the supply down nothing is on the D-port (R162). -/
structure State.Ported (s : State) : Prop where
  /-- With no transfer in progress no claim waits. -/
  idle : s.bus.dport = none → s.bus.orderLane = [] ∧ s.bus.waiting = none ∧ s.bus.fetch = none ∧
    eligibleRecord s = none
  /-- Without UWAIT no transfer of the host waits outside. -/
  held : s.uwait = false → s.bus.held = []
  /-- With the supply down the D-port is idle. -/
  down : s.supply.powered = false → s.bus.dport = none

/-! ### The commands by the word they write -/

/-- `i` is one of the eight order rows, writing `w` to the order word of line `n`. -/
def OrderRow (i : Instr) (n : LineId) (w : Word) (be : ByteEnables) : Prop :=
  i = .lock n w be ∨ i = .haul n w be ∨ i = .tend n w be ∨ i = .ease n w be ∨ i = .slip n w be
    ∨ i = .rewind n w be ∨ i = .park n w be ∨ i = .restate n w be

/-- `i` is one of the four group rows, writing `w`. -/
def GroupRow (i : Instr) (w : Word) (be : ByteEnables) : Prop :=
  i = .groupLock w be ∨ i = .groupTend w be ∨ i = .groupSlip w be ∨ i = .groupRewind w be

/-- `i` is one of the six berth request rows other than RESET, writing `w`. -/
def RequestRow (i : Instr) (w : Word) (be : ByteEnables) : Prop :=
  i = .vacantRequest w be ∨ i = .arrivalRequest w be ∨ i = .securedRequest w be
    ∨ i = .departureRequest w be ∨ i = .lockdownRequest w be ∨ i = .resume w be

/-- `i` brings line `n` an order of kind `k` and tag `t`: a full order word of good form (R36 to R38), or
a full group word of good form that names this line alone (R56, R57). -/
def Carries (i : Instr) (n : LineId) (k : OrderKind) (t : Tag) (o : Origin) : Prop :=
  match o with
  | .hostWord => ∃ w, OrderRow i n w 15 ∧ checkGood w = true ∧ readOrder w = some (k, t)
  | .groupWord => ∃ w, GroupRow i w 15 ∧ readGroup w 15 = some (k, t) ∧
      ∀ m, groupNames w m = decide (m = n)

/-! ### What a command leaves -/

/-- What an order leaves of its own line, whatever its verdict: profile flags, tension record, counts,
inputs, sequence. -/
structure Line.KeptByOrder (l l' : Line) : Prop where
  flags : l'.fitted = l.fitted ∧ l'.rank = l.rank ∧ l'.required = l.required
  record : l'.tension = l.tension ∧ l'.cls = l.cls ∧ l'.overRun = l.overRun ∧
    l'.slackRun = l.slackRun ∧ l'.ring = l.ring
  counts : l'.payout = l.payout ∧ l'.lengthUnknown = l.lengthUnknown
  inputs : l'.stowMade = l.stowMade ∧ l'.pulseAge = l.pulseAge ∧ l'.brakeSet = l.brakeSet
  seq : l'.seq = l.seq

/-- What drum supervision does at a change of state from `l` to `l'`: the brake-settle timer is loaded
afresh where the feedback disagrees with the new state's expected brake and stopped otherwise, and the
creep count is 0 on entry to a state that counts creep; where the state is kept both run on (R116 to
R118). -/
structure TakenIn (s : State) (l l' : Line) : Prop where
  brake : l'.brakeSettle = if l'.state = l.state then l.brakeSettle
    else if l'.state.expectedBrake = some (!l.brakeSet) then
      some (s.ticksFor (brakeSettleTime s.image)) else none
  creep : l'.creep = if l'.state ≠ l.state ∧ l'.state.countsCreep = true then 0 else l.creep

/-- The berth after a change of a line's state, `b` the berth otherwise: DEPARTURE becomes VACANT where
the lines as they then stand leave every fitted one PARKED (R127). -/
def VacatesBy (s u : State) (b : Berth) : Prop :=
  (s.berth.phase ≠ .departure → u.berth = b) ∧
  (s.berth.phase = .departure →
    ((∀ m, (u.line m).fitted = true → (u.line m).state = .parked) →
      u.berth = { b with phase := .vacant, silence := none }) ∧
    ((∃ m, (u.line m).fitted = true ∧ (u.line m).state ≠ .parked) → u.berth = b))

/-- No run counter and no stall, haul or slip timer. -/
def Line.Rests (l : Line) : Prop := l.run = none ∧ l.stall = none ∧ l.haul = none ∧ l.slip = none

/-- Line `n` passed an order of kind `k`, tag `t` and argument `arg`, with no order of the part's own in
its train; `u` is the part before the arbiter meets the claims (R32, R44, R46, R47, R74). -/
structure PassedOrder (s u : State) (n : LineId) (k : OrderKind) (t : Tag) (arg : Nat) : Prop where
  verdict : (u.line n).lastHost = ⟨some (t, k), some .passed, (s.entry n).map (·.tag)⟩
  entry : u.entry n = none
  pair : ⟨n, composeArgument arg, composeOrder k t⟩ ∈ u.bus.orderLane
  latch : (u.line n).latch = if k = .haul ∨ k = .ease then none else (s.line n).latch
  part : (u.line n).lastPart = (s.line n).lastPart
  notice : (u.line n).notice = ((s.line n).notice || (s.entry n).isSome)
  own : (s.line n).KeptByOrder (u.line n)
  drum : TakenIn s (s.line n) (u.line n)
  others : ∀ m, m ≠ n → s.entry m = none → u.line m = s.line m
  blocks : u.profile = s.profile ∧ u.supply = s.supply
  notices : u.report.notices = s.report.notices

/-- Line `n` asked for its probe: an idle scan begins it, a pass is cut off for it at its position, and
while a probe runs the request waits (R96 to R98). -/
def AsksProbe (s u : State) (n : LineId) : Prop :=
  match s.scan.pass with
  | .idle => u.scan = { s.scan with pass := .probing n none } ∧ (u.line n).probeWaiting = false
  | .running p => u.scan = { s.scan with pass := .probing n (some p) } ∧
      (u.line n).probeWaiting = false
  | .probing _ _ => u.scan = s.scan ∧ (u.line n).probeWaiting = true

/-- Line `m` has an entry, and its probe request waits (R96). -/
def State.Asks (s : State) (m : LineId) : Prop := (s.line m).probeWaiting = true ∧ (s.entry m).isSome = true

/-- The requests that judgements have put into the probe set were taken: while a probe runs they wait;
otherwise the probe of the lowest line begins, which its entry marks if it is PROBING, and an idle scan has
no place to carry on (R96 to R98; log 18, log 32). -/
structure ProbesTaken (s u : State) : Prop where
  wait : (∃ n r, s.scan.pass = .probing n r) ∨ (∀ m, ¬ s.Asks m) → u = s
  lowest : ∀ m, s.Asks m → (∀ k, k < m → ¬ s.Asks k) → (∀ n r, s.scan.pass ≠ .probing n r) →
    u = { s with
      lines := u.lines
      queue := s.queue.map fun e =>
        if e.line = m ∧ e.stage = .probing then { e with probeBegun := true } else e
      scan := { s.scan with pass := .probing m (match s.scan.pass with
        | .running p => some p
        | .idle | .probing _ _ => none) } } ∧
    u.line m = { s.line m with probeWaiting := false } ∧ ∀ k, k ≠ m → u.line k = s.line k

/-- The held order of entry `e` was forwarded (R71); the re-evaluation that follows is not in `t`. A
REWIND whose payout count is 0 is a run complete at once (R53, R113; log 20). -/
structure Forwarded (e : Entry) (s t : State) : Prop where
  verdict : (t.line e.line).lastHost =
    ⟨some (e.tag, e.kind.order), some .forwarded, (s.line e.line).lastHost.superseded⟩
  queue : t.queue = s.queue.filter fun x => x.line != e.line
  slip : e.kind = .slip → (t.line e.line).state = .slipping ∧
    ((s.line e.line).state ≠ .slipping →
      (t.line e.line).slip = some (s.ticksFor (slipTimeLimit s.image))) ∧
    ⟨e.line, composeArgument 0, composeOrder .slip e.tag⟩ ∈ t.bus.orderLane
  rewind : e.kind = .rewind → (s.line e.line).lengthUnknown = true ∨ (s.line e.line).payout ≠ 0 →
    (t.line e.line).state = .rewinding ∧
    (t.line e.line).stall = some (s.ticksFor (stallTime s.image)) ∧
    ((s.line e.line).lengthUnknown = false →
      (t.line e.line).run = some ⟨(s.line e.line).payout, (s.line e.line).payout⟩) ∧
    ⟨e.line, composeArgument 0, composeOrder .rewind e.tag⟩ ∈ t.bus.orderLane
  home : e.kind = .rewind → (s.line e.line).lengthUnknown = false → (s.line e.line).payout = 0 →
    (s.line e.line).stowMade = true ∨ s.StowComes e.line →
    (t.line e.line).state = .parked ∧ (t.line e.line).lastPart = some ⟨.park, .runComplete⟩ ∧
    ⟨e.line, composeArgument 0, composeOrder .park 0⟩ ∈ t.bus.orderLane
  away : e.kind = .rewind → (s.line e.line).lengthUnknown = false → (s.line e.line).payout = 0 →
    (s.line e.line).stowMade = false → ¬ s.StowComes e.line →
    (t.line e.line).state = .faulted .stowMismatch ∧
    (t.line e.line).lastPart = some ⟨.lock, .stowMismatch⟩ ∧
    ⟨e.line, composeArgument 0, composeOrder .lock 0⟩ ∈ t.bus.orderLane
  drum : (s.line e.line).state ≠ (t.line e.line).state →
    TakenIn s (s.line e.line) (t.line e.line)
  others : ∀ m, m ≠ e.line → t.line m = s.line m
  blocks : t.scan = s.scan ∧ t.berth = s.berth ∧ t.profile = s.profile ∧ t.supply = s.supply

/-- Line `n` was refused an order for reason `r`, and nothing else changed (R34); `o` is the tag and kind
recorded, `latch` the latch left. -/
structure RefusedOrder (s u : State) (n : LineId) (o : Option (Tag × OrderKind)) (r : RefusalReason)
    (latch : Option Latch) : Prop where
  own : u.line n = { s.line n with
    lastHost := ⟨o, some (.refused r), none⟩, latch := latch, notice := true }
  others : ∀ m, m ≠ n → u.line m = s.line m
  lane : u.bus.orderLane = s.bus.orderLane
  record : n.castSucc ∈ u.bus.reportLane
  blocks : u.queue = s.queue ∧ u.scan = s.scan ∧ u.berth = (hostActivity s).berth ∧
    u.profile = s.profile ∧ u.supply = s.supply
  notices : u.report.notices = s.report.notices

/-- The values every reset leaves, outside the retained domain and the brake feedback input (R28, R58,
R106, R120, R139, R161, R170, R177, R196, R198). -/
structure AfterReset (c : ResetCause) (t : State) : Prop where
  table : ∀ n, (t.line n).fitted = false ∧ (t.line n).state = .adopting ∧ (t.line n).rank = 0 ∧
    (t.line n).required = false
  verdicts : ∀ n, (t.line n).latch = none ∧ (t.line n).lastHost = ⟨none, none, none⟩ ∧
    (t.line n).lastPart = none
  records : ∀ n, (t.line n).tension = none ∧ (t.line n).cls = .noClass ∧ (t.line n).overRun = 0 ∧
    (t.line n).slackRun = 0 ∧ (t.line n).ring = [] ∧ (t.line n).probeWaiting = false
  drums : ∀ n, (t.line n).Rests ∧ (t.line n).brakeSettle = none ∧ (t.line n).creep = 0
  notices : ∀ n, (t.line n).notice = false ∧ (t.line n).seq = 0
  queue : t.queue = []
  scan : t.scan = ⟨[], .paced, none, .idle, .ok, 1, ⟨0, 0, false⟩⟩
  berth : t.berth = ⟨.starting, 0, 0, none, none⟩
  profile : t.profile = ⟨fallbackImage, .fallback, .idle, [], 0, none, .noOutcome⟩
  lanes : t.bus.orderLane = [] ∧ t.bus.reportLane = [] ∧ t.bus.fetch = none ∧ t.bus.snap = none ∧
    t.bus.mark = .internal
  report : t.report = ⟨0, false, 0, 0⟩
  supply : t.supply.cause = c ∧ t.supply.live = false ∧ t.supply.latched = false

/-- The retained domain and the brake feedback input are as they were (R120). -/
def RetainedKept (s t : State) : Prop :=
  ∀ n, (t.line n).payout = (s.line n).payout ∧ (t.line n).lengthUnknown = (s.line n).lengthUnknown ∧
    (t.line n).stowMade = (s.line n).stowMade ∧ (t.line n).pulseAge = (s.line n).pulseAge ∧
    (t.line n).brakeSet = (s.line n).brakeSet

/-- LOCKDOWN was entered with cause `c` from `s`; `u` is the part before the arbiter meets the claims
(R122, R131, R132). -/
structure EnteredLockdown (c : LockdownCause) (s u : State) : Prop where
  phase : u.berth.phase = .lockdown
  causes : u.berth.causes = s.berth.causes ||| c.bit
  silence : u.berth.silence = none
  queue : u.queue = []
  flushed : ∀ n e, s.entry n = some e → (u.line n).lastHost = ⟨some (e.tag, e.kind.order), some .flushed,
    (s.line n).lastHost.superseded⟩ ∧ (u.line n).notice = true
  moving : ∀ n, (s.line n).fitted = true → (s.line n).state.inMotion = true →
    (u.line n).state = lockState (s.line n).state (s.line n).cls ∧
    (u.line n).lastPart = some ⟨.lock, .lockdown c⟩ ∧
    ⟨n, composeArgument 0, composeOrder .lock 0⟩ ∈ u.bus.orderLane
  drum : ∀ n, TakenIn s (s.line n) (u.line n)
  still : ∀ n, ¬ ((s.line n).fitted = true ∧ (s.line n).state.inMotion = true) →
    (u.line n).state = (s.line n).state ∧ (u.line n).lastPart = (s.line n).lastPart
  latches : ∀ n, (u.line n).latch = none
  /-- Every pair left carries tag 0 or kind LOCK (R154). -/
  lane : ∀ e ∈ u.bus.orderLane, tagField e.order = 0 ∨ codeField e.order = 1
  /-- Such a pair stays, but for that of a line whose lockdown LOCK replaces it (R152, R154). -/
  kept : ∀ e ∈ s.bus.orderLane, tagField e.order = 0 ∨ codeField e.order = 1 →
    ¬ ((s.line e.line).fitted = true ∧ (s.line e.line).state.inMotion = true) → e ∈ u.bus.orderLane
  notice : u.notice .lockdownEntered = true
  record : 12 ∈ u.bus.reportLane
  drums : ∀ n, (u.line n).payout = (s.line n).payout ∧ (u.line n).lengthUnknown = (s.line n).lengthUnknown
  blocks : u.profile = s.profile

/-- The supply was lost with reset `c` (R120, R161, R162, R197). -/
structure SupplyLost (c : ResetCause) (s t : State) : Prop where
  reset : AfterReset c t
  stage : t.supply.stage = .reset ∧ t.supply.powered = false
  domain : ∀ n, (t.line n).payout = 0 ∧ (t.line n).lengthUnknown = true
  abandoned : t.bus.dport = none ∧ t.bus.waiting = none ∧ t.bus.held = []
  /-- A pin reset in force stays so (log 15). -/
  pin : t.supply.pinHeld = s.supply.pinHeld
  brake : ∀ n, (t.line n).brakeSet = (s.line n).brakeSet

/-- Line `n` is FAULTED with reason `r` and the LOCK of cause `c` (R4, R7); `u` is the part before the
arbiter meets the claims. -/
structure FaultedBy (s u : State) (n : LineId) (r : FaultReason) (c : PartCause) : Prop where
  state : (u.line n).state = .faulted r
  notice : (u.line n).notice = true
  part : (u.line n).lastPart = some ⟨.lock, c⟩
  pair : ⟨n, composeArgument 0, composeOrder .lock 0⟩ ∈ u.bus.orderLane
  drum : (u.line n).Rests ∧ (u.line n).brakeSettle = none
  verdict : (u.line n).lastHost = (s.line n).lastHost ∧ (u.line n).latch = (s.line n).latch
  own : (s.line n).KeptByOrder (u.line n)
  others : ∀ m, m ≠ n → s.entry m = none → u.line m = s.line m
  blocks : u.berth = s.berth ∧ u.profile = s.profile ∧ u.supply = s.supply
  notices : u.report.notices = s.report.notices

/-- What a drum event of line `n` leaves: the profile flags, tension record, verdict and latch of the
line, every line without a hold entry, the profile, the supply and the berth notices. -/
structure DrumKept (s u : State) (n : LineId) : Prop where
  flags : (u.line n).fitted = (s.line n).fitted ∧ (u.line n).rank = (s.line n).rank ∧
    (u.line n).required = (s.line n).required
  record : (u.line n).tension = (s.line n).tension ∧ (u.line n).cls = (s.line n).cls ∧
    (u.line n).overRun = (s.line n).overRun ∧ (u.line n).slackRun = (s.line n).slackRun ∧
    (u.line n).ring = (s.line n).ring
  verdict : (u.line n).lastHost = (s.line n).lastHost ∧ (u.line n).latch = (s.line n).latch
  others : ∀ m, m ≠ n → s.entry m = none → u.line m = s.line m
  blocks : u.profile = s.profile ∧ u.supply = s.supply
  notices : u.report.notices = s.report.notices

/-- A berth request was refused for reason `r`, and nothing else changed (R126). -/
structure RefusedRequest (s u : State) (r : RequestRefusal) : Prop where
  berth : u.berth = { (hostActivity s).berth with refusal := some r }
  notice : u.notice .phaseRefused = true
  others : ∀ k, k ≠ .phaseRefused → u.notice k = s.notice k
  record : 12 ∈ u.bus.reportLane
  kept : u.lines = s.lines ∧ u.queue = s.queue ∧ u.bus.orderLane = s.bus.orderLane ∧
    u.scan = s.scan ∧ u.profile = s.profile ∧ u.supply = s.supply

/-! ### The transfers of the host -/

/-- The transfer a row of the host puts on the U-port, for a region at `base` (R140, R141). -/
def transferOf (base : BitVec 6) : Instr → Option Transfer
  | .argumentWordWrite n w be => some ⟨true, regionWord base (2 * n.val), w, be⟩
  | .lock n w be | .haul n w be | .tend n w be | .ease n w be | .slip n w be | .rewind n w be
  | .park n w be | .restate n w be => some ⟨true, regionWord base (2 * n.val + 1), w, be⟩
  | .groupLock w be | .groupTend w be | .groupSlip w be | .groupRewind w be =>
    some ⟨true, regionWord base 24, w, be⟩
  | .vacantRequest w be | .arrivalRequest w be | .securedRequest w be | .departureRequest w be
  | .lockdownRequest w be | .resume w be | .resetRequest w be _ =>
    some ⟨true, regionWord base 25, w, be⟩
  | .acknowledgeWordWrite w be => some ⟨true, regionWord base 26, w, be⟩
  | .cursorWordWrite w be => some ⟨true, regionWord base 27, w, be⟩
  | .samplePortRead be => some ⟨false, regionWord base 28, 0, be⟩
  | .commit w be => some ⟨true, regionWord base 29, w, be⟩
  | .strayWrite i w be => some ⟨true, regionWord base (64 + i.val), w, be⟩
  | .profileWindowWrite i w be => some ⟨true, regionWord base (128 + i.val), w, be⟩
  | .statusRecordRead r k be => some ⟨false, regionWord base (64 + 4 * r.val + k.val), 0, be⟩
  | .passedWrite a w be => some ⟨true, a, w, be⟩
  | .hostReadPassed a be => some ⟨false, a, 0, be⟩
  | _ => none

/-- RESET_REQUEST alone shows levels on the straps (log 10). -/
def State.strapped (s : State) : Instr → State
  | .resetRequest _ _ straps => setStraps straps s
  | _ => s

/-! ### The profile image (R184, R185, R191) -/

/-- Word `i` of an image as a number. -/
def numAt (img : List Word) (i : Nat) : Nat := (img.getD i 0).toNat

/-- The low half of word `i`. -/
def loAt (img : List Word) (i : Nat) : Nat := numAt img i % 65536

/-- The high half of word `i`. -/
def hiAt (img : List Word) (i : Nat) : Nat := numAt img i / 65536

/-- The condition at word `k` of a line block that begins at word `b`, judged where the later field of a
comparison stands (R185, R191). -/
def BlockRule (img : List Word) (b k : Nat) : Prop :=
  let lo := loAt img (b + k)
  let hi := hiAt img (b + k)
  match k with
  | 0 => lo ≤ 4095 ∧ 1 ≤ hi
  | 1 => lo ≤ 16383 ∧ hi ≤ 16383 ∧ lo < hi
  | 2 => lo ≤ 16383 ∧ hi ≤ 16383 ∧ hiAt img (b + 1) ≤ lo ∧ lo < hi
  | 3 => lo ≤ 16383 ∧ hi ≤ 16383 ∧ loAt img (b + 1) ≤ lo ∧ lo ≤ loAt img (b + 2)
  | 4 => 1 ≤ lo ∧ 10 ≤ hi ∧ hi ≤ 2000
  | 5 => numAt img (b + k) / 4 % 4 = 0 ∧ numAt img (b + k) / 32 = 0
  | _ => numAt img (b + k) = 0

/-- The condition at word `i` of an image whose words sum to `sum`; `keep n` says that line `n` may be
left out of the fitted mask (R184, R191). -/
def WordRule (img : List Word) (sum : Word) (keep : LineId → Bool) (i : Nat) : Prop :=
  let lo := loAt img i
  let hi := hiAt img i
  if i = 0 then numAt img 0 % 256 = 0x4C ∧ numAt img 0 / 2 ^ 20 = 0 ∧
    ∀ n : LineId, numAt img 0 / 2 ^ (8 + n.val) % 2 = 0 → keep n = true
  else if i = 1 then 5 ≤ lo ∧ lo ≤ 200 ∧ hi ≤ 1
  else if i = 2 then 1 ≤ lo ∧ lo ≤ 16 ∧ 1 ≤ hi ∧ hi ≤ 15
  else if i = 3 then 1 ≤ lo ∧ lo ≤ 15 ∧ 1 ≤ hi ∧ hi ≤ 7
  else if i = 4 then 20 ≤ lo ∧ lo ≤ 1000 ∧ 50 ≤ hi ∧ hi ≤ 2000
  else if i = 5 then 100 ≤ lo ∧ lo ≤ 12000 ∧ 100 ≤ hi ∧ hi ≤ 12000
  else if i = 6 then 500 ≤ lo ∧ lo ≤ 10000 ∧ 500 ≤ hi ∧ hi ≤ 60000
  else if i = 7 then 5 ≤ lo ∧ lo ≤ 300 ∧ 5 ≤ hi ∧ hi ≤ 300
  else if i = 8 then 1 ≤ lo ∧ lo ≤ 1000 ∧ hi = 0
  else if i = 9 then lo ≤ 4095 ∧ hi ≤ 4095 ∧ lo ≤ hi
  else if i < 16 then numAt img i = 0
  else if i < 112 then BlockRule img (16 + 8 * ((i - 16) / 8)) ((i - 16) % 8)
  else if i < 127 then numAt img i = 0
  else sum = 0

/-! ### Samples -/

/-- The tension record of line `n` took the sample of raw value `raw`, and nothing else changed it
(R89, R90, R94). -/
def TookSample (s u : State) (n : LineId) (raw : Nat) : Prop :=
  let t := tensionOf s.image n raw
  match s.scan.ref with
  | .ok =>
    let c := classOf s.image n t
    (u.line n).tension = some t ∧ (u.line n).cls = c ∧
    (u.line n).overRun = (if c = .over then min 15 ((s.line n).overRun + 1) else 0) ∧
    (u.line n).slackRun = (if c = .slack then min 15 ((s.line n).slackRun + 1) else 0) ∧
    (u.line n).ring = (⟨t, c⟩ :: (s.line n).ring).take 8
  | .fault =>
    (u.line n).tension = none ∧ (u.line n).cls = .noClass ∧ (u.line n).overRun = 0 ∧
    (u.line n).slackRun = 0 ∧ (u.line n).ring = (⟨t, .noClass⟩ :: (s.line n).ring).take 8

end Sys2Proof.Machine
end

