-- ==== Sys2Proof/Certificates/Slice0/Obligations.lean ====
section
/-! DEFINITION. The statements about the model, each a proposition. In them `exec c s = .next (arbitrate u)`
says that command c ends in u with the claims of the event met by the D-port arbiter (R150, R151); what the
arbiter does is a statement of its own, ArbiterGrants. -/

section
open Sys2Proof Sys2Proof.Machine

/-! ### The machine as a whole -/

/-- A step takes the command at the front of the queue and runs it on the rest. -/
def Obligations.StepRunsFrontCommand : Prop :=
  ∀ (c : Instr) (rest : List Instr) (s : State),
    step { s with pending := c :: rest } = exec c { s with pending := rest }

/-- With no command waiting a step is one tick of the 1 ms time base, the model's choice of log 1: every
timer and age counts by one, and each expiry that stands due is taken by its own command, in an order that
log 2 leaves open. A command of an expiry lets the ticks it carries pass in the same way and then takes its
expiry, if that stands due (log 3). With the supply down nothing happens. -/
def Obligations.EmptyQueueTicks : Prop :=
  (∀ s : State, s.supply.powered = false →
    (s.pending = [] → step s = .next s) ∧ ∀ e k, exec (Expiry.command k e) s = .next s) ∧
  (∀ s : State, s.supply.powered = true → s.atTick = false →
    ∃ t c u, DueTaken s t ∧ Counted t c ∧ DueTaken c u ∧ (s.pending = [] → step s = .next u) ∧
      (∀ e k, exec (Expiry.command (k + 1) e) s = exec (Expiry.command k e) c) ∧
      (∀ upset k, exec (.verification upset (k + 1)) s = exec (.verification upset k) c)) ∧
  (∀ (e : Expiry) (s : State), s.supply.powered = true → ¬ e.StandsDue s →
    exec (e.command 0) s = .next (arbitrate { s with atTick := false }))

/-- No command stops the part, and none touches the commands behind it. -/
def Obligations.NoCommandStops : Prop :=
  ∀ (c : Instr) (s : State), ∃ t, exec c s = .next t ∧ t.pending = s.pending

/-- Every step keeps the lines, notices, hold queue, lanes and load sound, and keeps what hangs on the
berth phase: the host-silence timer, the phases without hold entries, the lines at rest in LOCKDOWN, the report
lane empty in STARTING and without a line record in HALTED. -/
def Obligations.StepKeepsSound : Prop :=
  ∀ s t : State, s.Sound → s.Phased → step s = .next t → t.Sound ∧ t.Phased

/-- Every step leaves no claim waiting at an idle D-port, no host transfer outside without UWAIT, and the
D-port idle with the supply down. -/
def Obligations.StepKeepsPorted : Prop :=
  ∀ s t : State, s.Ported → step s = .next t → t.Ported

/-! ### Resets and start-up -/

/-- The state right after reset holds the values a power-on reset leaves, and is sound in every sense. That
the first state is the one a POWER_ON reset leaves is the model's choice of log 12. -/
def Obligations.StateAfterReset : Prop :=
  State.reset.Sound ∧ State.reset.Phased ∧ State.reset.Ported ∧
    AfterReset .powerOn State.reset ∧ State.reset.supply.stage = .reset ∧
    State.reset.bus.dport = none ∧ State.reset.bus.waiting = none ∧
    ∀ n, (State.reset.line n).payout = 0 ∧ (State.reset.line n).lengthUnknown = true

/-- POWER_ON_RESET, and BROWN_OUT_RESET with the supply up: every block at its values after reset, the
retained domain cleared, every transfer abandoned, those that wait outside too (log 5), a pin reset in force
kept (log 15). PIN_RESET at the first millisecond of a low period, and RESETN_RELEASE: values after reset,
retained domain and host transfers kept, the straps sampled, the stage left when the pin returns high. With
the supply down PIN_RESET does nothing, and RESETN_RELEASE leaves the stage. PIN_RESET shows the strap levels
(log 10); that the pin is held low, and that this low period has been taken, is held by log 15. -/
def Obligations.SupplyAndPinResets : Prop :=
  (∀ s : State,
    (∃ t, exec .powerOnReset s = .next t ∧ SupplyLost .powerOn s t) ∧
    (s.supply.powered = true → ∃ t, exec .brownOutReset s = .next t ∧ SupplyLost .brownOut s t)) ∧
  (∀ (straps : BitVec 6) (s : State), s.supply.powered = true → s.supply.pinTaken = false →
    ∃ t, exec (.pinReset straps) s = .next t ∧ AfterReset .pin t ∧ RetainedKept s t ∧
      t.supply.stage = .reset ∧ t.supply.pinHeld = true ∧ t.supply.pinTaken = true ∧
      t.supply.powered = true ∧ t.bus.base = straps ∧ t.bus.waiting = s.bus.waiting ∧
      t.bus.held = s.bus.held ∧ t.bus.dport = s.bus.dport.map DTransfer.afterReset) ∧
  (∀ (straps : BitVec 6) (s : State), s.supply.pinTaken = true ∨ s.supply.powered = false →
    exec (.pinReset straps) s = .next s) ∧
  (∀ s : State, s.supply.powered = true → s.supply.pinHeld = true → s.supply.stage = .reset →
    exec .resetnRelease s = .next { s with supply := { s.supply with
      pinHeld := false, pinTaken := false, stage := .selfTest } }) ∧
  (∀ s : State, s.supply.stage ≠ .reset ∨ s.supply.powered = false ∨ s.supply.pinHeld = false →
    exec .resetnRelease s = .next { s with supply := { s.supply with
      pinHeld := false, pinTaken := false } })

/-- RESET_REQUEST shows the strap levels (log 10) and is then as any other row of the berth request word, in
every phase and for every word. A RESET word is, in VACANT and LOCKDOWN, a command reset, which leaves RESET at
once; in ARRIVAL, SECURED and DEPARTURE it is refused with WRONG_PHASE. -/
def Obligations.CommandReset : Prop :=
  (∀ (i : Instr) (w : Word) (be : ByteEnables) (straps : BitVec 6) (s : State), RequestRow i w be →
    exec (.resetRequest w be straps) s = exec i (setStraps straps s)) ∧
  ∀ (w : Word) (straps : BitVec 6) (s : State), s.takesWords → readRequest w 15 = some .reset →
    ((s.berth.phase = .vacant ∨ s.berth.phase = .lockdown) →
      ∃ u, exec (.resetRequest w 15 straps) s = .next (arbitrate u) ∧ AfterReset .command u ∧
        RetainedKept s u ∧ u.supply.stage = .selfTest ∧ u.bus.base = straps ∧
        u.bus.waiting = s.bus.waiting ∧ u.bus.held = s.bus.held ∧
        u.bus.dport = s.bus.dport.map DTransfer.afterReset) ∧
    ((s.berth.phase = .arrival ∨ s.berth.phase = .secured ∨ s.berth.phase = .departure) →
      ∃ u, exec (.resetRequest w 15 straps) s = .next (arbitrate u) ∧
        RefusedRequest (setStraps straps s) u .wrongPhase)

/-- SUPPLY_RISE: the straps are sampled, the retained domain starts with the stow levels of that moment, and
start-up goes on unless a pin reset still holds. The rise carries straps and stow levels by logs 9 and 10,
and opens the pulse filter by log 8. That the stage stays where a pin reset is in force at the rise after a
power-on reset, and that the rise begins a new low period, is the model's choice of log 15: R199 speaks of a
rise that ends a brown-out's condition. -/
def Obligations.SupplyRise : Prop :=
  ∀ (straps : BitVec 6) (stow : BitVec 12) (s : State), s.supply.powered = false →
    ∃ t, exec (.supplyRise straps stow) s = .next t ∧
      (∀ n, t.line n = { s.line n with
        payout := 0, stowMade := stow.getLsbD n.val, lengthUnknown := !(stow.getLsbD n.val),
        pulseAge := 200 }) ∧
      t.bus = { s.bus with base := straps } ∧
      t.supply = { s.supply with
        powered := true, pinTaken := false, straps := straps,
        stage := if s.supply.pinHeld then s.supply.stage else .selfTest } ∧
      t.queue = s.queue ∧ t.scan = s.scan ∧ t.berth = s.berth ∧ t.profile = s.profile ∧
      t.report = s.report

/-- SELF_TEST_END: a pass starts the start-up load at word 0; a failure leaves the berth HALTED with
SELF_TEST_FAILED. -/
def Obligations.SelfTestEnd : Prop :=
  ∀ s : State, s.supply.powered = true → s.supply.stage = .selfTest → s.berth.phase = .starting →
    exec (.selfTestEnd true) s = .next (arbitrate { s with
      supply := { s.supply with stage := .profileLoad }
      profile := { s.profile with load := .loading 0, buffer := [], sum := 0 }
      bus := { s.bus with fetch := some (.image 0) } }) ∧
    ∃ u, exec (.selfTestEnd false) s = .next (arbitrate u) ∧
      u.berth = { s.berth with phase := .halted, silence := none } ∧
      u.profile = { s.profile with outcome := .selfTestFailed } ∧
      u.notice .profileEvent = true ∧ 12 ∈ u.bus.reportLane ∧
      u.supply = s.supply ∧ u.lines = s.lines ∧ u.scan = s.scan ∧ u.queue = s.queue

/-- Word 127 ends the start-up load: the image is activated in the limited form, or the fallback profile
where it is REJECTED; every fitted line is ADOPTING and every other PARKED, the records are empty, plan and
mode taken, the scan stopped, and ADOPT_READ asks for the order word of the lowest fitted line. With no line
fitted the first pass starts. Timers are loaded by log 17. -/
def Obligations.StartUpLoadEnds : Prop :=
  ∀ (v : Word) (j : Nat) (s : State), s.bus.dport = some (.fetch (.image j) false) →
    s.profile.load = .loading 127 → s.supply.stage = .profileLoad → s.berth.phase = .starting →
    let read := s.profile.buffer ++ [v]
    let verdict := firstFailing read (s.profile.sum + v) (mayUnfit s)
    let img := if verdict = none then read else fallbackImage
    let src := if verdict = none then ProfileSource.loaded else .fallback
    let outcome := match verdict with
      | none => ProfileOutcome.activated
      | some i => .rejected i
    ∃ u, exec (.fetchComplete v) s = .next (arbitrate u) ∧
      u.profile = ⟨img, src, .idle, [], 0, some (s.ticksFor 1000), outcome⟩ ∧
      u.notice .profileEvent = true ∧ u.report.divider = 0 ∧
      (s.report.attn = s.anyNotice → u.report.attn = u.anyNotice) ∧
      u.berth.phase = .starting ∧ u.berth.causes = s.berth.causes ∧
      u.berth.present = (if verdict = none then
        s.berth.present &&& ~~~LockdownCause.profileFault.bit else s.berth.present) ∧
      (∀ n, (u.line n).fitted = fittedBit img n ∧ (u.line n).rank = releaseRank img n ∧
        (u.line n).required = requiredFlag img n ∧
        (u.line n).state = (if fittedBit img n then .adopting else .parked) ∧
        (u.line n).ring = [] ∧ (u.line n).cls = .noClass ∧ (u.line n).tension = none ∧
        (u.line n).overRun = 0 ∧ (u.line n).slackRun = 0) ∧
      u.scan.plan = planOf img ∧ u.scan.mode = scanMode img ∧ u.scan.ref = s.scan.ref ∧
      u.scan.refCount = s.scan.refCount ∧ u.bus.orderLane = s.bus.orderLane ∧ u.queue = s.queue ∧
      (∀ n, fittedBit img n = true → (∀ k, k < n → fittedBit img k = false) →
        u.supply = { s.supply with stage := .adoptRead } ∧ u.bus.fetch = some (.orderWord n) ∧
        u.scan.pass = .idle ∧ u.scan.pacing = none) ∧
      ((∀ n, fittedBit img n = false) →
        u.supply = { s.supply with stage := .firstPass } ∧ u.scan.pass = .running 0)

/-- FIRST_PASS ends: with the reference out of its window it enters FAULT, and every record is stale; every
fitted line is derived, with a LOCK of cause ADOPTION for each released brake, in ascending line order; the
berth leaves STARTING, the cause ADOPTION added where a fitted line is not PARKED; RESET_DONE is set and
every record asked for. -/
def Obligations.FirstPassEnds : Prop :=
  ∀ (raw : BitVec 12) (s : State) (p : Nat), s.supply.powered = true → s.supply.stage = .firstPass →
    s.berth.phase = .starting → s.queue = [] → s.scan.pass = .running p →
    s.scan.plan[p]? = some .reference → s.scan.ref = .ok →
    let good := referenceLow s.image ≤ raw.toNat ∧ raw.toNat ≤ referenceHigh s.image
    (good ∨ 1 ≤ s.scan.refCount) →
    let cls := fun n => if good then (s.line n).cls else .noClass
    let away := ∃ n, (s.line n).fitted = true ∧ (s.line n).stowMade = false
    let causes := if good then s.berth.causes else s.berth.causes ||| LockdownCause.senseFault.bit
    ∃ u, exec (.referenceConversionComplete raw) s = .next (arbitrate u) ∧
      u.supply = { s.supply with stage := .done } ∧ u.profile = s.profile ∧
      u.scan = { s.scan with
        ref := if good then .ok else .fault
        refCount := 0
        pass := if s.scan.mode = .continuous then .running 0 else .idle } ∧
      (¬ good → ∀ n, (u.line n).tension = none ∧ (u.line n).cls = .noClass ∧
        (u.line n).overRun = 0 ∧ (u.line n).slackRun = 0 ∧ (u.line n).ring = (s.line n).ring) ∧
      (∀ n, (s.line n).fitted = true →
        ((s.line n).stowMade = true → (u.line n).state = .parked ∧ (u.line n).payout = 0) ∧
        ((s.line n).stowMade = false → (u.line n).payout = (s.line n).payout ∧
          (cls n = .inBand ∨ cls n = .high ∨ cls n = .over → (u.line n).state = .locked) ∧
          (cls n = .slack ∨ cls n = .low ∨ cls n = .noClass → (u.line n).state = .standing)) ∧
        ((s.line n).brakeSet = false → (u.line n).lastPart = some ⟨.lock, .derivation⟩) ∧
        ((s.line n).brakeSet = true → (u.line n).lastPart = (s.line n).lastPart)) ∧
      (∀ n, (s.line n).fitted = false → (u.line n).state = (s.line n).state ∧
        (u.line n).payout = (s.line n).payout ∧ (u.line n).lastPart = (s.line n).lastPart) ∧
      (s.bus.orderLane = [] → u.bus.orderLane =
        (allLines.filter fun n => (s.line n).fitted && !(s.line n).brakeSet).map fun n =>
          ⟨n, composeArgument 0, composeOrder .lock 0⟩) ∧
      (causes = 0 → ¬ away → u.berth.phase = .vacant ∧ u.berth.causes = 0) ∧
      (causes ≠ 0 ∨ away → u.berth.phase = .lockdown ∧ u.notice .lockdownEntered = true ∧
        ∀ n, (u.line n).latch = none) ∧
      (away → u.berth.causes = causes ||| LockdownCause.adoption.bit) ∧
      (¬ away → u.berth.causes = causes) ∧
      u.berth.present = (if good then s.berth.present
        else s.berth.present ||| LockdownCause.senseFault.bit) ∧
      u.notice .resetDone = true ∧ ∀ r : RecId, r ∈ u.bus.reportLane

/-! ### Words of the host: form -/

/-- The fields of an order word and of a group word, and the check of a guarded word. A word is read as the
order of a kind and a tag where it carries that kind code, that tag, other than 0, and zero bits above; a full
write of a group word as the group of a kind and a tag where its check is good, the kind is LOCK, TEND, SLIP or
REWIND, the tag is not 0 and the mask names a line. The order word of a pair carries kind and tag, the screen
mark, zero bits and a good check byte, its argument word the argument in the lower half. -/
def Obligations.OrderWords : Prop :=
  (∀ (w : Word) (n : LineId),
    codeField w = (w.extractLsb' 8 4).toNat ∧ tagField w = w.extractLsb' 12 8 ∧
    byteSum w = w.extractLsb' 0 8 + w.extractLsb' 8 8 + w.extractLsb' 16 8 + w.extractLsb' 24 8 ∧
    (checkGood w = true ↔ byteSum w = 0xC3#8) ∧ groupNames w n = w.getLsbD (20 + n.val)) ∧
  (∀ (w : Word) (k : OrderKind) (t : Tag),
    readOrder w = some (k, t) ↔
      codeField w = k.code ∧ tagField w = t ∧ t ≠ 0 ∧ w.extractLsb' 20 12 = 0) ∧
  (∀ (w : Word) (be : ByteEnables) (k : OrderKind) (t : Tag),
    readGroup w be = some (k, t) ↔
      be = 15 ∧ byteSum w = 0xC3#8 ∧ codeField w = k.code ∧
      (k = .lock ∨ k = .tend ∨ k = .slip ∨ k = .rewind) ∧ tagField w = t ∧ t ≠ 0 ∧
      ∃ n, groupNames w n = true) ∧
  (∀ (k : OrderKind) (t : Tag) (v : Nat),
    codeField (composeOrder k t) = k.code ∧ tagField (composeOrder k t) = t ∧
    (composeOrder k t).extractLsb' 20 12 = 0x800#12 ∧
    byteSum (composeOrder k t) = 0xC3#8 ∧
    (composeArgument v).extractLsb' 0 16 = BitVec.ofNat 16 v ∧
    (composeArgument v).extractLsb' 16 16 = 0)

/-- An order word of good form is screened from the fitted check on; so is a group word of good form for
each line it names, in ascending order. -/
def Obligations.OrdersScreened : Prop :=
  (∀ i n w k t s, OrderRow i n w 15 → s.takesWords → checkGood w = true → readOrder w = some (k, t) →
    exec i s = .next (arbitrate (screen n k t .hostWord (hostActivity s)))) ∧
  (∀ i w k t s, GroupRow i w 15 → s.takesWords → readGroup w 15 = some (k, t) →
    exec i s = .next (arbitrate (allLines.foldl
      (fun u n => if groupNames w n then screen n k t .groupWord u else u) (hostActivity s))))

/-- ARGUMENT_WORD_WRITE: a full write with a zero upper half loads the latch with the lower half, any other
write empties it; the write is host activity and does nothing else. Timers are loaded by log 17. -/
def Obligations.ArgumentWordLatches : Prop :=
  ∀ (n : LineId) (w : Word) (be : ByteEnables) (s : State), s.takesWords →
    exec (.argumentWordWrite n w be) s = .next (arbitrate
      (modLine n (fun l => { l with
        latch := if be = 15 ∧ w.extractLsb' 16 16 = 0 then some ⟨(w.extractLsb' 0 16).toNat, 0⟩
          else none })
        { s with berth := { s.berth with
          silence := s.berth.silence.map fun _ => s.ticksFor (hostSilenceTime s.image) } }))

/-- A partial order word is refused with PARTIAL_WRITE, one with a bad check with BAD_CHECK, one with a
bad kind, tag 0 or a bit outside its fields with BAD_KIND; tag and kind are recorded as absent and the
latch is kept. -/
def Obligations.WordFormRefusals : Prop :=
  ∀ (i : Instr) (n : LineId) (w : Word) (be : ByteEnables) (s : State), OrderRow i n w be →
    s.takesWords →
    (be ≠ 15 → ∃ u, exec i s = .next (arbitrate u) ∧
      RefusedOrder s u n none .partialWrite (s.line n).latch) ∧
    (be = 15 → byteSum w ≠ 0xC3#8 → ∃ u, exec i s = .next (arbitrate u) ∧
      RefusedOrder s u n none .badCheck (s.line n).latch) ∧
    (be = 15 → byteSum w = 0xC3#8 →
      (codeField w = 0 ∨ 9 ≤ codeField w ∨ tagField w = 0 ∨ w.extractLsb' 20 12 ≠ 0) →
      ∃ u, exec i s = .next (arbitrate u) ∧ RefusedOrder s u n none .badKind (s.line n).latch)

/-- A group word that is partial, fails its check, is of another kind than LOCK, TEND, SLIP and REWIND,
carries tag 0 or names no line is dropped as a whole with GROUP_REFUSED and the berth record alone; in
STARTING and HALTED every group word is dropped without a notice. -/
def Obligations.GroupWordDropped : Prop :=
  ∀ (i : Instr) (w : Word) (be : ByteEnables) (s : State), GroupRow i w be →
    (s.takesWords →
      (be ≠ 15 ∨ byteSum w ≠ 0xC3#8 ∨ codeField w ∉ [1, 3, 5, 6] ∨ tagField w = 0 ∨
        ∀ n, groupNames w n = false) →
      ∃ u, exec i s = .next (arbitrate u) ∧ u.notice .groupRefused = true ∧
        (∀ k, k ≠ .groupRefused → u.notice k = s.notice k) ∧ u.lines = s.lines ∧ u.queue = s.queue ∧
        u.bus.orderLane = s.bus.orderLane ∧
        (s.notice .groupRefused = false → 12 ∈ u.bus.reportLane) ∧
        (∀ n : LineId, n.castSucc ∈ u.bus.reportLane ↔ n.castSucc ∈ s.bus.reportLane) ∧
        u.berth = (hostActivity s).berth ∧
        u.scan = s.scan ∧ u.profile = s.profile ∧ u.supply = s.supply) ∧
    (s.supply.powered = true → s.uwait = false → s.berth.phase.silent = true →
      exec i s = .next (arbitrate s))

/-! ### Screening -/

/-- The phases that allow each kind, and what each state allows, row by row as the manual's tables. -/
def Obligations.AllowanceTables : Prop :=
  (∀ (k : OrderKind) (p : Phase), phaseAllows k p = true ↔ p ∈ (match k with
    | .lock | .restate => [Phase.vacant, .arrival, .secured, .departure, .lockdown]
    | .haul | .ease => [.arrival, .secured]
    | .tend => [.secured]
    | .slip => [.departure]
    | .rewind | .park => [.vacant, .arrival, .departure])) ∧
  (∀ (k : OrderKind) (p : Phase) (stowed : Bool) (st : LineState),
    stateAllows k p stowed st = match st, k with
    | .parked, .ease => if p = .arrival then .pass else .no .wrongState
    | .paying _, .lock | .paying _, .haul => .pass
    | .paying _, .slip => .hold
    | .standing, .lock | .standing, .haul | .standing, .ease => .pass
    | .standing, .slip => .hold
    | .standing, .rewind => if p = .vacant ∨ p = .arrival then .pass else .no .wrongState
    | .standing, .park | .slack, .park => if stowed then .pass else .no .notStowed
    | .hauling _, .lock | .hauling _, .tend => .pass
    | .hauling _, .slip => .hold
    | .locked, .lock | .locked, .haul | .locked, .tend | .locked, .ease => .pass
    | .locked, .slip => .hold
    | .tending, .lock | .tending, .haul | .tending, .ease => .pass
    | .tending, .slip => .hold
    | .rendering _ _, .lock => .no .renderActive
    | .slipping, .lock => .pass
    | .slipping, .rewind => .hold
    | .slack, .lock | .slack, .rewind => .pass
    | .rewinding, .lock => .pass
    | .faulted _, .lock | .faulted _, .restate => .pass
    | _, _ => .no .wrongState)

/-- An order written again under its line's last tag and kind changes nothing, whatever its outcome was;
its write is host activity. -/
def Obligations.RepeatedOrderChangesNothing : Prop :=
  ∀ (i : Instr) (n : LineId) (k : OrderKind) (t : Tag) (o : Origin) (s : State), Carries i n k t o →
    s.takesWords → (s.line n).fitted = true → (s.line n).lastHost.order = some (t, k) →
    exec i s = .next (arbitrate (hostActivity s)) ∧
    hostActivity s = { s with berth := { s.berth with silence := (hostActivity s).berth.silence } }

/-- The refusals of a new order at the fitted check, the fallback restriction, phase allowance and state
allowance, each when the steps before it let the order go on; a HAUL or EASE empties the latch. -/
def Obligations.ScreeningRefusals : Prop :=
  ∀ (i : Instr) (n : LineId) (k : OrderKind) (t : Tag) (o : Origin) (s : State), Carries i n k t o →
    s.takesWords →
    let refused := fun r => ∃ u, exec i s = .next (arbitrate u) ∧ RefusedOrder s u n (some (t, k)) r
      (if k = .haul ∨ k = .ease then none else (s.line n).latch)
    let restricted := s.profile.source = .fallback ∧ k ∈ [OrderKind.haul, .tend, .ease, .slip]
    ((s.line n).fitted = false → refused .notFitted) ∧
    ((s.line n).fitted = true → (s.line n).lastHost.order ≠ some (t, k) →
      (restricted → refused .fallbackProfile) ∧
      (¬ restricted → phaseAllows k s.berth.phase = false → refused .wrongPhase) ∧
      (¬ restricted → phaseAllows k s.berth.phase = true →
        ∀ r, stateAllows k s.berth.phase
          (decide ((s.line n).payout = 0) && (s.line n).stowMade) (s.line n).state = .no r →
          refused r))

/-- A HAUL or EASE that reaches the argument step with a stale latch is refused with ARGUMENT_STALE, with
a value out of range with ARGUMENT_RANGE; a SLIP or REWIND to hold that meets a full queue without an
entry of its line is refused with QUEUE_FULL. -/
def Obligations.ArgumentAndQueueRefusals : Prop :=
  ∀ (i : Instr) (n : LineId) (k : OrderKind) (t : Tag) (o : Origin) (s : State), Carries i n k t o →
    s.takesWords → (s.line n).fitted = true → (s.line n).lastHost.order ≠ some (t, k) →
    ¬ (s.profile.source = .fallback ∧ k ∈ [OrderKind.haul, .tend, .ease, .slip]) →
    phaseAllows k s.berth.phase = true →
    let allowance := stateAllows k s.berth.phase (decide ((s.line n).payout = 0) && (s.line n).stowMade)
      (s.line n).state
    (k = .haul ∨ k = .ease → allowance = .pass →
      ((∀ x, (s.line n).latch = some x → argumentFreshness s.image < x.age) →
        ∃ u, exec i s = .next (arbitrate u) ∧ RefusedOrder s u n (some (t, k)) .argumentStale none) ∧
      (∀ x, (s.line n).latch = some x → x.age ≤ argumentFreshness s.image →
        (k = .haul ∧ (x.value < bandMin s.image n ∨ bandMax s.image n < x.value) ∨
         k = .ease ∧ (x.value < 1 ∨ 4000 < x.value ∨ (s.line n).lengthUnknown = true ∨
           maxPayout s.image n < (s.line n).payout + x.value)) →
        ∃ u, exec i s = .next (arbitrate u) ∧
          RefusedOrder s u n (some (t, k)) .argumentRange none)) ∧
    (allowance = .hold → 8 ≤ s.queue.length → s.entry n = none →
      ∃ u, exec i s = .next (arbitrate u) ∧
        RefusedOrder s u n (some (t, k)) .queueFull (s.line n).latch)

/-! ### Orders passed and held -/

/-- LOCK and GROUP_LOCK in a state that allows them: the state of the effect table, the pair, the verdict;
nothing of the berth but host activity, nothing of a line without a hold entry. The brake-settle timer is loaded
by log 17. -/
def Obligations.LockPasses : Prop :=
  ∀ (i : Instr) (n : LineId) (t : Tag) (o : Origin) (s : State), Carries i n .lock t o →
    s.takesWords → (s.line n).Sound → (s.line n).fitted = true →
    (s.line n).lastHost.order ≠ some (t, .lock) →
    (s.line n).state ≠ .adopting → (s.line n).state ≠ .parked →
    (∀ r x, (s.line n).state ≠ .rendering r x) →
    ∃ u, exec i s = .next (arbitrate u) ∧ PassedOrder s u n .lock t 0 ∧
      u.berth = (hostActivity s).berth ∧ (u.line n).Rests ∧
      let taken := (s.line n).cls = .inBand ∨ (s.line n).cls = .high ∨ (s.line n).cls = .over
      match (s.line n).state with
      | .rewinding | .slack => (u.line n).state = .slack
      | .faulted r => (u.line n).state = .faulted r
      | .slipping => ((s.line n).cls = .slack → (u.line n).state = .slack) ∧
          (taken → (u.line n).state = .locked) ∧
          ((s.line n).cls = .low ∨ (s.line n).cls = .noClass → (u.line n).state = .standing)
      | _ => (taken → (u.line n).state = .locked) ∧ (¬ taken → (u.line n).state = .standing)

/-- HAUL with a fresh argument inside the band: HAULING toward it, the haul timer loaded, no run counter,
the latch emptied. Timers are loaded by log 17. -/
def Obligations.HaulPasses : Prop :=
  ∀ (i : Instr) (n : LineId) (t : Tag) (o : Origin) (s : State) (x : Latch), Carries i n .haul t o →
    s.takesWords → (s.line n).fitted = true → (s.line n).lastHost.order ≠ some (t, .haul) →
    s.profile.source = .loaded → (s.berth.phase = .arrival ∨ s.berth.phase = .secured) →
    ((∃ v, (s.line n).state = .paying v) ∨ (s.line n).state = .standing ∨
      (s.line n).state = .locked ∨ (s.line n).state = .tending) →
    (s.line n).latch = some x → x.age ≤ argumentFreshness s.image →
    bandMin s.image n ≤ x.value → x.value ≤ bandMax s.image n →
    ∃ u, exec i s = .next (arbitrate u) ∧ PassedOrder s u n .haul t x.value ∧
      u.berth = (hostActivity s).berth ∧ (u.line n).state = .hauling x.value ∧
      (u.line n).haul = some (s.ticksFor (haulLimit s.image)) ∧ (u.line n).run = none ∧
      (u.line n).stall = none ∧ (u.line n).slip = none

/-- TEND and GROUP_TEND in SECURED for a HAULING or LOCKED line: TENDING, the haul timer stopped. The
brake-settle timer is loaded by log 17. -/
def Obligations.TendPasses : Prop :=
  ∀ (i : Instr) (n : LineId) (t : Tag) (o : Origin) (s : State), Carries i n .tend t o →
    s.takesWords → (s.line n).fitted = true → (s.line n).lastHost.order ≠ some (t, .tend) →
    s.profile.source = .loaded → s.berth.phase = .secured →
    ((∃ v, (s.line n).state = .hauling v) ∨ (s.line n).state = .locked) →
    ∃ u, exec i s = .next (arbitrate u) ∧ PassedOrder s u n .tend t 0 ∧
      u.berth = (hostActivity s).berth ∧ (u.line n).state = .tending ∧ (u.line n).Rests

/-- EASE with a fresh argument in range: PAYING it out, run counter and stall timer loaded, the latch
emptied. Timers are loaded by log 17. -/
def Obligations.EasePasses : Prop :=
  ∀ (i : Instr) (n : LineId) (t : Tag) (o : Origin) (s : State) (x : Latch), Carries i n .ease t o →
    s.takesWords → (s.line n).fitted = true → (s.line n).lastHost.order ≠ some (t, .ease) →
    s.profile.source = .loaded → (s.berth.phase = .arrival ∨ s.berth.phase = .secured) →
    ((s.line n).state = .parked ∧ s.berth.phase = .arrival ∨ (s.line n).state = .standing ∨
      (s.line n).state = .locked ∨ (s.line n).state = .tending) →
    (s.line n).latch = some x → x.age ≤ argumentFreshness s.image →
    1 ≤ x.value → x.value ≤ 4000 → (s.line n).payout + x.value ≤ maxPayout s.image n →
    (s.line n).lengthUnknown = false →
    ∃ u, exec i s = .next (arbitrate u) ∧ PassedOrder s u n .ease t x.value ∧
      u.berth = (hostActivity s).berth ∧ (u.line n).state = .paying x.value ∧
      (u.line n).run = some ⟨x.value, x.value⟩ ∧
      (u.line n).stall = some (s.ticksFor (stallTime s.image)) ∧
      (u.line n).haul = none ∧ (u.line n).slip = none

/-- PARK for a stowed STANDING or SLACK line: PARKED with a cleared creep count; in DEPARTURE the berth
becomes VACANT when every fitted line is then PARKED, with entries in the hold queue or without. The
brake-settle timer is loaded by log 17. -/
def Obligations.ParkPasses : Prop :=
  ∀ (i : Instr) (n : LineId) (t : Tag) (o : Origin) (s : State), Carries i n .park t o →
    s.takesWords → (s.line n).fitted = true → (s.line n).lastHost.order ≠ some (t, .park) →
    (s.berth.phase = .vacant ∨ s.berth.phase = .arrival ∨ s.berth.phase = .departure) →
    ((s.line n).state = .standing ∨ (s.line n).state = .slack) →
    (s.line n).payout = 0 → (s.line n).stowMade = true →
    ∃ u, exec i s = .next (arbitrate u) ∧ PassedOrder s u n .park t 0 ∧
      (u.line n).state = .parked ∧ (u.line n).Rests ∧ (u.line n).creep = 0 ∧
      VacatesBy s u (hostActivity s).berth

/-- REWIND and GROUP_REWIND that pass: REWINDING with the payout count to run and the stall timer loaded, or
with no run counter where the length is unknown; a count of 0 is a run complete at once, PARKED with the
stow switch made or its stow made come together with the word (log 27), and FAULTED with STOW_MISMATCH
otherwise; in DEPARTURE the berth becomes VACANT when that leaves every fitted line PARKED. Timers are
loaded by log 17; the run complete at once is judged by log 20. -/
def Obligations.RewindPasses : Prop :=
  ∀ (i : Instr) (n : LineId) (t : Tag) (o : Origin) (s : State), Carries i n .rewind t o →
    s.takesWords → (s.line n).Sound → (s.line n).fitted = true →
    (s.line n).lastHost.order ≠ some (t, .rewind) →
    ((s.line n).state = .standing ∧ (s.berth.phase = .vacant ∨ s.berth.phase = .arrival) ∨
     (s.line n).state = .slack ∧ (s.berth.phase = .vacant ∨ s.berth.phase = .arrival ∨
       s.berth.phase = .departure)) →
    ∃ u, exec i s = .next (arbitrate u) ∧
      (u.line n).lastHost = ⟨some (t, .rewind), some .passed, (s.entry n).map (·.tag)⟩ ∧
      u.entry n = none ∧ (s.line n).KeptByOrder (u.line n) ∧ TakenIn s (s.line n) (u.line n) ∧
      (∀ m, m ≠ n → s.entry m = none → u.line m = s.line m) ∧
      VacatesBy s u (hostActivity s).berth ∧
      ((s.line n).lengthUnknown = true ∨ (s.line n).payout ≠ 0 →
        PassedOrder s u n .rewind t 0 ∧ u.berth = (hostActivity s).berth ∧
        (u.line n).state = .rewinding ∧
        (u.line n).stall = some (s.ticksFor (stallTime s.image)) ∧
        (u.line n).run = if (s.line n).lengthUnknown then none
          else some ⟨(s.line n).payout, (s.line n).payout⟩) ∧
      ((s.line n).lengthUnknown = false → (s.line n).payout = 0 →
        (s.line n).stowMade = true ∨ s.StowComes n →
        (u.line n).state = .parked ∧ (u.line n).lastPart = some ⟨.park, .runComplete⟩ ∧
        (u.line n).Rests ∧ ⟨n, composeArgument 0, composeOrder .park 0⟩ ∈ u.bus.orderLane) ∧
      ((s.line n).lengthUnknown = false → (s.line n).payout = 0 → (s.line n).stowMade = false →
        ¬ s.StowComes n →
        (u.line n).state = .faulted .stowMismatch ∧ (u.line n).notice = true ∧ (u.line n).Rests ∧
        (u.line n).lastPart = some ⟨.lock, .stowMismatch⟩ ∧
        ⟨n, composeArgument 0, composeOrder .lock 0⟩ ∈ u.bus.orderLane)

/-- SLIP, and REWIND for a SLIPPING line, by host word or group word, with an entry of the line or a free
place: HELD with its gates, stage and deadline; no state, no pair. A new entry joins at the tail; an entry of
the line is replaced in its place, its tag recorded as superseded and the line's notice set. A SLIP with its
three gates open asks for its probe, which waits while another probe runs. Timers are loaded by log 17; the
start of a probe is marked by log 18. -/
def Obligations.OrdersHeld : Prop :=
  ∀ (i : Instr) (n : LineId) (k : HeldKind) (t : Tag) (o : Origin) (s : State), Carries i n k.order t o →
    s.takesWords → (s.line n).fitted = true → (s.line n).lastHost.order ≠ some (t, k.order) →
    (match k with
      | .slip => s.profile.source = .loaded ∧ s.berth.phase = .departure ∧
          ((∃ v, (s.line n).state = .paying v) ∨ (s.line n).state = .standing ∨
            (∃ v, (s.line n).state = .hauling v) ∨ (s.line n).state = .locked ∨
            (s.line n).state = .tending)
      | .rewind => (s.berth.phase = .vacant ∨ s.berth.phase = .arrival ∨
          s.berth.phase = .departure) ∧ (s.line n).state = .slipping) →
    ((∃ e, s.entry n = some e) ∨ s.queue.length < 8) →
    ∃ u e, exec i s = .next (arbitrate u) ∧ u.entry n = some e ∧
      e.kind = k ∧ e.tag = t ∧ e.origin = o ∧ e.failed = false ∧
      (match k with
        | .slip =>
          s.Closed n e.closed ∧ (s.Open n → e.stage = .probing ∧ AsksProbe s u n) ∧
          (¬ s.Open n → e.stage = .waiting ∧ u.scan = s.scan ∧
            (u.line n).probeWaiting = (s.line n).probeWaiting) ∧
          (e.probeBegun = true ↔ s.Open n ∧ ∀ m r, s.scan.pass ≠ .probing m r) ∧
          e.deadline = s.ticksFor (slipHoldLimit s.image)
        | .rewind => e.closed = ⟨false, false, false, false, true⟩ ∧ e.stage = .waiting ∧
          e.deadline = s.ticksFor (rewindHoldLimit s.image) ∧ u.scan = s.scan) ∧
      (u.line n).lastHost = ⟨some (t, k.order), some .held, (s.entry n).map (·.tag)⟩ ∧
      (u.line n).state = (s.line n).state ∧ (u.line n).latch = (s.line n).latch ∧
      (s.line n).KeptByOrder (u.line n) ∧ u.bus.orderLane = s.bus.orderLane ∧
      (∀ m, m ≠ n → u.line m = s.line m ∧ u.entry m = s.entry m) ∧
      u.queue = (if (s.entry n).isSome then s.queue.map fun x => if x.line = n then e else x
        else s.queue ++ [e]) ∧
      (u.line n).notice = ((s.line n).notice || (s.entry n).isSome) ∧
      n.castSucc ∈ u.bus.reportLane ∧ (s.entry n = none → 12 ∈ u.bus.reportLane) ∧
      u.berth = (hostActivity s).berth ∧ u.profile = s.profile ∧ u.supply = s.supply ∧
      u.report.notices = s.report.notices

/-- One judgement of the hold queue: no entry, or a REWIND whose line is not SLACK, changes nothing; a REWIND
whose line is SLACK is forwarded; a SLIP takes its closed gates, goes to PROBING and puts its request into the
probe set where all three are open and the mark is clear, and goes back to WAITING with the mark cleared where
one is closed. A walk judges each entry, oldest first; walks follow one another until one forwards nothing;
then the requests are taken together, the lowest line first (log 32). A change of a line's state is handed on
by this re-evaluation, by the line's record and by the change from DEPARTURE to VACANT. Timers are loaded by
log 17; the start of a probe is marked by log 18; a forwarded REWIND of payout count 0 is a run complete at
once by log 20, and finds a stow made that comes together with the command by log 27; the order of the last
two steps of the hand-on is log 23. -/
def Obligations.HoldQueueReevaluated : Prop :=
  (∀ (n : LineId) (s : State), s.entry n = none → judgeEntry n s = s) ∧
  (∀ (n : LineId) (e : Entry) (s : State), s.entry n = some e → e.kind = .rewind →
    ((s.line n).state ≠ .slack → judgeEntry n s = s) ∧
    ((s.line n).state = .slack → Forwarded e s (judgeEntry n s))) ∧
  (∀ (n : LineId) (e : Entry) (s : State), s.entry n = some e → e.kind = .slip →
    let t := judgeEntry n s
    ∃ g, s.Closed n g ∧
      (s.Open n → e.stage = .waiting → e.failed = false →
        t.line n = { s.line n with probeWaiting := true } ∧
        t.entry n = some { e with closed := g, stage := .probing, probeBegun := false }) ∧
      (s.Open n → e.stage = .probing ∨ e.failed = true →
        t.entry n = some { e with closed := g } ∧ t.line n = s.line n) ∧
      (¬ s.Open n → t.line n = s.line n ∧ t.entry n = some { e with
        closed := g, stage := .waiting, failed := false, probeBegun := false }) ∧
      (∀ m, m ≠ n → t.line m = s.line m ∧ t.entry m = s.entry m) ∧ t.scan = s.scan ∧
      t.line n = { s.line n with probeWaiting := (t.line n).probeWaiting } ∧
      t.bus.orderLane = s.bus.orderLane ∧ t.berth = s.berth ∧ t.profile = s.profile ∧
      t.supply = s.supply ∧ t.queue.length = s.queue.length ∧
      (t.entry n ≠ some e → s.berth.phase.silent = false →
        (t.entry n).map (·.stage) ≠ some e.stage ∨ g ≠ e.closed →
        n.castSucc ∈ t.bus.reportLane)) ∧
  (∀ s : State,
    let walk := (s.queue.map (·.line)).foldl (fun t n => judgeEntry n t) s
    rewalk s = if walk.queue.length < s.queue.length then rewalk walk else walk) ∧
  (∀ s : State, reevaluate s = takeProbes (rewalk s) ∧ ProbesTaken s (takeProbes s)) ∧
  (∀ (n : LineId) (s : State),
    let r := reevaluate s
    let u := settle n s
    u.lines = r.lines ∧ u.queue = r.queue ∧ u.bus.orderLane = r.bus.orderLane ∧ u.scan = r.scan ∧
      u.profile = r.profile ∧ u.supply = r.supply ∧
      (s.berth.phase.silent = false → n.castSucc ∈ u.bus.reportLane) ∧
      (r.berth.phase = .departure → (∀ m, (r.line m).fitted = true → (r.line m).state = .parked) →
        u.berth = { r.berth with phase := .vacant, silence := none }) ∧
      (r.berth.phase ≠ .departure ∨ (∃ m, (r.line m).fitted = true ∧ (r.line m).state ≠ .parked) →
        u.berth = r.berth))

/-- RESTATE for a FAULTED line: derived from brake, stow switch and latest tension record; a LOCK of cause
ADOPTION for a released brake and no other pair; in DEPARTURE the berth becomes VACANT when that leaves every
fitted line PARKED. Timers are loaded by log 17. -/
def Obligations.RestateDerives : Prop :=
  ∀ (i : Instr) (n : LineId) (t : Tag) (o : Origin) (s : State) (r : FaultReason),
    Carries i n .restate t o → s.takesWords → (s.line n).fitted = true →
    (s.line n).lastHost.order ≠ some (t, .restate) → (s.line n).state = .faulted r →
    ∃ u, exec i s = .next (arbitrate u) ∧
      (u.line n).lastHost = ⟨some (t, .restate), some .passed, (s.entry n).map (·.tag)⟩ ∧
      u.entry n = none ∧ TakenIn s (s.line n) (u.line n) ∧
      ((s.line n).stowMade = true → (u.line n).state = .parked ∧ (u.line n).payout = 0) ∧
      ((s.line n).stowMade = false → (u.line n).payout = (s.line n).payout ∧
        ((s.line n).cls = .inBand ∨ (s.line n).cls = .high ∨ (s.line n).cls = .over →
          (u.line n).state = .locked) ∧
        ((s.line n).cls = .slack ∨ (s.line n).cls = .low ∨ (s.line n).cls = .noClass →
          (u.line n).state = .standing)) ∧
      ((s.line n).brakeSet = false → (u.line n).lastPart = some ⟨.lock, .derivation⟩ ∧
        ⟨n, composeArgument 0, composeOrder .lock 0⟩ ∈ u.bus.orderLane) ∧
      ((s.line n).brakeSet = true → (u.line n).lastPart = (s.line n).lastPart ∧
        ∀ e : LaneEntry, e.line = n → (e ∈ u.bus.orderLane ↔ e ∈ s.bus.orderLane)) ∧
      (∀ m, m ≠ n → s.entry m = none → u.line m = s.line m) ∧
      VacatesBy s u (hostActivity s).berth ∧
      u.profile = s.profile ∧ u.supply = s.supply ∧ u.report.notices = s.report.notices

/-! ### Berth requests and lockdown -/

/-- The accepted pairings of VACANT, ARRIVAL, SECURED and DEPARTURE requests with their conditions: the
phase, the host-silence timer, the berth record asked for, the flush on the way back to SECURED; nothing
else, and no berth notice. Timers are loaded by log 17. -/
def Obligations.RequestsAccepted : Prop :=
  ∀ (i : Instr) (w : Word) (q : Request) (s : State), RequestRow i w 15 → s.takesWords →
    readRequest w 15 = some q →
    let accepted := fun p silence => ∃ u, exec i s = .next (arbitrate u) ∧
      u.berth = { s.berth with phase := p, silence := silence } ∧ u.lines = s.lines ∧
      u.queue = s.queue ∧ u.bus.orderLane = s.bus.orderLane ∧ u.scan = s.scan ∧
      u.profile = s.profile ∧ u.supply = s.supply ∧ u.report = s.report ∧ 12 ∈ u.bus.reportLane
    let fresh := s.ticksFor (hostSilenceTime s.image)
    (q = .arrival → s.berth.phase = .vacant → s.profile.source = .loaded → s.profile.load = .idle →
      accepted .arrival (some fresh)) ∧
    (q = .arrival → s.berth.phase = .secured →
      accepted .arrival (s.berth.silence.map fun _ => fresh)) ∧
    (q = .secured → s.berth.phase = .arrival →
      (∀ n, (s.line n).fitted = true → (s.line n).required = true →
        (s.line n).state = .locked ∨ (s.line n).state = .tending) →
      accepted .secured (s.berth.silence.map fun _ => fresh)) ∧
    (q = .departure → s.berth.phase = .secured →
      accepted .departure (s.berth.silence.map fun _ => fresh)) ∧
    (q = .vacant → s.berth.phase = .arrival ∨ s.berth.phase = .departure →
      (∀ n, (s.line n).fitted = true → (s.line n).state = .parked) → accepted .vacant none) ∧
    (q = .secured → s.berth.phase = .departure → s.Sound →
      (∀ n, (s.line n).fitted = true → (s.line n).state ≠ .slipping ∧ (s.line n).state ≠ .slack ∧
        (s.line n).state ≠ .rewinding) →
      ∃ u, exec i s = .next (arbitrate u) ∧ u.queue = [] ∧
        u.berth = { s.berth with phase := .secured, silence := s.berth.silence.map fun _ => fresh } ∧
        (∀ n e, s.entry n = some e → u.line n = { s.line n with
          lastHost := ⟨some (e.tag, e.kind.order), some .flushed, (s.line n).lastHost.superseded⟩,
          notice := true }) ∧
        (∀ n, s.entry n = none → u.line n = s.line n) ∧ u.bus.orderLane = s.bus.orderLane ∧
        12 ∈ u.bus.reportLane ∧ (∀ n e, s.entry n = some e → n.castSucc ∈ u.bus.reportLane) ∧
        u.scan = s.scan ∧ u.profile = s.profile ∧ u.supply = s.supply ∧
        u.report.notices = s.report.notices)

/-- A word is read as a request where it is written whole, its check is good, the confirm field is the
complement of the code, the bits above are zero and the code is that of the request, 1 to 7. A request of bad
form, one whose pairing with the phase the manual does not list, and one whose condition fails are refused
with BAD_REQUEST, WRONG_PHASE and NOT_READY, and change nothing else. `v` is the part as the row finds it: a
RESET_REQUEST row shows its strap levels first (log 10). -/
def Obligations.RequestsRefused : Prop :=
  (∀ (w : Word) (be : ByteEnables) (q : Request), readRequest w be = some q ↔
    be = 15 ∧ byteSum w = 0xC3#8 ∧ (w.extractLsb' 12 4).toNat = 15 - codeField w ∧
    w.extractLsb' 16 16 = 0 ∧ (q, codeField w) ∈ [(Request.vacant, 1), (.arrival, 2), (.secured, 3),
      (.departure, 4), (.lockdown, 5), (.resume, 6), (.reset, 7)]) ∧
  ∀ (i : Instr) (w : Word) (be : ByteEnables) (s v : State), s.takesWords →
    (RequestRow i w be ∧ v = s ∨ ∃ straps, i = .resetRequest w be straps ∧ v = setStraps straps s) →
    let refused := fun r => ∃ u, exec i s = .next (arbitrate u) ∧ RefusedRequest v u r
    ((be ≠ 15 ∨ byteSum w ≠ 0xC3#8 ∨ (w.extractLsb' 12 4).toNat ≠ 15 - codeField w ∨
      codeField w = 0 ∨ 8 ≤ codeField w ∨ w.extractLsb' 16 16 ≠ 0) → refused .badRequest) ∧
    (∀ q, readRequest w be = some q →
      ((q, s.berth.phase) ∉ [(Request.arrival, Phase.vacant), (.secured, .arrival),
        (.vacant, .arrival), (.departure, .secured), (.arrival, .secured), (.secured, .departure),
        (.vacant, .departure), (.lockdown, .vacant), (.lockdown, .arrival), (.lockdown, .secured),
        (.lockdown, .departure), (.lockdown, .lockdown), (.resume, .lockdown), (.reset, .vacant),
        (.reset, .lockdown)] → refused .wrongPhase) ∧
      (q = .arrival → s.berth.phase = .vacant →
        s.profile.source = .fallback ∨ s.profile.load ≠ .idle → refused .notReady) ∧
      (q = .secured → s.berth.phase = .arrival →
        (∃ n, (s.line n).fitted = true ∧ (s.line n).required = true ∧ (s.line n).state ≠ .locked ∧
          (s.line n).state ≠ .tending) → refused .notReady) ∧
      (q = .vacant → s.berth.phase = .arrival ∨ s.berth.phase = .departure →
        (∃ n, (s.line n).fitted = true ∧ (s.line n).state ≠ .parked) → refused .notReady) ∧
      (q = .secured → s.berth.phase = .departure →
        (∃ n, (s.line n).fitted = true ∧ ((s.line n).state = .slipping ∨ (s.line n).state = .slack ∨
          (s.line n).state = .rewinding)) → refused .notReady) ∧
      (q = .resume → s.berth.phase = .lockdown →
        s.berth.present ≠ 0 ∨ s.profile.load ≠ .idle → refused .notReady))

/-- LOCKDOWN is entered from VACANT, ARRIVAL, SECURED and DEPARTURE by a LOCKDOWN request, by a
host-silence expiry and by a supply warning after stage RESET, each with its cause; in LOCKDOWN the request
adds its cause and changes no line. That an accepted request sets LOCKDOWN_ENTERED, in LOCKDOWN where its cause
is new, is the model's choice of log 33. Timers are loaded by log 17; an expiry command is taken by log 3. -/
def Obligations.LockdownEntered : Prop :=
  (∀ s : State, s.supply.powered = true → s.Sound →
    (s.berth.phase = .vacant ∨ s.berth.phase = .arrival ∨ s.berth.phase = .secured ∨
      s.berth.phase = .departure) →
    (∀ i w, RequestRow i w 15 → s.takesWords → readRequest w 15 = some .lockdown →
      ∃ u, exec i s = .next (arbitrate u) ∧ EnteredLockdown .hostRequest s u ∧
        (∀ k, k ≠ .lockdownEntered → u.notice k = s.notice k) ∧
        u.berth.present = s.berth.present ∧ u.supply = s.supply) ∧
    (s.berth.silence = some 0 →
      ∃ u, exec (.hostSilenceExpiry 0) s = .next (arbitrate { u with atTick := false }) ∧
        EnteredLockdown .hostSilent { s with atTick := true } u ∧
        (∀ k, k ≠ .lockdownEntered → u.notice k = s.notice k) ∧
        u.berth.present = s.berth.present ∧ u.supply = s.supply) ∧
    (s.supply.live = false → s.supply.stage ≠ .reset →
      ∃ u, exec .supplyWarning s = .next (arbitrate u) ∧ EnteredLockdown .supplyLow s u ∧
        u.berth.present = s.berth.present ||| LockdownCause.supplyLow.bit ∧
        u.supply = { s.supply with live := true, latched := true } ∧
        u.notice .supplyWarning = true ∧
        ∀ k, k ≠ .lockdownEntered → k ≠ .supplyWarning → u.notice k = s.notice k)) ∧
  (∀ i w s, RequestRow i w 15 → s.takesWords → readRequest w 15 = some .lockdown →
    s.berth.phase = .lockdown →
    ∃ u, exec i s = .next (arbitrate u) ∧
      u.berth = { (hostActivity s).berth with
        causes := s.berth.causes ||| LockdownCause.hostRequest.bit } ∧
      u.lines = s.lines ∧ u.queue = s.queue ∧ u.bus.orderLane = s.bus.orderLane ∧
      (∀ k, k ≠ .lockdownEntered → u.notice k = s.notice k) ∧
      (s.berth.causes.has .hostRequest = false → u.notice .lockdownEntered = true) ∧
      (s.berth.causes.has .hostRequest = true → u.report = s.report))

/-- RESUME with no cause still present and no load in flight: both sets emptied, VACANT where every
fitted line is PARKED and SECURED otherwise; no line and no notice changes. With a cause still present or
a load in flight it is refused with NOT_READY and both sets stay. -/
def Obligations.ResumeEndsLockdown : Prop :=
  ∀ (i : Instr) (w : Word) (s : State), RequestRow i w 15 → s.takesWords →
    readRequest w 15 = some .resume → s.berth.phase = .lockdown →
    (s.berth.present = 0 → s.profile.load = .idle →
      ∃ u, exec i s = .next (arbitrate u) ∧ u.berth.causes = 0 ∧ u.berth.present = 0 ∧
        u.berth.refusal = s.berth.refusal ∧ u.lines = s.lines ∧ u.queue = s.queue ∧
        u.bus.orderLane = s.bus.orderLane ∧ u.scan = s.scan ∧ u.profile = s.profile ∧
        u.supply = s.supply ∧ u.report = s.report ∧ 12 ∈ u.bus.reportLane ∧
        ((∀ n, (s.line n).fitted = true → (s.line n).state = .parked) →
          u.berth.phase = .vacant ∧ u.berth.silence = none) ∧
        ((∃ n, (s.line n).fitted = true ∧ (s.line n).state ≠ .parked) →
          u.berth.phase = .secured ∧ u.berth.silence.isSome = true)) ∧
    (s.berth.present ≠ 0 ∨ s.profile.load ≠ .idle →
      ∃ u, exec i s = .next (arbitrate u) ∧ RefusedRequest s u .notReady)

/-- SUPPLY_RECOVERY clears the live flag and the still-present mark and keeps latched flag, cause and
notice; neither a warning with the live flag set nor a recovery with it clear changes anything; a warning
in STARTING, HALTED and LOCKDOWN changes no phase. In stage RESET neither command changes anything: that
clause is read from the stage table of 11_start_up_and_line_adoption.md, which names the supply monitor as
running from SELF_TEST on. -/
def Obligations.SupplyFlags : Prop :=
  ∀ s : State, s.supply.powered = true →
    (s.supply.stage = .reset →
      exec .supplyWarning s = .next (arbitrate s) ∧ exec .supplyRecovery s = .next (arbitrate s)) ∧
    (s.supply.stage ≠ .reset → s.supply.live = true →
      exec .supplyWarning s = .next (arbitrate s) ∧
      ∃ u, exec .supplyRecovery s = .next (arbitrate u) ∧
        u.supply = { s.supply with live := false } ∧
        u.berth = { s.berth with present := s.berth.present &&& ~~~LockdownCause.supplyLow.bit } ∧
        u.lines = s.lines ∧ u.queue = s.queue ∧ u.report = s.report) ∧
    (s.supply.stage ≠ .reset → s.supply.live = false →
      exec .supplyRecovery s = .next (arbitrate s) ∧
      (s.berth.phase = .starting ∨ s.berth.phase = .halted ∨ s.berth.phase = .lockdown →
        ∃ u, exec .supplyWarning s = .next (arbitrate u) ∧
          u.supply = { s.supply with live := true, latched := true } ∧
          u.berth = { s.berth with
            causes := s.berth.causes ||| LockdownCause.supplyLow.bit
            present := s.berth.present ||| LockdownCause.supplyLow.bit } ∧
          u.lines = s.lines ∧ u.queue = s.queue ∧ u.notice .supplyWarning = true))

/-! ### The other guarded words and the sample port -/

/-- ACKNOWLEDGE_WORD_WRITE: a full write with zero bits outside its masks clears the notices named, bit 16 + k
of the word naming berth notice k, the latched flag with SUPPLY_WARNING, and re-judges ATTN; the record of
each line whose notice is cleared is asked for, and the berth record where a notice or the latched flag is.
Any other write does nothing but host activity. -/
def Obligations.AcknowledgeClears : Prop :=
  ∀ (w : Word) (be : ByteEnables) (s : State), s.takesWords →
    (be = 15 → w.extractLsb' 12 4 = 0 → w.extractLsb' 24 8 = 0 →
      ∃ u, exec (.acknowledgeWordWrite w be) s = .next (arbitrate u) ∧
        (∀ n : LineId, u.line n = { s.line n with
          notice := (s.line n).notice && !(w.getLsbD n.val) }) ∧
        u.report.notices = s.report.notices &&& ~~~(w.extractLsb' 16 8) ∧
        (∀ k, u.notice k = (s.notice k && !(w.getLsbD (16 + k.code)))) ∧
        u.report.attn = u.anyNotice ∧
        u.supply = { s.supply with
          latched := s.supply.latched && !(w.getLsbD 20) } ∧
        (∀ n : LineId, (s.line n).notice = true → w.getLsbD n.val = true →
          n.castSucc ∈ u.bus.reportLane ∧ 12 ∈ u.bus.reportLane) ∧
        (s.report.notices &&& w.extractLsb' 16 8 ≠ 0 → 12 ∈ u.bus.reportLane) ∧
        (s.supply.latched = true → w.getLsbD 20 = true → 12 ∈ u.bus.reportLane) ∧
        u.queue = s.queue ∧ u.bus.orderLane = s.bus.orderLane ∧ u.scan = s.scan ∧
        u.berth = (hostActivity s).berth ∧ u.profile = s.profile) ∧
    (be ≠ 15 ∨ w.extractLsb' 12 4 ≠ 0 ∨ w.extractLsb' 24 8 ≠ 0 →
      exec (.acknowledgeWordWrite w be) s = .next (arbitrate (hostActivity s)))

/-- CURSOR_WORD_WRITE: a full write with line 0 to 11 and zero bits 31:8 sets line, index and direction;
any other write leaves the cursor. SAMPLE_PORT_READ: the answer gives line and index of the cursor, and the
ring entry there with the present flag where the line is fitted, the entry exists and the phase is neither
STARTING nor HALTED; then the cursor advances, but for those phases. It reaches no memory and is no host
activity. A write to the port word is dropped. -/
def Obligations.CursorAndSamplePort : Prop :=
  (∀ (w : Word) (be : ByteEnables) (s : State), s.takesWords →
    (∀ n : LineId, be = 15 → (w.extractLsb' 0 4).toNat = n.val → w.extractLsb' 8 24 = 0 →
      exec (.cursorWordWrite w be) s = .next (arbitrate { hostActivity s with
        scan := { s.scan with cursor := ⟨n, (w.extractLsb' 4 3).toFin, w.getLsbD 7⟩ } })) ∧
    (be ≠ 15 ∨ 12 ≤ (w.extractLsb' 0 4).toNat ∨ w.extractLsb' 8 24 ≠ 0 →
      exec (.cursorWordWrite w be) s = .next (arbitrate (hostActivity s)))) ∧
  ∀ (be : ByteEnables) (s : State), s.supply.powered = true → s.uwait = false →
    let c := s.scan.cursor
    let place := BitVec.ofNat 32 c.index.val <<< 17 ||| BitVec.ofNat 32 c.line.val <<< 20
    let next : Cursor := if c.decrement then
        (if c.index = 0 then ⟨c.line - 1, 7, true⟩ else ⟨c.line, c.index - 1, true⟩)
      else (if c.index = 7 then ⟨c.line + 1, 0, false⟩ else ⟨c.line, c.index + 1, false⟩)
    (s.berth.phase.silent = false → ∀ x, (s.line c.line).fitted = true →
      (s.line c.line).ring[c.index.val]? = some x →
      exec (.samplePortRead be) s = .next (arbitrate { s with
        bus := { s.bus with readData := place ||| (BitVec.ofNat 32 x.tension |||
          BitVec.ofNat 32 x.cls.code <<< 14 ||| 1#32 <<< 31) }
        scan := { s.scan with cursor := next } })) ∧
    (s.berth.phase.silent = false →
      ((s.line c.line).fitted = false ∨ (s.line c.line).ring[c.index.val]? = none) →
      exec (.samplePortRead be) s = .next (arbitrate { s with
        bus := { s.bus with readData := place }
        scan := { s.scan with cursor := next } })) ∧
    (s.berth.phase.silent = true →
      exec (.samplePortRead be) s = .next (arbitrate { s with
        bus := { s.bus with readData := place } })) ∧
    (∀ w, exec (.passedWrite (regionWord s.bus.base 28) w be) s = .next (arbitrate s))

/-- COMMIT: a word of bad form does nothing but host activity; with the berth quiet a load starts at word
0, or restarts with its fetch withdrawn; otherwise the outcome is BERTH_BUSY. -/
def Obligations.CommitTaken : Prop :=
  ∀ (w : Word) (be : ByteEnables) (s : State), s.takesWords →
    (be ≠ 15 ∨ byteSum w ≠ 0xC3#8 ∨ w.extractLsb' 8 8 ≠ 0x6E#8 ∨ w.extractLsb' 16 16 ≠ 0 →
      exec (.commit w be) s = .next (arbitrate (hostActivity s))) ∧
    (be = 15 → byteSum w = 0xC3#8 → w.extractLsb' 8 8 = 0x6E#8 → w.extractLsb' 16 16 = 0 →
      let still := ∀ n, (s.line n).fitted = true → (s.line n).state.moves = false ∧
        (s.line n).state.isHauling = false ∧ (s.line n).state ≠ .slipping
      let ready := (s.berth.phase = .vacant ∨ s.berth.phase = .lockdown) ∧ s.queue = [] ∧ still
      (ready → ∃ u, exec (.commit w be) s = .next (arbitrate u) ∧
        u.profile = { s.profile with load := .loading 0, buffer := [], sum := 0 } ∧
        u.bus.fetch = some (.image 0) ∧
        (∀ i, s.profile.load = .loading i → ∀ f d, s.bus.dport = some (.fetch f d) →
          u.bus.dport = some (.fetch f true)) ∧
        (s.profile.load = .idle → 12 ∈ u.bus.reportLane ∧ u.bus.dport = s.bus.dport) ∧
        u.lines = s.lines ∧ u.queue = s.queue ∧ u.bus.orderLane = s.bus.orderLane ∧
        u.report = s.report ∧ u.scan = s.scan ∧ u.berth = (hostActivity s).berth) ∧
      (¬ ready → ∃ u, exec (.commit w be) s = .next (arbitrate u) ∧
        u.profile = { s.profile with outcome := .berthBusy } ∧ u.notice .profileEvent = true ∧
        (∀ k, k ≠ .profileEvent → u.notice k = s.notice k) ∧
        12 ∈ u.bus.reportLane ∧ u.lines = s.lines ∧ u.queue = s.queue ∧ u.scan = s.scan ∧
        u.bus.orderLane = s.bus.orderLane ∧ u.berth = (hostActivity s).berth))

/-! ### The bus path -/

/-- PROFILE_WINDOW_WRITE passes to memory; a load in flight in service is aborted first, as DISTURBED,
its fetch withdrawn or marked not to be delivered; the start-up load ends on the fallback profile, with every
line fitted and ADOPTING. Timers are loaded by log 17. -/
def Obligations.ProfileWindowWrite : Prop :=
  ∀ (j : Fin 128) (w : Word) (be : ByteEnables) (s : State), s.supply.powered = true → s.uwait = false →
    let passed : HostAccess := ⟨⟨true, regionWord s.bus.base (128 + j.val), w, be⟩, none⟩
    (s.profile.load = .idle → exec (.profileWindowWrite j w be) s = .next (arbitrate { s with
      bus := { s.bus with waiting := some passed } })) ∧
    (∀ k, s.profile.load = .loading k →
      ∃ u, exec (.profileWindowWrite j w be) s = .next (arbitrate u) ∧
        u.bus.waiting = some passed ∧ u.profile.load = .idle ∧ u.profile.buffer = [] ∧
        u.profile.outcome = .disturbed ∧ u.notice .profileEvent = true ∧
        (∀ f d, s.bus.dport = some (.fetch f d) → u.bus.dport = some (.fetch f true)) ∧
        (s.supply.stage ≠ .profileLoad → u.bus.fetch = none ∧ u.profile.active = s.profile.active ∧
          u.profile.source = s.profile.source ∧ u.lines = s.lines ∧ u.queue = s.queue ∧
          u.scan = s.scan ∧ u.berth = s.berth) ∧
        (s.supply.stage = .profileLoad → u.profile.active = fallbackImage ∧
          u.profile.source = .fallback ∧ u.profile.verify = some (s.ticksFor 1000) ∧
          u.supply.stage = .adoptRead ∧ u.bus.fetch = some (.orderWord 0) ∧
          u.scan.pass = .idle ∧ u.scan.pacing = none ∧
          (s.berth.phase = .starting → ∀ n, (u.line n).fitted = true ∧
            (u.line n).state = .adopting)))

/-- STATUS_RECORD_READ waits for memory; a read of word 0 sets or moves the snapshot lock with 2 ms as it is
taken. SNAPSHOT_LOCK_TIMER_EXPIRY at the timer's end releases it (log 3). A locked record is not granted.
Timers are loaded by log 17. -/
def Obligations.SnapshotLock : Prop :=
  (∀ (r : RecId) (k : Fin 4) (be : ByteEnables) (s : State), s.supply.powered = true →
    s.uwait = false →
    exec (.statusRecordRead r k be) s = .next (arbitrate { s with bus := { s.bus with
      waiting := some ⟨⟨false, regionWord s.bus.base (64 + 4 * r.val + k.val), 0, be⟩, some (r, k)⟩
      snap := if k = 0 then some ⟨r, s.ticksFor 2⟩ else s.bus.snap } })) ∧
  (∀ (r : RecId) (s : State), s.supply.powered = true → s.bus.snap = some ⟨r, 0⟩ →
    exec (.snapshotLockTimerExpiry 0) s = .next (arbitrate { s with
      bus := { s.bus with snap := none }, atTick := false })) ∧
  (∀ (s : State) (l : SnapLock), s.bus.snap = some l → eligibleRecord s ≠ some l.record)

/-- STRAY_WRITE: a write to the status area is dropped; outside STARTING and HALTED it sets STRAY_WRITE and
asks for the berth record, once. PASSED_WRITE and HOST_READ_PASSED: outside the mailbox region, and in it at
the offsets without a handling of their own, a transfer waits for the D-port as the host made it and does
nothing else; so does a read of a guarded word, in every phase. -/
def Obligations.StrayAndPassedTransfers : Prop :=
  (∀ (j : Fin 52) (w : Word) (be : ByteEnables) (s : State), s.supply.powered = true → s.uwait = false →
    (s.berth.phase.silent = true ∨ s.notice .strayWrite = true →
      exec (.strayWrite j w be) s = .next (arbitrate s)) ∧
    (s.berth.phase.silent = false →
      ∃ u, exec (.strayWrite j w be) s = .next (arbitrate u) ∧ u.notice .strayWrite = true ∧
        (∀ k, k ≠ .strayWrite → u.notice k = s.notice k) ∧
        (s.notice .strayWrite = false → 12 ∈ u.bus.reportLane) ∧
        u.bus.snap = s.bus.snap ∧ u.bus.orderLane = s.bus.orderLane ∧ u.lines = s.lines ∧
        u.queue = s.queue ∧ u.scan = s.scan ∧ u.berth = s.berth ∧ u.profile = s.profile ∧
        u.supply = s.supply)) ∧
  ∀ (a : Address) (w : Word) (be : ByteEnables) (s : State), s.supply.powered = true →
    s.uwait = false →
    let offset := a.toNat % 4096
    let outside := a.toNat / 4096 ≠ s.bus.base.toNat
    let elsewhere := 0x078 ≤ offset ∧ offset < 0x100 ∨ 0x1D0 ≤ offset ∧ offset < 0x200 ∨
      0x400 ≤ offset
    (outside ∨ elsewhere → exec (.passedWrite a w be) s = .next (arbitrate { s with
      bus := { s.bus with waiting := some ⟨⟨true, a, w, be⟩, none⟩ } })) ∧
    (outside ∨ elsewhere ∨ offset < 0x070 ∨ 0x074 ≤ offset ∧ offset < 0x078 ∨
        0x200 ≤ offset ∧ offset < 0x400 →
      exec (.hostReadPassed a be) s = .next (arbitrate { s with
        bus := { s.bus with waiting := some ⟨⟨false, a, 0, be⟩, none⟩ } }))

/-- A host command that comes while UWAIT is driven is kept (log 5), and a RESET_REQUEST so kept shows its
strap levels as it comes (log 10). HOST_TRANSFER_COMPLETE and
PART_WRITE_COMPLETE free the D-port: a read presents its data, a read of word 3 of the locked record releases
the lock, and nothing else changes but that the transfers kept are taken, one after the other, each as its
command takes it, until one drives UWAIT again. -/
def Obligations.TransfersComplete : Prop :=
  (∀ (i : Instr) (t : Transfer) (s : State), transferOf s.bus.base i = some t →
    s.supply.powered = true → s.uwait = true →
    exec i s = .next { s.strapped i with bus := { s.bus with held := s.bus.held ++ [t] } }) ∧
  (∀ (w : Word) (h : HostAccess) (s : State), s.bus.dport = some (.host h) → s.bus.held = [] →
    exec (.hostTransferComplete w) s = .next (arbitrate { s with bus := { s.bus with
      dport := none
      snap := if (∃ r, h.statusWord = some (r, 3) ∧ snapLocked s r = true) then none else s.bus.snap
      readData := if h.transfer.write then s.bus.readData else w } })) ∧
  (∃ take : List Transfer → State → State,
    (∀ s : State, take [] s = { s with bus := { s.bus with held := [] } }) ∧
    (∀ (t : Transfer) (ts : List Transfer) (s : State), s.uwait = true →
      take (t :: ts) s = { s with bus := { s.bus with held := t :: ts } }) ∧
    (∀ (t : Transfer) (ts : List Transfer) (s : State) (i : Instr), s.supply.powered = true →
      s.uwait = false → transferOf s.bus.base i = some t →
      take (t :: ts) (s.strapped i) = take ts (s.after i)) ∧
    ∀ (w : Word) (h : HostAccess) (s : State), s.bus.dport = some (.host h) →
      exec (.hostTransferComplete w) s = .next (take s.bus.held (arbitrate { s with bus := { s.bus with
        dport := none
        snap := if (∃ r, h.statusWord = some (r, 3) ∧ snapLocked s r = true) then none else s.bus.snap
        readData := if h.transfer.write then s.bus.readData else w } }))) ∧
  (∀ s : State, ((∃ n a o, s.bus.dport = some (.pair n a o)) ∨
      ∃ r w0 w1 w2 w3, s.bus.dport = some (.record r w0 w1 w2 w3)) →
    exec .partWriteComplete s = .next (arbitrate { s with bus := { s.bus with dport := none } }))

/-- FETCH_COMPLETE: a withdrawn fetch delivers nothing; an image word below 127 is placed and summed and the
next is asked for; an order word gives its line the tag and kind recovered, and the next fitted line's word
is asked for, or the first pass starts, with the pacing timer loaded in PACED mode. A tag and kind are
recovered from a word with a good check, a tag from 1 and a kind code 1 to 7, whatever stands above. Timers
are loaded by log 17. -/
def Obligations.FetchDelivered : Prop :=
  (∀ (v : Word) (t : Tag) (k : OrderKind), recoverOrder v = some (t, k) ↔
    byteSum v = 0xC3#8 ∧ v.extractLsb' 12 8 = t ∧ t ≠ 0 ∧ (v.extractLsb' 8 4).toNat = k.code ∧
      k ≠ .restate) ∧
  ∀ (v : Word) (s : State),
    (∀ f, s.bus.dport = some (.fetch f true) →
      exec (.fetchComplete v) s = .next (arbitrate { s with bus := { s.bus with dport := none } })) ∧
    (∀ i j, s.bus.dport = some (.fetch (.image j) false) → s.profile.load = .loading i → i < 127 →
      exec (.fetchComplete v) s = .next (arbitrate { s with
        bus := { s.bus with dport := none, fetch := some (.image (i + 1)) }
        profile := { s.profile with
          load := .loading (i + 1), buffer := s.profile.buffer ++ [v], sum := s.profile.sum + v } })) ∧
    (∀ n, s.bus.dport = some (.fetch (.orderWord n) false) →
      ∃ u, exec (.fetchComplete v) s = .next (arbitrate u) ∧
        u.line n = { s.line n with lastHost := ⟨recoverOrder v, none, none⟩ } ∧
        (∀ m, m ≠ n → u.line m = s.line m) ∧
        (∀ m, n < m → (s.line m).fitted = true →
          (∀ k, n < k → k < m → (s.line k).fitted = false) →
          u.bus.fetch = some (.orderWord m) ∧ u.supply = s.supply ∧ u.scan = s.scan) ∧
        ((∀ m, n < m → (s.line m).fitted = false) →
          u.supply = { s.supply with stage := .firstPass } ∧
          u.scan = { s.scan with pass := .running 0, pacing := match s.scan.mode with
            | .paced => some (s.ticksFor (pacingPeriod s.image))
            | .continuous => none } ∧ u.bus.fetch = s.bus.fetch))

/-- An image is judged word by word: the first word whose condition fails is named, and an image none of
whose words fails is valid. A line may be left out of the fitted mask where it is not fitted, PARKED or
ADOPTING. -/
def Obligations.ProfileValidated : Prop :=
  (∀ (img : List Word) (sum : Word) (keep : LineId → Bool),
    (firstFailing img sum keep = none ↔ ∀ i, i < 128 → WordRule img sum keep i) ∧
    ∀ i, firstFailing img sum keep = some i ↔
      i < 128 ∧ ¬ WordRule img sum keep i ∧ ∀ j, j < i → WordRule img sum keep j) ∧
  (∀ (s : State) (n : LineId), mayUnfit s n = true ↔
    (s.line n).fitted = false ∨ (s.line n).state = .parked ∨ (s.line n).state = .adopting)

/-- The delivery of word 127 ends a load in service: an image with a failing word is REJECTED at the first
one, a valid image is activated where the berth is quiet and turned away as BERTH_BUSY otherwise. An
activation moves the lines whose fitted flag changes, and no other, and restarts the scan: the probes of
fitted lines that wait, or one it cuts off, run first. Timers are loaded by log 17. -/
def Obligations.LoadEnds : Prop :=
  ∀ (v : Word) (j : Nat) (s : State), s.bus.dport = some (.fetch (.image j) false) →
    s.profile.load = .loading 127 → s.supply.stage ≠ .profileLoad →
    let img := s.profile.buffer ++ [v]
    let verdict := firstFailing img (s.profile.sum + v) (mayUnfit s)
    let waits := fun m => fittedBit img m = true ∧
      ((s.line m).probeWaiting = true ∨ ∃ r, s.scan.pass = .probing m r)
    ∃ u, exec (.fetchComplete v) s = .next (arbitrate u) ∧ u.profile.load = .idle ∧
      u.profile.buffer = [] ∧ u.notice .profileEvent = true ∧
      (∀ i, verdict = some i → u.profile.outcome = .rejected i ∧
        u.profile.active = s.profile.active ∧ u.profile.source = s.profile.source ∧
        u.lines = s.lines ∧ u.scan = s.scan ∧ u.berth = s.berth) ∧
      (verdict = none → quiet s = false → u.profile.outcome = .berthBusy ∧
        u.profile.active = s.profile.active ∧ u.profile.source = s.profile.source ∧
        u.lines = s.lines ∧ u.scan = s.scan ∧ u.berth = s.berth) ∧
      (verdict = none → quiet s = true → u.profile.outcome = .activated ∧ u.profile.active = img ∧
        u.profile.source = .loaded ∧ u.profile.verify = some (s.ticksFor 1000) ∧
        (∀ n, (u.line n).fitted = fittedBit img n ∧ (u.line n).rank = releaseRank img n ∧
          (u.line n).required = requiredFlag img n ∧ (u.line n).ring = [] ∧
          (u.line n).cls = .noClass ∧ (u.line n).tension = none) ∧
        (∀ n, fittedBit img n = (s.line n).fitted → (u.line n).state = (s.line n).state ∧
          (u.line n).brakeSettle = (s.line n).brakeSettle ∧ (u.line n).creep = (s.line n).creep) ∧
        (∀ n, fittedBit img n ≠ (s.line n).fitted →
          (u.line n).state = (if fittedBit img n then .adopting else .parked) ∧
          (u.line n).Rests ∧ (u.line n).brakeSettle = none ∧ n.castSucc ∈ u.bus.reportLane) ∧
        (∀ m, waits m → (∀ k, k < m → ¬ waits k) →
          u.scan.pass = .probing m (some 0) ∧ (u.line m).probeWaiting = false) ∧
        ((∀ m, ¬ waits m) → u.scan.pass = .running 0) ∧
        u.scan.plan = planOf img ∧ u.scan.mode = scanMode img ∧ u.report.divider = 0 ∧
        u.scan.pacing = (match scanMode img with
          | .paced => some (s.ticksFor (pacingPeriod img))
          | .continuous => none) ∧
        u.scan.ref = s.scan.ref ∧ u.scan.refCount = s.scan.refCount ∧ u.scan.cursor = s.scan.cursor ∧
        u.berth = { s.berth with
          present := s.berth.present &&& ~~~LockdownCause.profileFault.bit } ∧
        u.bus.orderLane = s.bus.orderLane)

/-- The D-port arbiter at a free point: the oldest pair first; then host transfer and internal traffic in
turn, the fetch before the oldest record not under the lock, whose sequence rises and whose words are those
of that moment. Elsewhere it changes nothing. After a reset the mark names internal traffic. -/
def Obligations.ArbiterGrants : Prop :=
  State.reset.bus.mark = .internal ∧ (∀ c t, AfterReset c t → t.bus.mark = .internal) ∧
  (∀ s : State,
    let locked := fun r => ∃ l, s.bus.snap = some l ∧ l.record = r
    (∀ r, eligibleRecord s = some r ↔ ∃ before after, s.bus.reportLane = before ++ r :: after ∧
      ¬ locked r ∧ ∀ x ∈ before, locked x) ∧
    (eligibleRecord s = none ↔ ∀ x ∈ s.bus.reportLane, locked x)) ∧
  ∀ s : State,
    (s.supply.powered = false ∨ s.bus.dport.isSome = true → arbitrate s = s) ∧
    (s.supply.powered = true → s.bus.dport = none →
      (∀ e rest, s.bus.orderLane = e :: rest → arbitrate s = { s with bus := { s.bus with
        orderLane := rest, dport := some (.pair e.line e.arg e.order) } }) ∧
      (s.bus.orderLane = [] →
        (∀ h, s.bus.waiting = some h →
          (s.bus.mark = .internal ∨ s.bus.fetch = none ∧ eligibleRecord s = none) →
          arbitrate s = { s with bus := { s.bus with
            waiting := none, mark := .host, dport := some (.host h) } }) ∧
        ((s.bus.waiting = none ∨ s.bus.mark = .host) →
          (∀ f, s.bus.fetch = some f → arbitrate s = { s with bus := { s.bus with
            fetch := none, mark := .internal, dport := some (.fetch f false) } }) ∧
          (∀ r, s.bus.fetch = none → eligibleRecord s = some r →
            let t := raiseSeq r s
            arbitrate s = { t with bus := { s.bus with
              reportLane := s.bus.reportLane.erase r, mark := .internal,
              dport := some (recordWords r t) } })) ∧
        (s.bus.waiting = none → s.bus.fetch = none → eligibleRecord s = none → arbitrate s = s)))

/-- The four words of a line record and of the berth record, field by field, each word the sum of its fields
at their places, for fields in the ranges the manual gives; and the codes of the manual's tables, the numbers
of the lockdown causes and of the berth notices among them, with the bit each has in its set. -/
def Obligations.RecordContents : Prop :=
  (∀ (n : LineId) (s : State), ∃ w0 w1 w2 w3,
    recordWords n.castSucc s = .record n.castSucc w0 w1 w2 w3 ∧
    let l := s.line n
    let e := s.entry n
    let h := l.lastHost
    (l.state.stepsShown < 8 → l.payout < 65536 → l.tension.getD 0 < 16384 →
      l.span.getD 32767 < 32768 →
      w0.toNat = l.seq.toNat + l.state.code * 2 ^ 16 + l.state.reasonCode * 2 ^ 20
        + l.lengthUnknown.toNat * 2 ^ 24 + l.tension.isNone.toNat * 2 ^ 25 + e.isSome.toNat * 2 ^ 26
        + l.notice.toNat * 2 ^ 27 + (e.any fun x => x.stage == .probing).toNat * 2 ^ 28
        + (e.any fun x => x.origin == .groupWord).toNat * 2 ^ 29 + h.superseded.isSome.toNat * 2 ^ 30 ∧
      w1.toNat = l.tension.getD 0 + l.cls.code * 2 ^ 14 + l.span.getD 32767 * 2 ^ 17 ∧
      w2.toNat = l.payout + l.state.stepsShown * 2 ^ 16
        + (e.any fun x => x.closed.lineReady).toNat * 2 ^ 19
        + (e.any fun x => x.closed.rankOrder).toNat * 2 ^ 20
        + (e.any fun x => x.closed.surgeSettled).toNat * 2 ^ 21
        + (e.any fun x => x.closed.tensionFree).toNat * 2 ^ 22
        + (e.any fun x => x.closed.lineSlack).toNat * 2 ^ 23
        + (match l.lastPart with | some p => p.cause.code | none => 0) * 2 ^ 24 ∧
      w3.toNat = l.seq.toNat % 256 + (match h.order with | some o => o.1.toNat | none => 0) * 2 ^ 8
        + (match h.order with | some o => o.2.code % 8 | none => 0) * 2 ^ 16
        + (match h.outcome with | some v => v.code | none => 0) * 2 ^ 19
        + (match l.lastPart with | some p => partKindCode p.kind | none => 0) * 2 ^ 22
        + (match h.outcome, h.superseded with
            | some (.refused r), _ => r.code
            | _, some t => t.toNat
            | _, none => 0) * 2 ^ 24)) ∧
  (∀ s : State, ∃ w0 w1 w2 w3, recordWords 12 s = .record 12 w0 w1 w2 w3 ∧
    (s.queue.length < 16 → (∀ i, s.profile.outcome = .rejected i → i < 128) →
      w0.toNat = s.report.seq.toNat + s.berth.phase.code * 2 ^ 16
        + (s.profile.source == .loaded).toNat * 2 ^ 19 ∧
      w1.toNat = s.berth.causes.toNat + s.berth.present.toNat * 2 ^ 8 + s.supply.cause.code * 2 ^ 16
        + (match s.berth.refusal with | some r => r.code | none => 0) * 2 ^ 18 ∧
      w2.extractLsb' 12 20 = BitVec.ofNat 20 (s.report.notices.toNat + s.queue.length * 2 ^ 8
        + s.supply.live.toNat * 2 ^ 12 + s.supply.latched.toNat * 2 ^ 13) ∧
      (∀ n : LineId, w2.getLsbD n.val = (s.line n).notice) ∧
      w3.toNat = s.report.seq.toNat % 256 + s.profile.outcome.code * 2 ^ 8
        + (s.profile.load != .idle).toNat * 2 ^ 11
        + (match s.profile.outcome with | .rejected i => i + 128 | _ => 0) * 2 ^ 12)) ∧
  (∀ v r k, [LineState.adopting, .parked, .paying v, .standing, .hauling v, .locked, .tending,
    .rendering r k, .slipping, .slack, .rewinding].map LineState.code = List.range 11) ∧
  (∀ f, (LineState.faulted f).code = 11 ∧ (LineState.faulted f).reasonCode = f.code) ∧
  (∀ st : LineState, (∀ f, st ≠ .faulted f) → st.reasonCode = 0) ∧
  (∀ r k, (LineState.rendering r k).stepsShown = k) ∧
  (∀ st : LineState, (∀ r k, st ≠ .rendering r k) → st.stepsShown = 0) ∧
  [FaultReason.stall, .haulTimeout, .slipTimeout, .lineSlack, .brakeCreep, .brakeMismatch,
    .renderExhausted, .snag, .stowMismatch, .stowLost].map FaultReason.code = List.range' 1 10 ∧
  [Classification.noClass, .slack, .low, .inBand, .high, .over].map Classification.code = List.range 6 ∧
  (∀ r, [Verdict.passed, .held, .refused r, .forwarded, .timedOut, .flushed].map Verdict.code =
    List.range' 1 6) ∧
  [RefusalReason.partialWrite, .badCheck, .badKind, .notFitted, .fallbackProfile, .wrongPhase,
    .wrongState, .renderActive, .notStowed, .argumentStale, .argumentRange,
    .queueFull].map RefusalReason.code = List.range' 1 12 ∧
  [PartCause.runComplete, .haulReached, .renderStep, .renderReturn, .renderExhausted, .stall,
    .haulTimeout, .slipTimeout, .lineSlack, .brakeCreep, .brakeMismatch, .snag, .stowMismatch, .stowMade,
    .lockdown .hostRequest, .lockdown .hostSilent, .lockdown .supplyLow, .lockdown .senseFault,
    .lockdown .profileFault, .lockdown .overload, .derivation].map PartCause.code = List.range' 1 21 ∧
  PartCause.code (.lockdown .adoption) = 21 ∧
  [LockdownCause.hostRequest, .hostSilent, .supplyLow, .senseFault, .profileFault, .overload,
    .adoption].map LockdownCause.code = List.range 7 ∧
  (∀ (c : LockdownCause) (cs : CauseSet), c.bit = BitVec.ofNat 7 (2 ^ c.code) ∧
    cs.has c = cs.getLsbD c.code) ∧
  [BerthNotice.phaseRefused, .lockdownEntered, .scanOverrun, .profileEvent, .supplyWarning, .resetDone,
    .groupRefused, .strayWrite].map BerthNotice.code = List.range 8 ∧
  (∀ (k : BerthNotice) (s : State), s.notice k = s.report.notices.getLsbD k.code) ∧
  [OrderKind.lock, .haul, .tend, .ease, .slip, .rewind, .park, .restate].map OrderKind.code =
    List.range' 1 8 ∧
  [OrderKind.lock, .tend, .ease, .park].map partKindCode = List.range 4 ∧
  [Phase.starting, .vacant, .arrival, .secured, .departure, .lockdown, .halted].map Phase.code =
    List.range 7 ∧
  [ResetCause.powerOn, .brownOut, .pin, .command].map ResetCause.code = List.range 4 ∧
  [RequestRefusal.badRequest, .wrongPhase, .notReady].map RequestRefusal.code = List.range' 1 3 ∧
  (∀ i, [ProfileOutcome.noOutcome, .activated, .rejected i, .disturbed, .berthBusy, .verifyFailed,
    .selfTestFailed].map ProfileOutcome.code = List.range 7)

/-- In STARTING and HALTED a write to a guarded word is dropped: no verdict, no notice, no latch, no
cursor, no host activity. A RESET_REQUEST row still shows its strap levels (log 10). -/
def Obligations.SilentPhasesDrop : Prop :=
  ∀ (i : Instr) (n : LineId) (w : Word) (be : ByteEnables) (s : State), s.supply.powered = true →
    s.uwait = false → (s.berth.phase = .starting ∨ s.berth.phase = .halted) →
    (∀ straps, exec (.resetRequest w be straps) s = .next (arbitrate (setStraps straps s))) ∧
    ((OrderRow i n w be ∨ GroupRow i w be ∨ RequestRow i w be ∨ i = .argumentWordWrite n w be ∨
        i = .acknowledgeWordWrite w be ∨ i = .cursorWordWrite w be ∨ i = .commit w be) →
      exec i s = .next (arbitrate s))

/-! ### Drums -/

/-- PULSE: an edge within 200 microseconds of the last pulse is ignored; a pulse moves the payout count
between its ends, and for a fitted line the run counter, the stall timer and the creep count. Timers are
loaded by log 17; the edge carries its gap by log 8. -/
def Obligations.PulseCounts : Prop :=
  ∀ (n : LineId) (outward : Bool) (gap : Nat) (s : State), s.supply.powered = true →
    let l := s.line n
    let payout := if outward then min 65535 (l.payout + 1) else l.payout - 1
    (l.pulseAge + gap < 200 → exec (.pulse n outward gap) s = .next (arbitrate
      (modLine n (fun l => { l with pulseAge := l.pulseAge + gap }) s))) ∧
    (200 ≤ l.pulseAge + gap → l.fitted = false → exec (.pulse n outward gap) s = .next (arbitrate
      (modLine n (fun l => { l with payout := payout, pulseAge := 0 }) s))) ∧
    (200 ≤ l.pulseAge + gap → l.fitted = true →
      let toward := l.state.expectedOutward = some outward
      let against := l.state.expectedOutward = some (!outward)
      let run := l.run.map fun r => if toward then ⟨r.left - 1, r.ceiling⟩
        else if against then ⟨min r.ceiling (r.left + 1), r.ceiling⟩ else r
      let creep := if l.state.countsCreep = true ∧ l.brakeSet = true then l.creep + 1 else l.creep
      (∀ r, run = some r → r.left ≠ 0) → (l.state.countsCreep = true → l.brakeSet = true →
        creep < creepLimit s.image) →
      exec (.pulse n outward gap) s = .next (arbitrate (modLine n (fun l => { l with
        payout := payout, pulseAge := 0, run := run,
        stall := if toward then l.stall.map fun _ => s.ticksFor (stallTime s.image) else l.stall,
        creep := creep }) s)))

/-- A pulse that ends a run, and one that reaches the creep limit: PAYING comes to rest with a LOCK,
RENDERING takes a further step or is exhausted with OVERLOAD, REWINDING is PARKED with its stow switch made,
or its stow made come together with the pulse (log 27), and faulted otherwise; creep faults a line on its
brake. The pair of each stands in the order lane; a rewind that leaves every fitted line PARKED ends
DEPARTURE. LOCKDOWN by OVERLOAD is entered from the state `settle n w` that the fault of the line leaves, w
being the fault entry itself. The edge carries its gap by log 8; timers are loaded by log 17. -/
def Obligations.RunCompletes : Prop :=
  ∀ (n : LineId) (outward : Bool) (gap : Nat) (s : State), s.supply.powered = true →
    (s.line n).fitted = true → 200 ≤ (s.line n).pulseAge + gap →
    let counted := fun u : State => (u.line n).pulseAge = 0 ∧ (u.line n).payout =
      if outward then min 65535 ((s.line n).payout + 1) else (s.line n).payout - 1
    ((s.line n).state.expectedOutward = some outward → (∃ c, (s.line n).run = some ⟨1, c⟩) →
      ∃ u, exec (.pulse n outward gap) s = .next (arbitrate u) ∧ counted u ∧
        (∀ v, (s.line n).state = .paying v →
          (u.line n).state = restState (s.line n).cls ∧
          (u.line n).lastPart = some ⟨.lock, .runComplete⟩ ∧ (u.line n).Rests ∧ DrumKept s u n ∧
          ⟨n, composeArgument 0, composeOrder .lock 0⟩ ∈ u.bus.orderLane ∧
          TakenIn s (s.line n) (u.line n) ∧ u.berth = s.berth) ∧
        (∀ ret used, (s.line n).state = .rendering ret used → used < renderStepLimit s.image →
          (u.line n).state = .rendering ret (used + 1) ∧
          (u.line n).lastPart = some ⟨.ease, .renderStep⟩ ∧
          (u.line n).run = some ⟨renderStep s.image n, renderStep s.image n⟩ ∧
          (u.line n).stall = some (s.ticksFor (stallTime s.image)) ∧
          (u.line n).brakeSettle = (s.line n).brakeSettle ∧
          ⟨n, composeArgument (renderStep s.image n), composeOrder .ease 0⟩ ∈ u.bus.orderLane ∧
          DrumKept s u n ∧ u.berth = s.berth ∧ u.queue = s.queue) ∧
        (∀ ret used, (s.line n).state = .rendering ret used → renderStepLimit s.image ≤ used →
          (u.line n).state = .faulted .renderExhausted ∧ (u.line n).notice = true ∧
          (u.line n).lastPart = some ⟨.lock, .renderExhausted⟩ ∧ (u.line n).Rests ∧
          (u.line n).brakeSettle = none ∧
          ⟨n, composeArgument 0, composeOrder .lock 0⟩ ∈ u.bus.orderLane ∧
          u.berth.causes = s.berth.causes ||| LockdownCause.overload.bit ∧
          u.berth.present = s.berth.present ∧
          (s.berth.phase.silent = true → u.berth.phase = s.berth.phase) ∧
          (s.berth.phase.silent = false → u.berth.phase = .lockdown) ∧
          (s.Sound → s.berth.phase = .vacant ∨ s.berth.phase = .arrival ∨ s.berth.phase = .secured ∨
              s.berth.phase = .departure →
            ∃ w, (w.line n).state = .faulted .renderExhausted ∧ (w.line n).notice = true ∧
              (w.line n).lastPart = some ⟨.lock, .renderExhausted⟩ ∧ (w.line n).Rests ∧
              (w.line n).brakeSettle = none ∧ DrumKept s w n ∧ (∀ m, m ≠ n → w.line m = s.line m) ∧
              ⟨n, composeArgument 0, composeOrder .lock 0⟩ ∈ w.bus.orderLane ∧
              (∀ e ∈ s.bus.orderLane, e.line ≠ n → e ∈ w.bus.orderLane) ∧ w.queue = s.queue ∧
              w.scan = s.scan ∧ w.berth = s.berth ∧ EnteredLockdown .overload (settle n w) u)) ∧
        ((s.line n).state = .rewinding → (s.line n).stowMade = true ∨ s.StowComes n →
          (u.line n).state = .parked ∧ (u.line n).lastPart = some ⟨.park, .runComplete⟩ ∧
          (u.line n).Rests ∧ DrumKept s u n ∧ TakenIn s (s.line n) (u.line n) ∧
          ⟨n, composeArgument 0, composeOrder .park 0⟩ ∈ u.bus.orderLane ∧
          VacatesBy s u s.berth) ∧
        ((s.line n).state = .rewinding → (s.line n).stowMade = false → ¬ s.StowComes n →
          (u.line n).state = .faulted .stowMismatch ∧ (u.line n).notice = true ∧
          (u.line n).lastPart = some ⟨.lock, .stowMismatch⟩ ∧ (u.line n).Rests ∧
          (u.line n).brakeSettle = none ∧ DrumKept s u n ∧
          ⟨n, composeArgument 0, composeOrder .lock 0⟩ ∈ u.bus.orderLane ∧ u.berth = s.berth)) ∧
    ((s.line n).state.countsCreep = true → (s.line n).brakeSet = true → (s.line n).run = none →
      creepLimit s.image ≤ (s.line n).creep + 1 →
      ∃ u, exec (.pulse n outward gap) s = .next (arbitrate u) ∧ counted u ∧
        (u.line n).state = .faulted .brakeCreep ∧ (u.line n).notice = true ∧ DrumKept s u n ∧
        (u.line n).Rests ∧ (u.line n).brakeSettle = none ∧ u.berth = s.berth ∧
        ((s.line n).state = .parked → (u.line n).lastPart = (s.line n).lastPart ∧
          ∀ e : LaneEntry, e.line = n → (e ∈ u.bus.orderLane ↔ e ∈ s.bus.orderLane)) ∧
        ((s.line n).state ≠ .parked → (u.line n).lastPart = some ⟨.lock, .brakeCreep⟩ ∧
          ⟨n, composeArgument 0, composeOrder .lock 0⟩ ∈ u.bus.orderLane))

/-- What each state runs. BRAKE_FEEDBACK_CHANGE: the brake-settle timer of a fitted line starts where the
feedback comes to disagree with the state's expected brake and stops where it comes to agree. STOW_MADE and
STOW_LOST: the level; for a stow made the count and the flag of every drum; a fitted REWINDING line becomes
PARKED, a fitted PARKED line is faulted by a stow lost without an order. What a stow made came together with
(log 27) does not change its own effect. Timers are loaded by log 17. The brake feedback is the level of a
pin, kept through every reset (log 11), and acts with the supply down too (log 14). -/
def Obligations.DrumInputsChange : Prop :=
  (∀ st : LineState, st.expectedBrake = (match st with
      | .parked | .standing | .locked | .slack => some true
      | .adopting | .faulted _ => none
      | _ => some false) ∧
    st.countsCreep = (match st with
      | .parked | .standing | .locked | .slack => true
      | _ => false) ∧
    st.expectedOutward = (match st with
      | .paying _ | .rendering _ _ => some true
      | .rewinding => some false
      | _ => none)) ∧
  (∀ (n : LineId) (v : Bool) (s : State), (s.line n).brakeSet ≠ v →
    exec (.brakeFeedbackChange n v) s = .next (modLine n (fun l => { l with
      brakeSet := v
      brakeSettle := if l.fitted = true ∧ l.state.expectedBrake = some (!v) then
        some (s.ticksFor (brakeSettleTime s.image)) else none }) s)) ∧
  ∀ (n : LineId) (back : Nat) (s : State), s.supply.powered = true →
    ((s.line n).stowMade = false →
      (¬ ((s.line n).fitted = true ∧ (s.line n).state = .rewinding) →
        exec (.stowMade n back) s = .next (arbitrate (modLine n (fun l => { l with
          stowMade := true, payout := 0, lengthUnknown := false }) s))) ∧
      ((s.line n).fitted = true → (s.line n).state = .rewinding →
        ∃ u, exec (.stowMade n back) s = .next (arbitrate u) ∧ (u.line n).state = .parked ∧
          (u.line n).stowMade = true ∧ (u.line n).payout = 0 ∧ (u.line n).lengthUnknown = false ∧
          (u.line n).lastPart = some ⟨.park, .stowMade⟩ ∧ (u.line n).Rests ∧ DrumKept s u n ∧
          TakenIn s (s.line n) (u.line n) ∧ VacatesBy s u s.berth ∧
          ⟨n, composeArgument 0, composeOrder .park 0⟩ ∈ u.bus.orderLane)) ∧
    ((s.line n).stowMade = true →
      (¬ ((s.line n).fitted = true ∧ (s.line n).state = .parked) →
        exec (.stowLost n) s = .next (arbitrate (modLine n (fun l => { l with
          stowMade := false }) s))) ∧
      ((s.line n).fitted = true → (s.line n).state = .parked →
        ∃ u, exec (.stowLost n) s = .next (arbitrate u) ∧
          (u.line n).state = .faulted .stowLost ∧ (u.line n).stowMade = false ∧
          (u.line n).notice = true ∧ (u.line n).payout = (s.line n).payout ∧ DrumKept s u n ∧
          (u.line n).Rests ∧ (u.line n).brakeSettle = none ∧ u.berth = s.berth ∧
          (u.line n).lastPart = (s.line n).lastPart ∧
          ∀ e : LaneEntry, e.line = n → (e ∈ u.bus.orderLane ↔ e ∈ s.bus.orderLane)))

/-! ### Expiries -/

/-- STALL, HAUL_TIME_OUT, SLIP_TIME_OUT and BRAKE_MISMATCH at the end of their timer, in a state that runs
it: FAULTED with the reason and a LOCK. A timer that is stopped, or that has been loaded afresh, does not
expire, and the command then changes nothing. The commands are taken by log 3. -/
def Obligations.TimeOutsFault : Prop :=
  ∀ (n : LineId) (s : State), s.supply.powered = true → (s.line n).fitted = true →
    let idle := fun c => exec c s = .next (arbitrate { s with atTick := false })
    let faults := fun c r p => ∃ u, exec c s = .next (arbitrate { u with atTick := false }) ∧
      FaultedBy s u n r p
    ((s.line n).stall = some 0 → (s.line n).state.moves = true → faults (.stall n 0) .stall .stall) ∧
    ((s.line n).haul = some 0 → (s.line n).state.isHauling = true →
      faults (.haulTimeOut n 0) .haulTimeout .haulTimeout) ∧
    ((s.line n).slip = some 0 → (s.line n).state = .slipping →
      faults (.slipTimeOut n 0) .slipTimeout .slipTimeout) ∧
    ((s.line n).brakeSettle = some 0 → (s.line n).state ≠ .adopting →
      (∀ r, (s.line n).state ≠ .faulted r) →
      faults (.brakeMismatch n 0) .brakeMismatch .brakeMismatch) ∧
    ((s.line n).stall ≠ some 0 → idle (.stall n 0)) ∧
    ((s.line n).haul ≠ some 0 → idle (.haulTimeOut n 0)) ∧
    ((s.line n).slip ≠ some 0 → idle (.slipTimeOut n 0)) ∧
    ((s.line n).brakeSettle ≠ some 0 → idle (.brakeMismatch n 0))

/-- HOLD_DEADLINE_EXPIRY at the end of the deadline (log 3): the entry ends as TIMED_OUT with its line's
notice, the records of the line and of the berth are asked for, and nothing else changes. -/
def Obligations.HoldDeadlineExpires : Prop :=
  ∀ (n : LineId) (e : Entry) (s : State), s.supply.powered = true → s.entry n = some e →
    e.deadline = 0 →
    ∃ u, exec (.holdDeadlineExpiry n 0) s = .next (arbitrate u) ∧
      u.queue = s.queue.filter (fun x => x.line != n) ∧
      u.line n = { s.line n with
        lastHost := ⟨some (e.tag, e.kind.order), some .timedOut, (s.line n).lastHost.superseded⟩
        notice := true } ∧
      (∀ m, m ≠ n → u.line m = s.line m) ∧ u.bus.orderLane = s.bus.orderLane ∧
      u.scan = s.scan ∧ u.berth = s.berth ∧ u.profile = s.profile ∧ u.supply = s.supply ∧
      u.report.notices = s.report.notices ∧
      (s.berth.phase.silent = false → n.castSucc ∈ u.bus.reportLane ∧ 12 ∈ u.bus.reportLane)

/-- PACING_EXPIRY at the end of the timer (log 3): the timer reloads; an idle scan starts a pass, a probe
without one gets its resume position, and a pass under way drops the expiry with SCAN_OVERRUN. Timers are
loaded by log 17. -/
def Obligations.PacingExpiry : Prop :=
  ∀ s : State, s.supply.powered = true → s.scan.pacing = some 0 →
    let scan := { s.scan with pacing := some (pacingPeriod s.image) }
    (s.scan.pass = .idle → exec (.pacingExpiry 0) s = .next (arbitrate { s with
      scan := { scan with pass := .running 0 }, atTick := false })) ∧
    (∀ n, s.scan.pass = .probing n none → exec (.pacingExpiry 0) s = .next (arbitrate { s with
      scan := { scan with pass := .probing n (some 0) }, atTick := false })) ∧
    ((∃ p, s.scan.pass = .running p) ∨ (∃ n p, s.scan.pass = .probing n (some p)) →
      ∃ u, exec (.pacingExpiry 0) s = .next (arbitrate u) ∧ u.scan = scan ∧
        u.notice .scanOverrun = true ∧ (∀ k, k ≠ .scanOverrun → u.notice k = s.notice k) ∧
        u.lines = s.lines ∧ u.queue = s.queue ∧
        u.bus.orderLane = s.bus.orderLane ∧ u.berth = s.berth ∧ u.profile = s.profile)

/-- VERIFICATION at the end of the timer (log 3), of the active copy as `upset` leaves it (log 16): a sum of
0 reloads the timer alone; any other sum puts the fallback profile in force with every line fitted,
VERIFY_FAILED and PROFILE_FAULT. `w` is the part with the fallback's flags copied; for each line whose state
that changes the hold queue re-evaluates its entries, which gives `x`, so that an entry whose gates are open
under the fallback's ranks and limits asks for its probe (log 21). The scan restarts from `x` under the
fallback's plan, the probes that wait or the one it cuts off first, and in ADOPT_READ in the limited way; the
records of the lines newly fitted and of the berth are asked for; a render goes on with its steps held to the
fallback's limit, its record asked for where they change (log 28). LOCKDOWN is entered from the state v that
the change of profile leaves. Timers are loaded by log 17. -/
def Obligations.Verification : Prop :=
  ∀ (upset : List (Fin 128 × Word)) (s : State), s.supply.powered = true →
    s.profile.verify = some 0 →
    let copy := upset.foldl (fun ws x => ws.set x.1.val x.2) s.profile.active
    (copy.foldl (· + ·) 0 = 0 → exec (.verification upset 0) s = .next (arbitrate { s with
      profile := { s.profile with active := copy, verify := some 1000 }, atTick := false })) ∧
    (copy.foldl (· + ·) 0 ≠ 0 →
      ∃ w x u : State, exec (.verification upset 0) s = .next (arbitrate u) ∧
        (w = { s with
            lines := w.lines
            profile := { s.profile with
              active := fallbackImage, source := .fallback, verify := some 1000 }
            atTick := true } ∧
          ∀ n,
            let kept := { s.line n with
              fitted := true, rank := releaseRank fallbackImage n
              required := requiredFlag fallbackImage n }
            let keeps := if s.berth.phase = .starting then (s.line n).state = .adopting
              else (s.line n).fitted = true
            (keeps → w.line n = kept) ∧
            (¬ keeps → w.line n = { kept with
              state := .adopting, run := none, stall := none, haul := none, slip := none
              brakeSettle := none })) ∧
        x = allLines.foldl (fun t n => if (w.line n).state = (s.line n).state then t else reevaluate t) w ∧
        (s.queue = [] → x = w) ∧
        ((∃ n, (w.line n).state ≠ (s.line n).state) → s.Sound → ∀ m e, s.entry m = some e →
          e.kind = .slip → e.stage = .waiting → e.failed = false → w.Open m →
          (x.line m).probeWaiting = true ∨ ∃ r, x.scan.pass = .probing m r) ∧
        u.profile.active = fallbackImage ∧ u.profile.source = .fallback ∧
        u.profile.verify = some 1000 ∧ u.profile.outcome = .verifyFailed ∧
        u.profile.load = s.profile.load ∧ u.profile.buffer = s.profile.buffer ∧
        (∀ n, (u.line n).fitted = true ∧ (u.line n).ring = [] ∧ (u.line n).tension = none) ∧
        (∀ n, (s.line n).fitted = false → (u.line n).state = .adopting) ∧
        (∀ n ret used, (s.line n).fitted = true → s.berth.phase ≠ .starting →
          (s.line n).state = .rendering ret used →
          (u.line n).state = .rendering ret (min used 3) ∧
          (s.berth.phase ≠ .halted → 3 < used → n.castSucc ∈ u.bus.reportLane)) ∧
        u.berth.causes.has .profileFault = true ∧ u.berth.present.has .profileFault = true ∧
        u.notice .profileEvent = true ∧ u.report.divider = 0 ∧
        (s.berth.phase.silent = false → u.berth.phase = .lockdown) ∧
        (s.berth.phase.silent = true → u.berth.phase = s.berth.phase) ∧
        (s.berth.phase ≠ .starting → 12 ∈ u.bus.reportLane) ∧
        (s.berth.phase.silent = false → ∀ n, (s.line n).fitted = false →
          n.castSucc ∈ u.bus.reportLane) ∧
        (let waits := fun m => (x.line m).probeWaiting = true ∨ ∃ r, x.scan.pass = .probing m r
         let scan := { s.scan with
            plan := planOf fallbackImage, mode := scanMode fallbackImage
            pass := u.scan.pass, pacing := u.scan.pacing }
         u.scan = scan ∧
          (s.supply.stage = .adoptRead → u.scan.pass = .idle ∧ u.scan.pacing = none ∧
            ∀ n, (u.line n).probeWaiting = (x.line n).probeWaiting) ∧
          (s.supply.stage ≠ .adoptRead → s.supply.stage ≠ .profileLoad →
            (∀ m, waits m → (∀ k, k < m → ¬ waits k) → u.scan.pass = .probing m (some 0) ∧
              ∀ n, (u.line n).probeWaiting = true ↔ n ≠ m ∧ waits n) ∧
            ((∀ m, ¬ waits m) → u.scan.pass = .running 0) ∧
            u.scan.pacing = match scanMode fallbackImage with
              | .paced => some (pacingPeriod fallbackImage)
              | .continuous => none)) ∧
        (s.Sound → s.berth.phase = .vacant ∨ s.berth.phase = .arrival ∨ s.berth.phase = .secured ∨
            s.berth.phase = .departure →
          ∃ v, (∀ n,
              v.line n = { x.line n with
                state := (v.line n).state, tension := none, cls := .noClass, overRun := 0, slackRun := 0
                ring := [], probeWaiting := (v.line n).probeWaiting } ∧
              ((∀ ret used, (x.line n).state ≠ .rendering ret used) →
                (v.line n).state = (x.line n).state) ∧
              ∀ ret used, (x.line n).state = .rendering ret used →
                (v.line n).state = .rendering ret (min used 3)) ∧
            (∀ n, (v.entry n).map (fun e => (e.tag, e.kind)) =
              (x.entry n).map fun e => (e.tag, e.kind)) ∧
            v.bus.orderLane = x.bus.orderLane ∧ v.berth = s.berth ∧ v.atTick = true ∧
            EnteredLockdown .profileFault v u))

/-! ### Conversions -/

/-- LINE_CONVERSION_COMPLETE: the pass moves to the next position and the line's record takes the sample
by the conversion and classification of the manual; the line table then takes it for a fitted line, and the
hold queue for the entry of the line. That the pass has moved on before the sample is handed on is log 19. -/
def Obligations.LineSampleRecorded : Prop :=
  (∀ (raw : BitVec 12) (p : Nat) (n : LineId) (s : State), s.supply.powered = true →
    s.scan.pass = .running p → s.scan.plan[p]? = some (.line n) →
    (∃ v, v = { s with lines := v.lines, scan := { s.scan with pass := .running (p + 1) } } ∧
      TookSample s v n raw.toNat ∧
      v.line n = { s.line n with
        tension := (v.line n).tension, cls := (v.line n).cls, overRun := (v.line n).overRun
        slackRun := (v.line n).slackRun, ring := (v.line n).ring } ∧
      (∀ m, m ≠ n → v.line m = s.line m) ∧
      exec (.lineConversionComplete raw) s = .next (arbitrate (sampleEntry n false
        (if (s.line n).fitted then sampleEvent n v else v)))) ∧
    (s.queue = [] →
      ∃ u, exec (.lineConversionComplete raw) s = .next (arbitrate u) ∧
        u.scan = { s.scan with pass := .running (p + 1) } ∧ TookSample s u n raw.toNat ∧
        (u.line n).fitted = (s.line n).fitted ∧
        (∀ m, m ≠ n → u.line m = s.line m) ∧ u.profile = s.profile)) ∧
  (∀ (img : List Word) (n : LineId) (raw : Nat),
    tensionOf img n raw = if raw < zeroOffset img n then 0
      else min 16383 ((raw - zeroOffset img n) * spanFactor img n / 4096)) ∧
  (∀ (img : List Word) (n : LineId) (t : Nat),
    classOf img n t = if t > renderLimit img n then .over else if t > bandMax img n then .high
      else if t ≥ bandMin img n then .inBand else if t ≥ slackLimit img n then .low else .slack)

/-- What a sample event does to its line, by its state: render entry on OVER persistence, the end of a haul,
LINE_SLACK, the take-up of a STANDING line, SLIPPING to SLACK, a snag, the end of a render, the derivation of
an ADOPTING line in service, each with its pair in the order lane; every other sample changes nothing. Of the
change `w` the hold queue is told, and with an empty queue nothing more comes of it; no other line is
touched. Timers are loaded by log 17. -/
def Obligations.SampleActs : Prop :=
  ∀ (n : LineId) (s : State), ∃ w : State,
    let l := s.line n
    let l' := w.line n
    let overMet := l.cls = .over ∧ renderPersistence s.image ≤ l.overRun
    let slackMet := l.cls = .slack ∧ slackPersistence s.image ≤ l.slackRun
    let pair := fun k a => ⟨n, composeArgument a, composeOrder k 0⟩ ∈ w.bus.orderLane
    let noPair := l'.lastPart = l.lastPart ∧ w.bus.orderLane = s.bus.orderLane
    let renders := fun ret => l'.state = .rendering ret 1 ∧ l'.notice = true ∧
      l'.lastPart = some ⟨.ease, .renderStep⟩ ∧
      l'.run = some ⟨renderStep s.image n, renderStep s.image n⟩ ∧
      l'.stall = some (s.ticksFor (stallTime s.image)) ∧ pair .ease (renderStep s.image n)
    (l'.state ≠ l.state → sampleEvent n s = settle n w) ∧
    (l'.state = l.state → w = s ∧ sampleEvent n s = s) ∧
    (s.queue = [] → (sampleEvent n s).lines = w.lines ∧ (sampleEvent n s).queue = [] ∧
      (sampleEvent n s).bus.orderLane = w.bus.orderLane) ∧
    w.queue = s.queue ∧ w.scan = s.scan ∧ w.berth = s.berth ∧ w.profile = s.profile ∧
    w.supply = s.supply ∧ w.report.notices = s.report.notices ∧ (∀ m, m ≠ n → w.line m = s.line m) ∧
    TakenIn s l l' ∧
    (overMet → ∀ v, l.state = .hauling v → renders .locked) ∧
    (overMet → l.state = .locked ∨ l.state = .standing → renders .locked) ∧
    (overMet → l.state = .tending → renders .tending) ∧
    (¬ overMet → ∀ v t, l.state = .hauling v → l.tension = some t → v ≤ t →
      l'.state = .locked ∧ l'.lastPart = some ⟨.lock, .haulReached⟩ ∧ pair .lock 0) ∧
    (¬ overMet → ∀ v, l.state = .hauling v → (∀ t, l.tension = some t → t < v) → w = s) ∧
    (slackMet → l.state = .locked →
      l'.state = .faulted .lineSlack ∧ l'.notice = true ∧ noPair) ∧
    (slackMet → l.state = .tending → l'.state = .faulted .lineSlack ∧ l'.notice = true ∧
      l'.lastPart = some ⟨.lock, .lineSlack⟩ ∧ pair .lock 0) ∧
    (¬ overMet → ¬ slackMet → l.state = .locked ∨ l.state = .tending → w = s) ∧
    (slackMet → l.state = .slipping → l'.state = .slack ∧ noPair) ∧
    (¬ slackMet → l.state = .slipping → w = s) ∧
    (¬ overMet → l.state = .standing → l.cls = .inBand ∨ l.cls = .high ∨ l.cls = .over →
      l'.state = .locked ∧ noPair) ∧
    (l.state = .standing → l.cls = .slack ∨ l.cls = .low ∨ l.cls = .noClass → w = s) ∧
    (l.state = .rewinding → l.cls ≠ .noClass → l.cls ≠ .slack →
      l'.state = .faulted .snag ∧ l'.notice = true ∧ l'.lastPart = some ⟨.lock, .snag⟩ ∧
      pair .lock 0) ∧
    (l.state = .rewinding → l.cls = .noClass ∨ l.cls = .slack → w = s) ∧
    (∀ used, l.state = .rendering .locked used → l.cls = .slack ∨ l.cls = .low ∨ l.cls = .inBand →
      l'.state = .locked ∧ l'.lastPart = some ⟨.lock, .renderReturn⟩ ∧ pair .lock 0) ∧
    (∀ used, l.state = .rendering .tending used → l.cls = .slack ∨ l.cls = .low ∨ l.cls = .inBand →
      l'.state = .tending ∧ l'.lastPart = some ⟨.tend, .renderReturn⟩ ∧ pair .tend 0) ∧
    (∀ ret used, l.state = .rendering ret used → l.cls = .high ∨ l.cls = .over ∨ l.cls = .noClass →
      w = s) ∧
    (l.state = .adopting → s.berth.phase.silent = false → l'.state = derivedState l ∧
      (l.stowMade = true → l'.payout = 0) ∧ (l.stowMade = false → l'.payout = l.payout) ∧
      (l.brakeSet = false → l'.lastPart = some ⟨.lock, .derivation⟩ ∧ pair .lock 0) ∧
      (l.brakeSet = true → noPair)) ∧
    ((∃ v, l.state = .paying v) ∨ l.state = .parked ∨ l.state = .slack ∨
      (∃ r, l.state = .faulted r) ∨ (l.state = .adopting ∧ s.berth.phase.silent = true) → w = s)

/-- REFERENCE_CONVERSION_COMPLETE in service: the count and the state of the reference, the records made
stale on entry to FAULT, LOCKDOWN entered by SENSE_FAULT from the state v that they leave, and the rings
emptied on the clearing of FAULT, the pass ended; outside STARTING and HALTED
the pass divider counts, and at the divider the record of every fitted line is asked for, in ascending line
order. Timers are loaded by log 17. -/
def Obligations.ReferenceJudged : Prop :=
  ∀ (raw : BitVec 12) (p : Nat) (s : State), s.supply.powered = true → s.scan.pass = .running p →
    s.scan.plan[p]? = some .reference → s.supply.stage ≠ .firstPass →
    let good := referenceLow s.image ≤ raw.toNat ∧ raw.toNat ≤ referenceHigh s.image
    let ended := if s.scan.mode = .continuous then Pass.running 0 else .idle
    ∃ u, exec (.referenceConversionComplete raw) s = .next (arbitrate u) ∧
      u.profile = s.profile ∧ u.supply = s.supply ∧
      let refreshes := s.berth.phase.silent = false ∧
        s.report.divider + 1 = reportDivider s.image
      let kept := u.lines = s.lines ∧ u.queue = s.queue ∧ u.berth = s.berth ∧
        (¬ refreshes → u.bus = s.bus) ∧
        (refreshes → u.bus = { s.bus with
          reportLane := s.bus.reportLane ++
            ((allLines.filter fun n => (s.line n).fitted).map Fin.castSucc).filter
              fun r => r ∉ s.bus.reportLane })
      (refreshes → u.report.divider = 0 ∧
        ∀ n : LineId, (s.line n).fitted = true → n.castSucc ∈ u.bus.reportLane) ∧
      (¬ refreshes → s.berth.phase.silent = false →
        u.report.divider = s.report.divider + 1) ∧
      (s.berth.phase.silent = true → u.report.divider = s.report.divider) ∧
      (s.scan.ref = .ok → good → u.scan = { s.scan with refCount := 0, pass := ended } ∧ kept) ∧
      (s.scan.ref = .ok → ¬ good → s.scan.refCount = 0 →
        u.scan = { s.scan with refCount := 1, pass := ended } ∧ kept) ∧
      (s.scan.ref = .ok → ¬ good → 1 ≤ s.scan.refCount →
        u.scan = { s.scan with ref := .fault, refCount := 0, pass := ended } ∧
        u.berth.causes = s.berth.causes ||| LockdownCause.senseFault.bit ∧
        u.berth.present = s.berth.present ||| LockdownCause.senseFault.bit ∧
        (s.berth.phase.silent = false → u.berth.phase = .lockdown ∧
          ∀ n, (s.line n).fitted = true → n.castSucc ∈ u.bus.reportLane) ∧
        (∀ n, (u.line n).tension = none ∧ (u.line n).cls = .noClass ∧ (u.line n).overRun = 0 ∧
          (u.line n).slackRun = 0 ∧ (u.line n).ring = (s.line n).ring) ∧
        ∃ v, v = { s with lines := v.lines } ∧
          (∀ n, v.line n = { s.line n with
            tension := none, cls := .noClass, overRun := 0, slackRun := 0 }) ∧
          (s.berth.phase.silent = true ∨ s.berth.phase = .lockdown → u.lines = v.lines ∧
            u.queue = s.queue ∧ u.bus.orderLane = s.bus.orderLane ∧
            u.berth.phase = s.berth.phase ∧ u.berth.silence = s.berth.silence) ∧
          (s.berth.phase = .lockdown → s.berth.causes.has .senseFault = false →
            u.notice .lockdownEntered = true ∧ 12 ∈ u.bus.reportLane) ∧
          (s.Sound → s.berth.phase = .vacant ∨ s.berth.phase = .arrival ∨ s.berth.phase = .secured ∨
            s.berth.phase = .departure → EnteredLockdown .senseFault v u)) ∧
      (s.scan.ref = .fault → ¬ good →
        u.scan = { s.scan with refCount := 0, pass := ended } ∧ kept) ∧
      (s.scan.ref = .fault → good → s.scan.refCount = 0 →
        u.scan = { s.scan with refCount := 1, pass := ended } ∧ kept) ∧
      (s.scan.ref = .fault → good → 1 ≤ s.scan.refCount →
        u.scan = { s.scan with ref := .ok, refCount := 0, pass := ended } ∧
        (∀ n, u.line n = { s.line n with ring := [] }) ∧ u.queue = s.queue ∧
        u.bus.orderLane = s.bus.orderLane ∧ u.berth = { s.berth with
          present := s.berth.present &&& ~~~LockdownCause.senseFault.bit } ∧
        (s.berth.phase.silent = false → 12 ∈ u.bus.reportLane ∧
          ∀ n, (s.line n).fitted = true → n.castSucc ∈ u.bus.reportLane))

/-- PROBE_CONVERSION_COMPLETE: the record takes the sample as from a pass, the line table and the hold queue
take it, as from a probe, and the scan goes on with the lowest line that waits, the pass cut off, or none. The
PROBING entry of the line whose probe begins is marked by log 18. -/
def Obligations.ProbeConversion : Prop :=
  (∀ (raw : BitVec 12) (n : LineId) (resume : Option Nat) (s : State), s.supply.powered = true →
    s.scan.pass = .probing n resume →
    ∃ v, v = { s with lines := v.lines } ∧ TookSample s v n raw.toNat ∧
      v.line n = { s.line n with
        tension := (v.line n).tension, cls := (v.line n).cls, overRun := (v.line n).overRun
        slackRun := (v.line n).slackRun, ring := (v.line n).ring } ∧
      (∀ m, m ≠ n → v.line m = s.line m) ∧
      let u := sampleEntry n true (if (s.line n).fitted then sampleEvent n v else v)
      exec (.probeConversionComplete raw) s = .next (arbitrate (nextProbe resume u)) ∧
      TookSample s u n raw.toNat ∧ u.scan.pass = .probing n resume ∧ u.profile = s.profile) ∧
  (∀ (resume : Option Nat) (v : State),
    (∀ m, (v.line m).probeWaiting = true → (∀ k, k < m → (v.line k).probeWaiting = false) →
      (nextProbe resume v).scan = { v.scan with pass := .probing m resume } ∧
      (nextProbe resume v).line m = { v.line m with probeWaiting := false } ∧
      (∀ k, k ≠ m → (nextProbe resume v).line k = v.line k) ∧
      nextProbe resume v = { v with
        lines := (nextProbe resume v).lines
        queue := v.queue.map fun e =>
          if e.line = m ∧ e.stage = .probing then { e with probeBegun := true } else e
        scan := { v.scan with pass := .probing m resume } }) ∧
    ((∀ m, (v.line m).probeWaiting = false) →
      nextProbe resume v = { v with scan := { v.scan with pass := match resume with
        | some p => .running p
        | none => .idle } }))

/-- The hold queue's judgement of a sample. A probe result with the three gates open forwards the SLIP where
the tension is fresh and at or below the slip limit, and walks follow; any other result fails the probe; with
a gate closed it is not used. An ordinary sample clears the failed mark where its tension is so, and the
entry is judged as at any walk, its request taken after it (log 32). Without an entry, and for a REWIND, a
sample does nothing. Timers are loaded by log 17; which sample is the probe result is told by log 18. -/
def Obligations.ProbeResult : Prop :=
  (∀ (n : LineId) (probe : Bool) (s : State), (∀ e, s.entry n = some e → e.kind = .rewind) →
    sampleEntry n probe s = s) ∧
  (∀ (n : LineId) (e : Entry) (s : State), s.entry n = some e → e.kind = .slip →
    e.stage = .probing → e.probeBegun = true →
    (s.Open n → s.Free n → ∃ t, Forwarded e s t ∧
      sampleEntry n true s = autoVacant (reevaluate t)) ∧
    (s.Open n → ¬ s.Free n → ∃ g, s.Closed n g ∧
      let u := sampleEntry n true s
      u.entry n = some { e with closed := g, stage := .waiting, failed := true, probeBegun := false } ∧
      u.lines = s.lines ∧ u.bus.orderLane = s.bus.orderLane ∧ u.scan = s.scan ∧ u.berth = s.berth ∧
      ∀ m, m ≠ n → u.entry m = s.entry m) ∧
    (¬ s.Open n → sampleEntry n true s = judgeEntry n s)) ∧
  (∀ (n : LineId) (e : Entry) (probe : Bool) (s : State), s.entry n = some e → e.kind = .slip →
    ¬ (probe = true ∧ e.stage = .probing ∧ e.probeBegun = true) →
    ∃ s', (∀ m, m ≠ n → s'.entry m = s.entry m) ∧ s' = { s with queue := s'.queue } ∧
      (s.Free n → s'.entry n = some { e with failed := false }) ∧
      (¬ s.Free n → s'.entry n = some e) ∧ sampleEntry n probe s = takeProbes (judgeEntry n s')) ∧
  ∀ (n : LineId) (e : Entry) (s : State), s.queue = [e] → e.line = n → e.kind = .slip →
    e.stage = .probing → e.probeBegun = true → s.Open n → s.berth.phase = .departure →
    (s.Free n →
      let u := sampleEntry n true s
      u.queue = [] ∧ (u.line n).state = .slipping ∧
      (u.line n).slip = some (s.ticksFor (slipTimeLimit s.image)) ∧
      (u.line n).lastHost = ⟨some (e.tag, .slip), some .forwarded, (s.line n).lastHost.superseded⟩ ∧
      ⟨n, composeArgument 0, composeOrder .slip e.tag⟩ ∈ u.bus.orderLane ∧
      (∀ m, m ≠ n → u.line m = s.line m)) ∧
    (¬ s.Free n →
      let u := sampleEntry n true s
      let failed : Entry := { e with
        closed := ⟨false, false, false, true, false⟩
        stage := .waiting
        failed := true
        probeBegun := false }
      u.queue = [failed] ∧
      u.lines = s.lines ∧ u.bus.orderLane = s.bus.orderLane ∧ u.scan = s.scan)

end
end

