-- ==== Sys2Proof/Laws/State.lean ====
section
/-! SUPPORT. The small lemmas of the state: what a line reads after an update, one lemma per field and
update, and the two ways to reason about an operation taken on each line. -/

namespace Sys2Proof.Machine

/-! ### Lines -/

/-- Line `m` after a change of line `n`. -/
@[simp] theorem line_modLine (n m : LineId) (f : Line → Line) (s : State) :
    (modLine n f s).line m = if m = n then f (s.line n) else s.line m := by
  by_cases h : m = n
  · subst h
    rw [if_pos rfl]
    exact Vector.getElem_set_self m.isLt
  · have h' : n.val ≠ m.val := fun e => h (Fin.ext e.symm)
    simp only [modLine, State.line, if_neg h]
    exact Vector.getElem_set_ne n.isLt m.isLt h'

theorem line_modLine_self (n : LineId) (f : Line → Line) (s : State) :
    (modLine n f s).line n = f (s.line n) := by simp

@[simp] theorem line_mk (pe : List Instr) (ls : Vector Line 12) (q : List Entry) (sc : Scan)
    (b : Berth) (pr : Profile) (bu : Bus) (r : Reporting) (su : Supply) (t : Nat) (a : Bool)
    (n : LineId) : State.line ⟨pe, ls, q, sc, b, pr, bu, r, su, t, a⟩ n = ls.get n := rfl

@[simp] theorem lines_get (s : State) (n : LineId) : s.lines.get n = s.line n := rfl

@[simp] theorem image_mk (pe : List Instr) (ls : Vector Line 12) (q : List Entry) (sc : Scan)
    (b : Berth) (pr : Profile) (bu : Bus) (r : Reporting) (su : Supply) (t : Nat) (a : Bool) :
    State.image ⟨pe, ls, q, sc, b, pr, bu, r, su, t, a⟩ = pr.active := rfl

/-- Every line number stands in the list of lines. -/
theorem mem_allLines (n : LineId) : n ∈ allLines := by revert n; decide

/-! ### An operation on each line -/

/-- What each operation on a line keeps, the operation on every line keeps. -/
theorem eachLine_keeps {P : State → Prop} {f : LineId → State → State}
    (h : ∀ n t, P t → P (f n t)) {s : State} (hs : P s) : P (eachLine f s) := by
  unfold eachLine
  generalize allLines = l
  induction l generalizing s with
  | nil => exact hs
  | cons n l ih => exact ih (h n s hs)

/-- What each operation on a line leaves as it was, the operation on every line leaves as it was. -/
theorem eachLine_same {α : Type} (g : State → α) {f : LineId → State → State}
    (h : ∀ n t, g (f n t) = g t) (s : State) : g (eachLine f s) = g s :=
  eachLine_keeps (P := fun t => g t = g s) (fun n t e => (h n t).trans e) rfl

theorem line_foldl_modLine (g : LineId → Line → Line) (m : LineId) (l : List LineId)
    (hl : l.Nodup) (s : State) :
    (l.foldl (fun t n => modLine n (g n) t) s).line m
      = if m ∈ l then g m (s.line m) else s.line m := by
  induction l generalizing s with
  | nil => simp
  | cons n l ih =>
    obtain ⟨hn, hl⟩ := List.nodup_cons.mp hl
    rw [List.foldl_cons, ih hl]
    by_cases h : m = n
    · subst h; simp [hn]
    · simp [h]

/-- Line `m` after a change of every line. -/
@[simp] theorem line_eachLine_modLine (g : LineId → Line → Line) (m : LineId) (s : State) :
    (eachLine (fun n => modLine n (g n)) s).line m = g m (s.line m) := by
  unfold eachLine
  rw [line_foldl_modLine g m allLines (by decide) s, if_pos (mem_allLines m)]

/-! A change of every line leaves the rest of the state alone. -/

@[simp] theorem eachLine_modLine_pending (g : LineId → Line → Line) (s : State) :
    (eachLine (fun n => modLine n (g n)) s).pending = s.pending := eachLine_same State.pending (fun _ _ => rfl) s

@[simp] theorem eachLine_modLine_queue (g : LineId → Line → Line) (s : State) :
    (eachLine (fun n => modLine n (g n)) s).queue = s.queue := eachLine_same State.queue (fun _ _ => rfl) s

@[simp] theorem eachLine_modLine_scan (g : LineId → Line → Line) (s : State) :
    (eachLine (fun n => modLine n (g n)) s).scan = s.scan := eachLine_same State.scan (fun _ _ => rfl) s

@[simp] theorem eachLine_modLine_berth (g : LineId → Line → Line) (s : State) :
    (eachLine (fun n => modLine n (g n)) s).berth = s.berth := eachLine_same State.berth (fun _ _ => rfl) s

@[simp] theorem eachLine_modLine_profile (g : LineId → Line → Line) (s : State) :
    (eachLine (fun n => modLine n (g n)) s).profile = s.profile := eachLine_same State.profile (fun _ _ => rfl) s

@[simp] theorem eachLine_modLine_bus (g : LineId → Line → Line) (s : State) :
    (eachLine (fun n => modLine n (g n)) s).bus = s.bus := eachLine_same State.bus (fun _ _ => rfl) s

@[simp] theorem eachLine_modLine_report (g : LineId → Line → Line) (s : State) :
    (eachLine (fun n => modLine n (g n)) s).report = s.report := eachLine_same State.report (fun _ _ => rfl) s

@[simp] theorem eachLine_modLine_supply (g : LineId → Line → Line) (s : State) :
    (eachLine (fun n => modLine n (g n)) s).supply = s.supply := eachLine_same State.supply (fun _ _ => rfl) s

@[simp] theorem eachLine_modLine_ticks (g : LineId → Line → Line) (s : State) :
    (eachLine (fun n => modLine n (g n)) s).ticks = s.ticks := eachLine_same State.ticks (fun _ _ => rfl) s

@[simp] theorem eachLine_modLine_atTick (g : LineId → Line → Line) (s : State) :
    (eachLine (fun n => modLine n (g n)) s).atTick = s.atTick := eachLine_same State.atTick (fun _ _ => rfl) s

end Sys2Proof.Machine
end

