-- ==== Sys2Proof/Laws/Addressed.lean ====
section
/-! SUPPORT. Which word of the mailbox region a command meets: the word a row names is classified as its
target, and a part that takes words takes it in the event. -/

namespace Sys2Proof.Machine

/-- The address of word `j` of the region in force is classified as that word (R140, R142). -/
theorem classify_regionWord (base : BitVec 6) {j : Nat} (h : j < 1024) :
    classify base (regionWord base j) = targetOf j := by
  have hb := base.isLt
  have e : (regionWord base j).toNat = base.toNat * 4096 + 4 * j := by
    simp only [regionWord, BitVec.toNat_ofNat]
    omega
  unfold classify
  rw [e, if_pos (by omega)]
  congr 1
  omega

theorem targetOf_argumentAt : ∀ n : LineId, targetOf (2 * n.val) = .argument n := by decide

theorem targetOf_orderAt : ∀ n : LineId, targetOf (2 * n.val + 1) = .order n := by decide

theorem targetOf_status : ∀ (r : RecId) (k : Fin 4), targetOf (64 + 4 * r.val + k.val) = .status r k := by
  decide

theorem targetOf_statusArea : ∀ i : Fin 52, ∃ r k, targetOf (64 + i.val) = .status r k := by
  intro i
  refine ⟨Fin.ofNat 13 (i.val / 4), Fin.ofNat 4 i.val, ?_⟩
  revert i
  decide

theorem targetOf_profile : ∀ i : Fin 128, targetOf (128 + i.val) = .profile i := by decide +kernel

/-- A write of word `j`, taken in the event. -/
theorem present_write {s : State} {j : Nat} {w : Word} {be : ByteEnables} (hp : s.supply.powered = true)
    (hu : s.uwait = false) (hj : j < 1024) :
    present ⟨true, regionWord s.bus.base j, w, be⟩ s =
      arbitrate (takeWrite ⟨true, regionWord s.bus.base j, w, be⟩ (targetOf j) s) := by
  unfold present
  rw [if_neg (by simp [hp]), if_neg (by simp [hu])]
  unfold takeTransfer
  rw [if_pos rfl, classify_regionWord _ hj]

/-- A read of word `j`, taken in the event. -/
theorem present_read {s : State} {j : Nat} {be : ByteEnables} (hp : s.supply.powered = true)
    (hu : s.uwait = false) (hj : j < 1024) :
    present ⟨false, regionWord s.bus.base j, 0, be⟩ s =
      arbitrate (takeRead ⟨false, regionWord s.bus.base j, 0, be⟩ (targetOf j) s) := by
  unfold present
  rw [if_neg (by simp [hp]), if_neg (by simp [hu])]
  unfold takeTransfer
  rw [if_neg (by simp), classify_regionWord _ hj]

theorem guarded_taken {s : State} {owner : State → State} (h : s.berth.phase.silent = false) :
    guarded owner s = owner (hostActivity s) := by
  unfold guarded
  rw [if_neg (by simp [h])]

/-- A write of an argument word, taken in the event. -/
theorem hostWrite_argument {s : State} (h : s.takesWords) (n : LineId) (w : Word) (be : ByteEnables) :
    hostWrite (argumentAt n) w be s = arbitrate (writeArgument n w be (hostActivity s)) := by
  unfold hostWrite
  rw [present_write h.1 h.2.1 (by unfold argumentAt; omega)]
  simp only [argumentAt, targetOf_argumentAt, takeWrite, guarded_taken h.2.2]

/-- A write of an order word, taken in the event. -/
theorem hostWrite_order {s : State} (h : s.takesWords) (n : LineId) (w : Word) (be : ByteEnables) :
    hostWrite (orderAt n) w be s = arbitrate (writeOrder n w be (hostActivity s)) := by
  unfold hostWrite
  rw [present_write h.1 h.2.1 (by unfold orderAt; omega)]
  simp only [orderAt, targetOf_orderAt, takeWrite, guarded_taken h.2.2]

/-- A write of the group word, taken in the event. -/
theorem hostWrite_group {s : State} (h : s.takesWords) (w : Word) (be : ByteEnables) :
    hostWrite 24 w be s = arbitrate (writeGroup w be (hostActivity s)) := by
  unfold hostWrite
  rw [present_write h.1 h.2.1 (by decide), show targetOf 24 = .group from rfl]
  simp only [takeWrite, guarded_taken h.2.2]

/-- A write of the berth request word, taken in the event. -/
theorem hostWrite_request {s : State} (h : s.takesWords) (w : Word) (be : ByteEnables) :
    hostWrite 25 w be s = arbitrate (writeRequest w be (hostActivity s)) := by
  unfold hostWrite
  rw [present_write h.1 h.2.1 (by decide), show targetOf 25 = .request from rfl]
  simp only [takeWrite, guarded_taken h.2.2]

/-- A write of the acknowledge word, taken in the event. -/
theorem hostWrite_acknowledge {s : State} (h : s.takesWords) (w : Word) (be : ByteEnables) :
    hostWrite 26 w be s = arbitrate (writeAcknowledge w be (hostActivity s)) := by
  unfold hostWrite
  rw [present_write h.1 h.2.1 (by decide), show targetOf 26 = .acknowledge from rfl]
  simp only [takeWrite, guarded_taken h.2.2]

/-- A write of the cursor word, taken in the event. -/
theorem hostWrite_cursor {s : State} (h : s.takesWords) (w : Word) (be : ByteEnables) :
    hostWrite 27 w be s = arbitrate (writeCursor w be (hostActivity s)) := by
  unfold hostWrite
  rw [present_write h.1 h.2.1 (by decide), show targetOf 27 = .cursor from rfl]
  simp only [takeWrite, guarded_taken h.2.2]

/-- A write of the commit word, taken in the event. -/
theorem hostWrite_commit {s : State} (h : s.takesWords) (w : Word) (be : ByteEnables) :
    hostWrite 29 w be s = arbitrate (writeCommit w be (hostActivity s)) := by
  unfold hostWrite
  rw [present_write h.1 h.2.1 (by decide), show targetOf 29 = .commit from rfl]
  simp only [takeWrite, guarded_taken h.2.2]

/-- A guarded word written in STARTING or HALTED is dropped (R148). -/
theorem hostWrite_dropped {s : State} (hp : s.supply.powered = true) (hu : s.uwait = false)
    (hs : s.berth.phase.silent = true) {j : Nat} (hj : j < 28 ∨ j = 29) (w : Word) (be : ByteEnables) :
    hostWrite j w be s = arbitrate s := by
  unfold hostWrite
  rw [present_write hp hu (by omega)]
  congr 1
  have key : ∀ owner : State → State, guarded owner s = s := fun owner => by
    unfold guarded
    rw [if_pos hs]
  have cases : j < 24 ∨ j = 24 ∨ j = 25 ∨ j = 26 ∨ j = 27 ∨ j = 29 := by omega
  rcases cases with h | rfl | rfl | rfl | rfl | rfl
  · unfold targetOf
    rw [if_pos h]
    split <;> simp only [takeWrite, key]
  all_goals exact key _

/-! ### The rows by the word they write -/

theorem exec_orderRow {i : Instr} {n : LineId} {w : Word} {be : ByteEnables} (h : OrderRow i n w be)
    (s : State) : exec i s = .next (hostWrite (orderAt n) w be s) := by
  rcases h with rfl | rfl | rfl | rfl | rfl | rfl | rfl | rfl <;> rfl

theorem exec_groupRow {i : Instr} {w : Word} {be : ByteEnables} (h : GroupRow i w be) (s : State) :
    exec i s = .next (hostWrite 24 w be s) := by
  rcases h with rfl | rfl | rfl | rfl <;> rfl

theorem exec_requestRow {i : Instr} {w : Word} {be : ByteEnables} (h : RequestRow i w be) (s : State) :
    exec i s = .next (hostWrite 25 w be s) := by
  rcases h with rfl | rfl | rfl | rfl | rfl | rfl <;> rfl

/-- A good order word goes on to the fitted check. -/
theorem writeOrder_read {n : LineId} {w : Word} {k : OrderKind} {t : Tag} (hc : checkGood w = true)
    (hr : readOrder w = some (k, t)) (s : State) : writeOrder n w 15 s = screen n k t .hostWord s := by
  unfold writeOrder
  rw [if_neg (by simp [isFull]), if_neg (by simp [hc]), hr]

/-- A good group word is screened line by line. -/
theorem writeGroup_read {w : Word} {be : ByteEnables} {k : OrderKind} {t : Tag}
    (hr : readGroup w be = some (k, t)) (s : State) :
    writeGroup w be s = eachLine (fun n u => if groupNames w n then screen n k t .groupWord u else u) s := by
  unfold writeGroup
  rw [hr]

theorem foldl_only {n : LineId} {f : State → State} {g : LineId → Bool} (l : List LineId)
    (hg : ∀ m, g m = decide (m = n)) (hn : n ∈ l) (hl : l.Nodup) (s : State) :
    l.foldl (fun u m => if g m then f u else u) s = f s := by
  have none : ∀ (l : List LineId) (s : State), n ∉ l →
      l.foldl (fun u m => if g m then f u else u) s = s := by
    intro l
    induction l with
    | nil => exact fun _ _ => rfl
    | cons a l ih =>
      intro s h
      have ha : a ≠ n := fun e => h (by rw [e]; exact List.mem_cons_self)
      rw [List.foldl_cons, hg a, if_neg (by simpa using ha)]
      exact ih s fun c => h (List.mem_cons_of_mem _ c)
  induction l with
  | nil => cases hn
  | cons a l ih =>
    obtain ⟨ha, hl⟩ := List.nodup_cons.mp hl
    rw [List.foldl_cons, hg a]
    by_cases e : a = n
    · subst e
      rw [if_pos (by simp)]
      exact none l _ ha
    · rw [if_neg (by simpa using e)]
      exact ih ((List.mem_cons.mp hn).resolve_left (Ne.symm e)) hl

/-- A group word that names one line is screened for that line. -/
theorem writeGroup_one {w : Word} {be : ByteEnables} {k : OrderKind} {t : Tag} {n : LineId}
    (hr : readGroup w be = some (k, t)) (hm : ∀ m, groupNames w m = decide (m = n)) (s : State) :
    writeGroup w be s = screen n k t .groupWord s := by
  rw [writeGroup_read hr]
  have e : ∀ l : List LineId, l.foldl (fun u m => if groupNames w m then screen m k t .groupWord u else u) s
      = l.foldl (fun u m => if groupNames w m then screen n k t .groupWord u else u) s := by
    intro l
    congr 1
    funext u m
    by_cases h : m = n
    · rw [h]
    · rw [hm m, if_neg (by simpa using h), if_neg (by simpa using h)]
  exact (e allLines).trans (foldl_only (f := screen n k t .groupWord) allLines hm (mem_allLines n) (by decide) s)

/-- A command that carries an order screens it from the fitted check on, after the host activity. -/
theorem exec_carries {i : Instr} {n : LineId} {k : OrderKind} {t : Tag} {o : Origin} {s : State}
    (h : Carries i n k t o) (hs : s.takesWords) :
    exec i s = .next (arbitrate (screen n k t o (hostActivity s))) := by
  cases o with
  | hostWord =>
    obtain ⟨w, hr, hc, hw⟩ := h
    rw [exec_orderRow hr, hostWrite_order hs, writeOrder_read hc hw]
  | groupWord =>
    obtain ⟨w, hr, hw, hm⟩ := h
    rw [exec_groupRow hr, hostWrite_group hs, writeGroup_one hw hm]

/-- The fitted check and repeat detection passed (R39, R40). -/
theorem screen_new {n : LineId} {k : OrderKind} {t : Tag} {o : Origin} {s : State}
    (hf : (s.line n).fitted = true) (hr : (s.line n).lastHost.order ≠ some (t, k)) :
    screen n k t o s = judgeOrder n k t o (s.line n).latch (useLatch n k s) := by
  unfold screen
  rw [if_neg (by simp [hf]), if_neg hr]

/-! Host activity touches the host-silence timer alone. -/

@[simp] theorem hostActivity_line (s : State) (n : LineId) : (hostActivity s).line n = s.line n := rfl
@[simp] theorem hostActivity_lines (s : State) : (hostActivity s).lines = s.lines := rfl
@[simp] theorem hostActivity_entry (s : State) (n : LineId) : (hostActivity s).entry n = s.entry n := rfl
@[simp] theorem hostActivity_queue (s : State) : (hostActivity s).queue = s.queue := rfl
@[simp] theorem hostActivity_image (s : State) : (hostActivity s).image = s.image := rfl
@[simp] theorem hostActivity_profile (s : State) : (hostActivity s).profile = s.profile := rfl
@[simp] theorem hostActivity_supply (s : State) : (hostActivity s).supply = s.supply := rfl
@[simp] theorem hostActivity_scan (s : State) : (hostActivity s).scan = s.scan := rfl
@[simp] theorem hostActivity_bus (s : State) : (hostActivity s).bus = s.bus := rfl
@[simp] theorem hostActivity_report (s : State) : (hostActivity s).report = s.report := rfl
@[simp] theorem hostActivity_phase (s : State) :
    (hostActivity s).berth.phase = s.berth.phase := rfl
@[simp] theorem hostActivity_ticksFor (s : State) (ms : Nat) :
    (hostActivity s).ticksFor ms = s.ticksFor ms := rfl

end Sys2Proof.Machine
end

