-- ==== Sys2Proof/Laws/Walks.lean ====
section
/-! SUPPORT. How to reason about a walk of the hold queue and about the flush: what one judgement keeps,
the whole re-evaluation keeps. -/

namespace Sys2Proof.Machine

variable {P : State → Prop}

/-- What each operation of a list keeps, the run over the list keeps. -/
theorem foldl_keeps {α : Type} {f : State → α → State} (h : ∀ t a, P t → P (f t a)) (l : List α)
    {s : State} (hs : P s) : P (l.foldl f s) := by
  induction l generalizing s with
  | nil => exact hs
  | cons a l ih => exact ih (h s a hs)

theorem walkOnce_keeps (h : ∀ n t, P t → P (judgeEntry n t)) {s : State} (hs : P s) :
    P (walkOnce s) := foldl_keeps (fun t n => h n t) _ hs

theorem walks_keeps (h : ∀ n t, P t → P (judgeEntry n t)) (fuel : Nat) {s : State} (hs : P s) :
    P (walks fuel s) := by
  induction fuel generalizing s with
  | zero => exact hs
  | succ fuel ih =>
    unfold walks
    split
    · exact ih (walkOnce_keeps h hs)
    · exact walkOnce_keeps h hs

theorem rewalk_keeps (h : ∀ n t, P t → P (judgeEntry n t)) {s : State} (hs : P s) :
    P (rewalk s) := walks_keeps h _ hs

/-! ### Probe requests (R96 to R98) -/

theorem line_beginProbe (n : LineId) (resume : Option Nat) (s : State) :
    (beginProbe n resume s).line n = { s.line n with probeWaiting := false } :=
  line_modLine_self n (fun l => { l with probeWaiting := false }) s

theorem line_joinProbe (n : LineId) (s : State) :
    (joinProbe n s).line n = { s.line n with probeWaiting := true } :=
  line_modLine_self n (fun l => { l with probeWaiting := true }) s

/-- The line whose request is taken has an entry, and its request waits. -/
theorem lowestAsked_some {s : State} {m : LineId} (h : lowestAsked s = some m) :
    (s.line m).probeWaiting = true ∧ (s.entry m).isSome = true := by
  have := List.find?_some h
  rwa [Bool.and_eq_true] at this

theorem takeProbes_of_empty {s : State} (h : s.queue = []) : takeProbes s = s := by
  unfold takeProbes
  split
  · rename_i m hm
    have := (lowestAsked_some hm).2
    simp [State.entry, h] at this
  · rfl

/-- What a request of a line with an entry keeps, the taking of the requests keeps. -/
theorem takeProbes_keeps {s : State} (h : ∀ m, (s.entry m).isSome = true → P (requestProbe m s))
    (hs : P s) : P (takeProbes s) := by
  unfold takeProbes
  split
  · rename_i m hm
    exact h m (lowestAsked_some hm).2
  · exact hs

/-- What one judgement and one probe request keep, the re-evaluation keeps. -/
theorem reevaluate_keeps (h : ∀ n t, P t → P (judgeEntry n t)) (hp : ∀ n t, P t → P (requestProbe n t))
    {s : State} (hs : P s) : P (reevaluate s) :=
  have hw := rewalk_keeps h hs
  takeProbes_keeps (fun m _ => hp m _ hw) hw

/-- An empty queue has nothing to judge. -/
theorem reevaluate_of_empty {s : State} (h : s.queue = []) : reevaluate s = s := by
  have : rewalk s = s := by simp [rewalk, walks, walkOnce, h]
  unfold reevaluate
  rw [this, takeProbes_of_empty h]

theorem reevaluateChanged_keeps {old s : State} (h : ∀ t, P t → P (reevaluate t)) (hs : P s) :
    P (reevaluateChanged old s) :=
  eachLine_keeps (fun _ t ht => by split; exacts [ht, h t ht]) hs

theorem reevaluateChanged_of_empty {s : State} (h : s.queue = []) (old : State) :
    reevaluateChanged old s = s :=
  reevaluateChanged_keeps (P := fun t => t = s) (fun t e => by rw [e]; exact reevaluate_of_empty h) rfl

theorem reevaluateChanged_of_same {old s : State} (h : ∀ n, (s.line n).state = (old.line n).state) :
    reevaluateChanged old s = s :=
  eachLine_keeps (P := fun t => t = s) (fun n _ e => by rw [if_pos (h n)]; exact e) rfl

/-- What each ending keeps, the flush keeps. -/
theorem flush_keeps (he : ∀ e t, P t → P (endEntry .flushed e t)) (hb : ∀ t, P t → P (askBerth t))
    {s : State} (hs : P s) : P (flush s) := by
  unfold flush
  split
  · exact hs
  · exact hb _ (foldl_keeps (fun t e => he e t) _ hs)

end Sys2Proof.Machine
end

