-- ==== Sys2Proof/Laws/Frames.lean ====
section
/-! SUPPORT. What the operations of Ops, Effects and Queue leave as it was: one lemma for each operation and
each part of the state that it does not touch. -/

namespace Sys2Proof.Machine

/-! modLine -/
@[simp] theorem modLine_pending (n : LineId) (f : Line → Line) (s : State) :
    (modLine n f s).pending = s.pending := rfl
@[simp] theorem modLine_queue (n : LineId) (f : Line → Line) (s : State) :
    (modLine n f s).queue = s.queue := rfl
@[simp] theorem modLine_scan (n : LineId) (f : Line → Line) (s : State) :
    (modLine n f s).scan = s.scan := rfl
@[simp] theorem modLine_berth (n : LineId) (f : Line → Line) (s : State) :
    (modLine n f s).berth = s.berth := rfl
@[simp] theorem modLine_profile (n : LineId) (f : Line → Line) (s : State) :
    (modLine n f s).profile = s.profile := rfl
@[simp] theorem modLine_bus (n : LineId) (f : Line → Line) (s : State) :
    (modLine n f s).bus = s.bus := rfl
@[simp] theorem modLine_report (n : LineId) (f : Line → Line) (s : State) :
    (modLine n f s).report = s.report := rfl
@[simp] theorem modLine_supply (n : LineId) (f : Line → Line) (s : State) :
    (modLine n f s).supply = s.supply := rfl
@[simp] theorem modLine_ticks (n : LineId) (f : Line → Line) (s : State) :
    (modLine n f s).ticks = s.ticks := rfl
@[simp] theorem modLine_atTick (n : LineId) (f : Line → Line) (s : State) :
    (modLine n f s).atTick = s.atTick := rfl
@[simp] theorem image_modLine (n : LineId) (f : Line → Line) (s : State) :
    (modLine n f s).image = s.image := by simp [State.image]
/-! askRecord -/
@[simp] theorem askRecord_pending (r : RecId) (s : State) :
    (askRecord r s).pending = s.pending := by
  unfold askRecord
  split <;> simp
@[simp] theorem askRecord_queue (r : RecId) (s : State) : (askRecord r s).queue = s.queue := by
  unfold askRecord
  split <;> simp
@[simp] theorem askRecord_scan (r : RecId) (s : State) : (askRecord r s).scan = s.scan := by
  unfold askRecord
  split <;> simp
@[simp] theorem askRecord_berth (r : RecId) (s : State) : (askRecord r s).berth = s.berth := by
  unfold askRecord
  split <;> simp
@[simp] theorem askRecord_profile (r : RecId) (s : State) :
    (askRecord r s).profile = s.profile := by
  unfold askRecord
  split <;> simp
@[simp] theorem askRecord_report (r : RecId) (s : State) : (askRecord r s).report = s.report := by
  unfold askRecord
  split <;> simp
@[simp] theorem askRecord_supply (r : RecId) (s : State) : (askRecord r s).supply = s.supply := by
  unfold askRecord
  split <;> simp
@[simp] theorem askRecord_ticks (r : RecId) (s : State) : (askRecord r s).ticks = s.ticks := by
  unfold askRecord
  split <;> simp
@[simp] theorem askRecord_atTick (r : RecId) (s : State) : (askRecord r s).atTick = s.atTick := by
  unfold askRecord
  split <;> simp
@[simp] theorem line_askRecord (m : LineId) (r : RecId) (s : State) :
    (askRecord r s).line m = s.line m := by
  unfold askRecord
  split <;> simp
@[simp] theorem image_askRecord (r : RecId) (s : State) :
    (askRecord r s).image = s.image := by simp [State.image]
/-! askLine -/
@[simp] theorem askLine_pending (n : LineId) (s : State) :
    (askLine n s).pending = s.pending := by simp [askLine]
@[simp] theorem askLine_queue (n : LineId) (s : State) :
    (askLine n s).queue = s.queue := by simp [askLine]
@[simp] theorem askLine_scan (n : LineId) (s : State) :
    (askLine n s).scan = s.scan := by simp [askLine]
@[simp] theorem askLine_berth (n : LineId) (s : State) :
    (askLine n s).berth = s.berth := by simp [askLine]
@[simp] theorem askLine_profile (n : LineId) (s : State) :
    (askLine n s).profile = s.profile := by simp [askLine]
@[simp] theorem askLine_report (n : LineId) (s : State) :
    (askLine n s).report = s.report := by simp [askLine]
@[simp] theorem askLine_supply (n : LineId) (s : State) :
    (askLine n s).supply = s.supply := by simp [askLine]
@[simp] theorem askLine_ticks (n : LineId) (s : State) :
    (askLine n s).ticks = s.ticks := by simp [askLine]
@[simp] theorem askLine_atTick (n : LineId) (s : State) :
    (askLine n s).atTick = s.atTick := by simp [askLine]
@[simp] theorem line_askLine (m : LineId) (n : LineId) (s : State) :
    (askLine n s).line m = s.line m := by simp [askLine]
@[simp] theorem image_askLine (n : LineId) (s : State) :
    (askLine n s).image = s.image := by simp [State.image]
/-! askBerth -/
@[simp] theorem askBerth_pending  (s : State) :
    (askBerth  s).pending = s.pending := by simp [askBerth]
@[simp] theorem askBerth_queue  (s : State) : (askBerth  s).queue = s.queue := by simp [askBerth]
@[simp] theorem askBerth_scan  (s : State) : (askBerth  s).scan = s.scan := by simp [askBerth]
@[simp] theorem askBerth_berth  (s : State) : (askBerth  s).berth = s.berth := by simp [askBerth]
@[simp] theorem askBerth_profile  (s : State) :
    (askBerth  s).profile = s.profile := by simp [askBerth]
@[simp] theorem askBerth_report  (s : State) : (askBerth  s).report = s.report := by simp [askBerth]
@[simp] theorem askBerth_supply  (s : State) : (askBerth  s).supply = s.supply := by simp [askBerth]
@[simp] theorem askBerth_ticks  (s : State) : (askBerth  s).ticks = s.ticks := by simp [askBerth]
@[simp] theorem askBerth_atTick  (s : State) : (askBerth  s).atTick = s.atTick := by simp [askBerth]
@[simp] theorem line_askBerth (m : LineId)  (s : State) :
    (askBerth  s).line m = s.line m := by simp [askBerth]
@[simp] theorem image_askBerth  (s : State) : (askBerth  s).image = s.image := by simp [State.image]
/-! judgeAttn -/
@[simp] theorem judgeAttn_pending  (s : State) : (judgeAttn  s).pending = s.pending := rfl
@[simp] theorem judgeAttn_queue  (s : State) : (judgeAttn  s).queue = s.queue := rfl
@[simp] theorem judgeAttn_scan  (s : State) : (judgeAttn  s).scan = s.scan := rfl
@[simp] theorem judgeAttn_berth  (s : State) : (judgeAttn  s).berth = s.berth := rfl
@[simp] theorem judgeAttn_notices  (s : State) : (judgeAttn  s).report.notices = s.report.notices := rfl
@[simp] theorem judgeAttn_profile  (s : State) : (judgeAttn  s).profile = s.profile := rfl
@[simp] theorem judgeAttn_bus  (s : State) : (judgeAttn  s).bus = s.bus := rfl
@[simp] theorem judgeAttn_supply  (s : State) : (judgeAttn  s).supply = s.supply := rfl
@[simp] theorem judgeAttn_ticks  (s : State) : (judgeAttn  s).ticks = s.ticks := rfl
@[simp] theorem judgeAttn_atTick  (s : State) : (judgeAttn  s).atTick = s.atTick := rfl
@[simp] theorem line_judgeAttn (m : LineId)  (s : State) : (judgeAttn  s).line m = s.line m := rfl
@[simp] theorem image_judgeAttn  (s : State) :
    (judgeAttn  s).image = s.image := by simp [State.image]
/-! setLineNotice -/
@[simp] theorem setLineNotice_pending (n : LineId) (s : State) :
    (setLineNotice n s).pending = s.pending := by
  unfold setLineNotice
  split <;> simp
@[simp] theorem setLineNotice_queue (n : LineId) (s : State) :
    (setLineNotice n s).queue = s.queue := by
  unfold setLineNotice
  split <;> simp
@[simp] theorem setLineNotice_scan (n : LineId) (s : State) :
    (setLineNotice n s).scan = s.scan := by
  unfold setLineNotice
  split <;> simp
@[simp] theorem setLineNotice_berth (n : LineId) (s : State) :
    (setLineNotice n s).berth = s.berth := by
  unfold setLineNotice
  split <;> simp
@[simp] theorem setLineNotice_notices (n : LineId) (s : State) :
    (setLineNotice n s).report.notices = s.report.notices := by
  unfold setLineNotice
  split <;> simp
@[simp] theorem setLineNotice_profile (n : LineId) (s : State) :
    (setLineNotice n s).profile = s.profile := by
  unfold setLineNotice
  split <;> simp
@[simp] theorem setLineNotice_supply (n : LineId) (s : State) :
    (setLineNotice n s).supply = s.supply := by
  unfold setLineNotice
  split <;> simp
@[simp] theorem setLineNotice_ticks (n : LineId) (s : State) :
    (setLineNotice n s).ticks = s.ticks := by
  unfold setLineNotice
  split <;> simp
@[simp] theorem setLineNotice_atTick (n : LineId) (s : State) :
    (setLineNotice n s).atTick = s.atTick := by
  unfold setLineNotice
  split <;> simp
@[simp] theorem image_setLineNotice (n : LineId) (s : State) :
    (setLineNotice n s).image = s.image := by simp [State.image]
/-! setBerthNotice -/
@[simp] theorem setBerthNotice_pending (k : BerthNotice) (s : State) :
    (setBerthNotice k s).pending = s.pending := by
  unfold setBerthNotice
  split <;> simp
@[simp] theorem setBerthNotice_queue (k : BerthNotice) (s : State) :
    (setBerthNotice k s).queue = s.queue := by
  unfold setBerthNotice
  split <;> simp
@[simp] theorem setBerthNotice_scan (k : BerthNotice) (s : State) :
    (setBerthNotice k s).scan = s.scan := by
  unfold setBerthNotice
  split <;> simp
@[simp] theorem setBerthNotice_berth (k : BerthNotice) (s : State) :
    (setBerthNotice k s).berth = s.berth := by
  unfold setBerthNotice
  split <;> simp
@[simp] theorem setBerthNotice_profile (k : BerthNotice) (s : State) :
    (setBerthNotice k s).profile = s.profile := by
  unfold setBerthNotice
  split <;> simp
@[simp] theorem setBerthNotice_supply (k : BerthNotice) (s : State) :
    (setBerthNotice k s).supply = s.supply := by
  unfold setBerthNotice
  split <;> simp
@[simp] theorem setBerthNotice_ticks (k : BerthNotice) (s : State) :
    (setBerthNotice k s).ticks = s.ticks := by
  unfold setBerthNotice
  split <;> simp
@[simp] theorem setBerthNotice_atTick (k : BerthNotice) (s : State) :
    (setBerthNotice k s).atTick = s.atTick := by
  unfold setBerthNotice
  split <;> simp
@[simp] theorem line_setBerthNotice (m : LineId) (k : BerthNotice) (s : State) :
    (setBerthNotice k s).line m = s.line m := by
  unfold setBerthNotice
  split <;> simp
@[simp] theorem image_setBerthNotice (k : BerthNotice) (s : State) :
    (setBerthNotice k s).image = s.image := by simp [State.image]
/-! placePair -/
@[simp] theorem placePair_pending (e : LaneEntry) (s : State) :
    (placePair e s).pending = s.pending := rfl
@[simp] theorem placePair_queue (e : LaneEntry) (s : State) : (placePair e s).queue = s.queue := rfl
@[simp] theorem placePair_scan (e : LaneEntry) (s : State) : (placePair e s).scan = s.scan := rfl
@[simp] theorem placePair_berth (e : LaneEntry) (s : State) : (placePair e s).berth = s.berth := rfl
@[simp] theorem placePair_profile (e : LaneEntry) (s : State) :
    (placePair e s).profile = s.profile := rfl
@[simp] theorem placePair_report (e : LaneEntry) (s : State) :
    (placePair e s).report = s.report := rfl
@[simp] theorem placePair_supply (e : LaneEntry) (s : State) :
    (placePair e s).supply = s.supply := rfl
@[simp] theorem placePair_ticks (e : LaneEntry) (s : State) : (placePair e s).ticks = s.ticks := rfl
@[simp] theorem placePair_atTick (e : LaneEntry) (s : State) :
    (placePair e s).atTick = s.atTick := rfl
@[simp] theorem line_placePair (m : LineId) (e : LaneEntry) (s : State) :
    (placePair e s).line m = s.line m := rfl
@[simp] theorem image_placePair (e : LaneEntry) (s : State) :
    (placePair e s).image = s.image := by simp [State.image]
/-! withdrawPairs -/
@[simp] theorem withdrawPairs_pending  (s : State) : (withdrawPairs  s).pending = s.pending := rfl
@[simp] theorem withdrawPairs_queue  (s : State) : (withdrawPairs  s).queue = s.queue := rfl
@[simp] theorem withdrawPairs_scan  (s : State) : (withdrawPairs  s).scan = s.scan := rfl
@[simp] theorem withdrawPairs_berth  (s : State) : (withdrawPairs  s).berth = s.berth := rfl
@[simp] theorem withdrawPairs_profile  (s : State) : (withdrawPairs  s).profile = s.profile := rfl
@[simp] theorem withdrawPairs_report  (s : State) : (withdrawPairs  s).report = s.report := rfl
@[simp] theorem withdrawPairs_supply  (s : State) : (withdrawPairs  s).supply = s.supply := rfl
@[simp] theorem withdrawPairs_ticks  (s : State) : (withdrawPairs  s).ticks = s.ticks := rfl
@[simp] theorem withdrawPairs_atTick  (s : State) : (withdrawPairs  s).atTick = s.atTick := rfl
@[simp] theorem line_withdrawPairs (m : LineId)  (s : State) :
    (withdrawPairs  s).line m = s.line m := rfl
@[simp] theorem image_withdrawPairs  (s : State) :
    (withdrawPairs  s).image = s.image := by simp [State.image]
/-! recordHost -/
@[simp] theorem recordHost_pending (n : LineId) (h : LastHost) (s : State) :
    (recordHost n h s).pending = s.pending := by simp [recordHost]
@[simp] theorem recordHost_queue (n : LineId) (h : LastHost) (s : State) :
    (recordHost n h s).queue = s.queue := by simp [recordHost]
@[simp] theorem recordHost_scan (n : LineId) (h : LastHost) (s : State) :
    (recordHost n h s).scan = s.scan := by simp [recordHost]
@[simp] theorem recordHost_berth (n : LineId) (h : LastHost) (s : State) :
    (recordHost n h s).berth = s.berth := by simp [recordHost]
@[simp] theorem recordHost_profile (n : LineId) (h : LastHost) (s : State) :
    (recordHost n h s).profile = s.profile := by simp [recordHost]
@[simp] theorem recordHost_report (n : LineId) (h : LastHost) (s : State) :
    (recordHost n h s).report = s.report := by simp [recordHost]
@[simp] theorem recordHost_supply (n : LineId) (h : LastHost) (s : State) :
    (recordHost n h s).supply = s.supply := by simp [recordHost]
@[simp] theorem recordHost_ticks (n : LineId) (h : LastHost) (s : State) :
    (recordHost n h s).ticks = s.ticks := by simp [recordHost]
@[simp] theorem recordHost_atTick (n : LineId) (h : LastHost) (s : State) :
    (recordHost n h s).atTick = s.atTick := by simp [recordHost]
@[simp] theorem image_recordHost (n : LineId) (h : LastHost) (s : State) :
    (recordHost n h s).image = s.image := by simp [State.image]
/-! recordEnding -/
@[simp] theorem recordEnding_pending (n : LineId) (t : Tag) (k : OrderKind) (v : Verdict) (s : State) :
    (recordEnding n t k v s).pending = s.pending := by simp [recordEnding]
@[simp] theorem recordEnding_queue (n : LineId) (t : Tag) (k : OrderKind) (v : Verdict) (s : State) :
    (recordEnding n t k v s).queue = s.queue := by simp [recordEnding]
@[simp] theorem recordEnding_scan (n : LineId) (t : Tag) (k : OrderKind) (v : Verdict) (s : State) :
    (recordEnding n t k v s).scan = s.scan := by simp [recordEnding]
@[simp] theorem recordEnding_berth (n : LineId) (t : Tag) (k : OrderKind) (v : Verdict) (s : State) :
    (recordEnding n t k v s).berth = s.berth := by simp [recordEnding]
@[simp] theorem recordEnding_profile (n : LineId) (t : Tag) (k : OrderKind) (v : Verdict) (s : State) :
    (recordEnding n t k v s).profile = s.profile := by simp [recordEnding]
@[simp] theorem recordEnding_report (n : LineId) (t : Tag) (k : OrderKind) (v : Verdict) (s : State) :
    (recordEnding n t k v s).report = s.report := by simp [recordEnding]
@[simp] theorem recordEnding_supply (n : LineId) (t : Tag) (k : OrderKind) (v : Verdict) (s : State) :
    (recordEnding n t k v s).supply = s.supply := by simp [recordEnding]
@[simp] theorem recordEnding_ticks (n : LineId) (t : Tag) (k : OrderKind) (v : Verdict) (s : State) :
    (recordEnding n t k v s).ticks = s.ticks := by simp [recordEnding]
@[simp] theorem recordEnding_atTick (n : LineId) (t : Tag) (k : OrderKind) (v : Verdict) (s : State) :
    (recordEnding n t k v s).atTick = s.atTick := by simp [recordEnding]
@[simp] theorem image_recordEnding (n : LineId) (t : Tag) (k : OrderKind) (v : Verdict) (s : State) :
    (recordEnding n t k v s).image = s.image := by simp [State.image]
/-! refuse -/
@[simp] theorem refuse_pending (n : LineId) (o : Option (Tag × OrderKind)) (r : RefusalReason) (s : State) :
    (refuse n o r s).pending = s.pending := by simp [refuse]
@[simp] theorem refuse_queue (n : LineId) (o : Option (Tag × OrderKind)) (r : RefusalReason) (s : State) :
    (refuse n o r s).queue = s.queue := by simp [refuse]
@[simp] theorem refuse_scan (n : LineId) (o : Option (Tag × OrderKind)) (r : RefusalReason) (s : State) :
    (refuse n o r s).scan = s.scan := by simp [refuse]
@[simp] theorem refuse_berth (n : LineId) (o : Option (Tag × OrderKind)) (r : RefusalReason) (s : State) :
    (refuse n o r s).berth = s.berth := by simp [refuse]
@[simp] theorem refuse_notices (n : LineId) (o : Option (Tag × OrderKind)) (r : RefusalReason) (s : State) :
    (refuse n o r s).report.notices = s.report.notices := by simp [refuse]
@[simp] theorem refuse_profile (n : LineId) (o : Option (Tag × OrderKind)) (r : RefusalReason) (s : State) :
    (refuse n o r s).profile = s.profile := by simp [refuse]
@[simp] theorem refuse_supply (n : LineId) (o : Option (Tag × OrderKind)) (r : RefusalReason) (s : State) :
    (refuse n o r s).supply = s.supply := by simp [refuse]
@[simp] theorem refuse_ticks (n : LineId) (o : Option (Tag × OrderKind)) (r : RefusalReason) (s : State) :
    (refuse n o r s).ticks = s.ticks := by simp [refuse]
@[simp] theorem refuse_atTick (n : LineId) (o : Option (Tag × OrderKind)) (r : RefusalReason) (s : State) :
    (refuse n o r s).atTick = s.atTick := by simp [refuse]
@[simp] theorem image_refuse (n : LineId) (o : Option (Tag × OrderKind)) (r : RefusalReason) (s : State) :
    (refuse n o r s).image = s.image := by simp [State.image]
/-! enterState -/
@[simp] theorem enterState_pending (n : LineId) (st : LineState) (s : State) :
    (enterState n st s).pending = s.pending := rfl
@[simp] theorem enterState_queue (n : LineId) (st : LineState) (s : State) :
    (enterState n st s).queue = s.queue := rfl
@[simp] theorem enterState_scan (n : LineId) (st : LineState) (s : State) :
    (enterState n st s).scan = s.scan := rfl
@[simp] theorem enterState_berth (n : LineId) (st : LineState) (s : State) :
    (enterState n st s).berth = s.berth := rfl
@[simp] theorem enterState_profile (n : LineId) (st : LineState) (s : State) :
    (enterState n st s).profile = s.profile := rfl
@[simp] theorem enterState_bus (n : LineId) (st : LineState) (s : State) :
    (enterState n st s).bus = s.bus := rfl
@[simp] theorem enterState_report (n : LineId) (st : LineState) (s : State) :
    (enterState n st s).report = s.report := rfl
@[simp] theorem enterState_supply (n : LineId) (st : LineState) (s : State) :
    (enterState n st s).supply = s.supply := rfl
@[simp] theorem enterState_ticks (n : LineId) (st : LineState) (s : State) :
    (enterState n st s).ticks = s.ticks := rfl
@[simp] theorem enterState_atTick (n : LineId) (st : LineState) (s : State) :
    (enterState n st s).atTick = s.atTick := rfl
@[simp] theorem image_enterState (n : LineId) (st : LineState) (s : State) :
    (enterState n st s).image = s.image := by simp [State.image]
/-! loadRun -/
@[simp] theorem loadRun_pending (n : LineId) (v : Nat) (s : State) :
    (loadRun n v s).pending = s.pending := rfl
@[simp] theorem loadRun_queue (n : LineId) (v : Nat) (s : State) :
    (loadRun n v s).queue = s.queue := rfl
@[simp] theorem loadRun_scan (n : LineId) (v : Nat) (s : State) :
    (loadRun n v s).scan = s.scan := rfl
@[simp] theorem loadRun_berth (n : LineId) (v : Nat) (s : State) :
    (loadRun n v s).berth = s.berth := rfl
@[simp] theorem loadRun_profile (n : LineId) (v : Nat) (s : State) :
    (loadRun n v s).profile = s.profile := rfl
@[simp] theorem loadRun_bus (n : LineId) (v : Nat) (s : State) : (loadRun n v s).bus = s.bus := rfl
@[simp] theorem loadRun_report (n : LineId) (v : Nat) (s : State) :
    (loadRun n v s).report = s.report := rfl
@[simp] theorem loadRun_supply (n : LineId) (v : Nat) (s : State) :
    (loadRun n v s).supply = s.supply := rfl
@[simp] theorem loadRun_ticks (n : LineId) (v : Nat) (s : State) :
    (loadRun n v s).ticks = s.ticks := rfl
@[simp] theorem loadRun_atTick (n : LineId) (v : Nat) (s : State) :
    (loadRun n v s).atTick = s.atTick := rfl
@[simp] theorem image_loadRun (n : LineId) (v : Nat) (s : State) :
    (loadRun n v s).image = s.image := by simp [State.image]
/-! loadStall -/
@[simp] theorem loadStall_pending (n : LineId) (s : State) :
    (loadStall n s).pending = s.pending := rfl
@[simp] theorem loadStall_queue (n : LineId) (s : State) : (loadStall n s).queue = s.queue := rfl
@[simp] theorem loadStall_scan (n : LineId) (s : State) : (loadStall n s).scan = s.scan := rfl
@[simp] theorem loadStall_berth (n : LineId) (s : State) : (loadStall n s).berth = s.berth := rfl
@[simp] theorem loadStall_profile (n : LineId) (s : State) :
    (loadStall n s).profile = s.profile := rfl
@[simp] theorem loadStall_bus (n : LineId) (s : State) : (loadStall n s).bus = s.bus := rfl
@[simp] theorem loadStall_report (n : LineId) (s : State) : (loadStall n s).report = s.report := rfl
@[simp] theorem loadStall_supply (n : LineId) (s : State) : (loadStall n s).supply = s.supply := rfl
@[simp] theorem loadStall_ticks (n : LineId) (s : State) : (loadStall n s).ticks = s.ticks := rfl
@[simp] theorem loadStall_atTick (n : LineId) (s : State) : (loadStall n s).atTick = s.atTick := rfl
@[simp] theorem image_loadStall (n : LineId) (s : State) :
    (loadStall n s).image = s.image := by simp [State.image]
/-! partOrder -/
@[simp] theorem partOrder_pending (n : LineId) (k : OrderKind) (c : PartCause) (s : State) :
    (partOrder n k c s).pending = s.pending := by
  unfold partOrder
  split <;> simp
@[simp] theorem partOrder_queue (n : LineId) (k : OrderKind) (c : PartCause) (s : State) :
    (partOrder n k c s).queue = s.queue := by
  unfold partOrder
  split <;> simp
@[simp] theorem partOrder_scan (n : LineId) (k : OrderKind) (c : PartCause) (s : State) :
    (partOrder n k c s).scan = s.scan := by
  unfold partOrder
  split <;> simp
@[simp] theorem partOrder_berth (n : LineId) (k : OrderKind) (c : PartCause) (s : State) :
    (partOrder n k c s).berth = s.berth := by
  unfold partOrder
  split <;> simp
@[simp] theorem partOrder_profile (n : LineId) (k : OrderKind) (c : PartCause) (s : State) :
    (partOrder n k c s).profile = s.profile := by
  unfold partOrder
  split <;> simp
@[simp] theorem partOrder_report (n : LineId) (k : OrderKind) (c : PartCause) (s : State) :
    (partOrder n k c s).report = s.report := by
  unfold partOrder
  split <;> simp
@[simp] theorem partOrder_supply (n : LineId) (k : OrderKind) (c : PartCause) (s : State) :
    (partOrder n k c s).supply = s.supply := by
  unfold partOrder
  split <;> simp
@[simp] theorem partOrder_ticks (n : LineId) (k : OrderKind) (c : PartCause) (s : State) :
    (partOrder n k c s).ticks = s.ticks := by
  unfold partOrder
  split <;> simp
@[simp] theorem partOrder_atTick (n : LineId) (k : OrderKind) (c : PartCause) (s : State) :
    (partOrder n k c s).atTick = s.atTick := by
  unfold partOrder
  split <;> simp
@[simp] theorem image_partOrder (n : LineId) (k : OrderKind) (c : PartCause) (s : State) :
    (partOrder n k c s).image = s.image := by simp [State.image]
/-! faultEntry -/
@[simp] theorem faultEntry_pending (n : LineId) (r : FaultReason) (lock : Option PartCause) (s : State) :
    (faultEntry n r lock s).pending = s.pending := by
  unfold faultEntry
  split <;> simp
@[simp] theorem faultEntry_queue (n : LineId) (r : FaultReason) (lock : Option PartCause) (s : State) :
    (faultEntry n r lock s).queue = s.queue := by
  unfold faultEntry
  split <;> simp
@[simp] theorem faultEntry_scan (n : LineId) (r : FaultReason) (lock : Option PartCause) (s : State) :
    (faultEntry n r lock s).scan = s.scan := by
  unfold faultEntry
  split <;> simp
@[simp] theorem faultEntry_berth (n : LineId) (r : FaultReason) (lock : Option PartCause) (s : State) :
    (faultEntry n r lock s).berth = s.berth := by
  unfold faultEntry
  split <;> simp
@[simp] theorem faultEntry_notices (n : LineId) (r : FaultReason) (lock : Option PartCause) (s : State) :
    (faultEntry n r lock s).report.notices = s.report.notices := by
  unfold faultEntry
  split <;> simp
@[simp] theorem faultEntry_profile (n : LineId) (r : FaultReason) (lock : Option PartCause) (s : State) :
    (faultEntry n r lock s).profile = s.profile := by
  unfold faultEntry
  split <;> simp
@[simp] theorem faultEntry_supply (n : LineId) (r : FaultReason) (lock : Option PartCause) (s : State) :
    (faultEntry n r lock s).supply = s.supply := by
  unfold faultEntry
  split <;> simp
@[simp] theorem faultEntry_ticks (n : LineId) (r : FaultReason) (lock : Option PartCause) (s : State) :
    (faultEntry n r lock s).ticks = s.ticks := by
  unfold faultEntry
  split <;> simp
@[simp] theorem faultEntry_atTick (n : LineId) (r : FaultReason) (lock : Option PartCause) (s : State) :
    (faultEntry n r lock s).atTick = s.atTick := by
  unfold faultEntry
  split <;> simp
@[simp] theorem image_faultEntry (n : LineId) (r : FaultReason) (lock : Option PartCause) (s : State) :
    (faultEntry n r lock s).image = s.image := by simp [State.image]
/-! markBegun -/
@[simp] theorem markBegun_pending (n : LineId) (s : State) :
    (markBegun n s).pending = s.pending := rfl
@[simp] theorem markBegun_scan (n : LineId) (s : State) : (markBegun n s).scan = s.scan := rfl
@[simp] theorem markBegun_berth (n : LineId) (s : State) : (markBegun n s).berth = s.berth := rfl
@[simp] theorem markBegun_profile (n : LineId) (s : State) :
    (markBegun n s).profile = s.profile := rfl
@[simp] theorem markBegun_bus (n : LineId) (s : State) : (markBegun n s).bus = s.bus := rfl
@[simp] theorem markBegun_report (n : LineId) (s : State) : (markBegun n s).report = s.report := rfl
@[simp] theorem markBegun_supply (n : LineId) (s : State) : (markBegun n s).supply = s.supply := rfl
@[simp] theorem markBegun_ticks (n : LineId) (s : State) : (markBegun n s).ticks = s.ticks := rfl
@[simp] theorem markBegun_atTick (n : LineId) (s : State) : (markBegun n s).atTick = s.atTick := rfl
@[simp] theorem line_markBegun (m : LineId) (n : LineId) (s : State) :
    (markBegun n s).line m = s.line m := rfl
@[simp] theorem image_markBegun (n : LineId) (s : State) :
    (markBegun n s).image = s.image := by simp [State.image]
/-! beginProbe -/
@[simp] theorem beginProbe_pending (n : LineId) (resume : Option Nat) (s : State) :
    (beginProbe n resume s).pending = s.pending := rfl
@[simp] theorem beginProbe_berth (n : LineId) (resume : Option Nat) (s : State) :
    (beginProbe n resume s).berth = s.berth := rfl
@[simp] theorem beginProbe_profile (n : LineId) (resume : Option Nat) (s : State) :
    (beginProbe n resume s).profile = s.profile := rfl
@[simp] theorem beginProbe_bus (n : LineId) (resume : Option Nat) (s : State) :
    (beginProbe n resume s).bus = s.bus := rfl
@[simp] theorem beginProbe_report (n : LineId) (resume : Option Nat) (s : State) :
    (beginProbe n resume s).report = s.report := rfl
@[simp] theorem beginProbe_supply (n : LineId) (resume : Option Nat) (s : State) :
    (beginProbe n resume s).supply = s.supply := rfl
@[simp] theorem beginProbe_ticks (n : LineId) (resume : Option Nat) (s : State) :
    (beginProbe n resume s).ticks = s.ticks := rfl
@[simp] theorem beginProbe_atTick (n : LineId) (resume : Option Nat) (s : State) :
    (beginProbe n resume s).atTick = s.atTick := rfl
@[simp] theorem image_beginProbe (n : LineId) (resume : Option Nat) (s : State) :
    (beginProbe n resume s).image = s.image := by simp [State.image]
/-! joinProbe -/
@[simp] theorem joinProbe_pending (n : LineId) (s : State) :
    (joinProbe n s).pending = s.pending := rfl
@[simp] theorem joinProbe_berth (n : LineId) (s : State) :
    (joinProbe n s).berth = s.berth := rfl
@[simp] theorem joinProbe_profile (n : LineId) (s : State) :
    (joinProbe n s).profile = s.profile := rfl
@[simp] theorem joinProbe_bus (n : LineId) (s : State) :
    (joinProbe n s).bus = s.bus := rfl
@[simp] theorem joinProbe_report (n : LineId) (s : State) :
    (joinProbe n s).report = s.report := rfl
@[simp] theorem joinProbe_supply (n : LineId) (s : State) :
    (joinProbe n s).supply = s.supply := rfl
@[simp] theorem joinProbe_ticks (n : LineId) (s : State) :
    (joinProbe n s).ticks = s.ticks := rfl
@[simp] theorem joinProbe_atTick (n : LineId) (s : State) :
    (joinProbe n s).atTick = s.atTick := rfl
@[simp] theorem joinProbe_queue (n : LineId) (s : State) :
    (joinProbe n s).queue = s.queue := rfl
@[simp] theorem joinProbe_scan (n : LineId) (s : State) :
    (joinProbe n s).scan = s.scan := rfl
@[simp] theorem image_joinProbe (n : LineId) (s : State) :
    (joinProbe n s).image = s.image := rfl
/-! requestProbe -/
@[simp] theorem requestProbe_pending (n : LineId) (s : State) :
    (requestProbe n s).pending = s.pending := by
  unfold requestProbe
  split <;> simp
@[simp] theorem requestProbe_berth (n : LineId) (s : State) :
    (requestProbe n s).berth = s.berth := by
  unfold requestProbe
  split <;> simp
@[simp] theorem requestProbe_profile (n : LineId) (s : State) :
    (requestProbe n s).profile = s.profile := by
  unfold requestProbe
  split <;> simp
@[simp] theorem requestProbe_bus (n : LineId) (s : State) : (requestProbe n s).bus = s.bus := by
  unfold requestProbe
  split <;> simp
@[simp] theorem requestProbe_report (n : LineId) (s : State) :
    (requestProbe n s).report = s.report := by
  unfold requestProbe
  split <;> simp
@[simp] theorem requestProbe_supply (n : LineId) (s : State) :
    (requestProbe n s).supply = s.supply := by
  unfold requestProbe
  split <;> simp
@[simp] theorem requestProbe_ticks (n : LineId) (s : State) :
    (requestProbe n s).ticks = s.ticks := by
  unfold requestProbe
  split <;> simp
@[simp] theorem requestProbe_atTick (n : LineId) (s : State) :
    (requestProbe n s).atTick = s.atTick := by
  unfold requestProbe
  split <;> simp
@[simp] theorem image_requestProbe (n : LineId) (s : State) :
    (requestProbe n s).image = s.image := by simp [State.image]
/-! lockEffect -/
@[simp] theorem lockEffect_pending (n : LineId) (s : State) :
    (lockEffect n s).pending = s.pending := by
  unfold lockEffect
  dsimp only
  split <;> simp
@[simp] theorem lockEffect_queue (n : LineId) (s : State) : (lockEffect n s).queue = s.queue := by
  unfold lockEffect
  dsimp only
  split <;> simp
@[simp] theorem lockEffect_scan (n : LineId) (s : State) : (lockEffect n s).scan = s.scan := by
  unfold lockEffect
  dsimp only
  split <;> simp
@[simp] theorem lockEffect_berth (n : LineId) (s : State) : (lockEffect n s).berth = s.berth := by
  unfold lockEffect
  dsimp only
  split <;> simp
@[simp] theorem lockEffect_profile (n : LineId) (s : State) :
    (lockEffect n s).profile = s.profile := by
  unfold lockEffect
  dsimp only
  split <;> simp
@[simp] theorem lockEffect_bus (n : LineId) (s : State) : (lockEffect n s).bus = s.bus := by
  unfold lockEffect
  dsimp only
  split <;> simp
@[simp] theorem lockEffect_report (n : LineId) (s : State) :
    (lockEffect n s).report = s.report := by
  unfold lockEffect
  dsimp only
  split <;> simp
@[simp] theorem lockEffect_supply (n : LineId) (s : State) :
    (lockEffect n s).supply = s.supply := by
  unfold lockEffect
  dsimp only
  split <;> simp
@[simp] theorem lockEffect_ticks (n : LineId) (s : State) : (lockEffect n s).ticks = s.ticks := by
  unfold lockEffect
  dsimp only
  split <;> simp
@[simp] theorem lockEffect_atTick (n : LineId) (s : State) :
    (lockEffect n s).atTick = s.atTick := by
  unfold lockEffect
  dsimp only
  split <;> simp
@[simp] theorem image_lockEffect (n : LineId) (s : State) :
    (lockEffect n s).image = s.image := by simp [State.image]
/-! rewindComplete -/
@[simp] theorem rewindComplete_pending (n : LineId) (s : State) :
    (rewindComplete n s).pending = s.pending := by
  unfold rewindComplete
  split <;> simp
@[simp] theorem rewindComplete_queue (n : LineId) (s : State) :
    (rewindComplete n s).queue = s.queue := by
  unfold rewindComplete
  split <;> simp
@[simp] theorem rewindComplete_scan (n : LineId) (s : State) :
    (rewindComplete n s).scan = s.scan := by
  unfold rewindComplete
  split <;> simp
@[simp] theorem rewindComplete_berth (n : LineId) (s : State) :
    (rewindComplete n s).berth = s.berth := by
  unfold rewindComplete
  split <;> simp
@[simp] theorem rewindComplete_notices (n : LineId) (s : State) :
    (rewindComplete n s).report.notices = s.report.notices := by
  unfold rewindComplete
  split <;> simp
@[simp] theorem rewindComplete_profile (n : LineId) (s : State) :
    (rewindComplete n s).profile = s.profile := by
  unfold rewindComplete
  split <;> simp
@[simp] theorem rewindComplete_supply (n : LineId) (s : State) :
    (rewindComplete n s).supply = s.supply := by
  unfold rewindComplete
  split <;> simp
@[simp] theorem rewindComplete_ticks (n : LineId) (s : State) :
    (rewindComplete n s).ticks = s.ticks := by
  unfold rewindComplete
  split <;> simp
@[simp] theorem rewindComplete_atTick (n : LineId) (s : State) :
    (rewindComplete n s).atTick = s.atTick := by
  unfold rewindComplete
  split <;> simp
@[simp] theorem image_rewindComplete (n : LineId) (s : State) :
    (rewindComplete n s).image = s.image := by simp [State.image]
/-! rewindEffect -/
@[simp] theorem rewindEffect_pending (n : LineId) (s : State) :
    (rewindEffect n s).pending = s.pending := by
  unfold rewindEffect
  dsimp only
  (repeat' split) <;> simp
@[simp] theorem rewindEffect_queue (n : LineId) (s : State) :
    (rewindEffect n s).queue = s.queue := by
  unfold rewindEffect
  dsimp only
  (repeat' split) <;> simp
@[simp] theorem rewindEffect_scan (n : LineId) (s : State) : (rewindEffect n s).scan = s.scan := by
  unfold rewindEffect
  dsimp only
  (repeat' split) <;> simp
@[simp] theorem rewindEffect_berth (n : LineId) (s : State) :
    (rewindEffect n s).berth = s.berth := by
  unfold rewindEffect
  dsimp only
  (repeat' split) <;> simp
@[simp] theorem rewindEffect_notices (n : LineId) (s : State) :
    (rewindEffect n s).report.notices = s.report.notices := by
  unfold rewindEffect
  dsimp only
  (repeat' split) <;> simp
@[simp] theorem rewindEffect_profile (n : LineId) (s : State) :
    (rewindEffect n s).profile = s.profile := by
  unfold rewindEffect
  dsimp only
  (repeat' split) <;> simp
@[simp] theorem rewindEffect_supply (n : LineId) (s : State) :
    (rewindEffect n s).supply = s.supply := by
  unfold rewindEffect
  dsimp only
  (repeat' split) <;> simp
@[simp] theorem rewindEffect_ticks (n : LineId) (s : State) :
    (rewindEffect n s).ticks = s.ticks := by
  unfold rewindEffect
  dsimp only
  (repeat' split) <;> simp
@[simp] theorem rewindEffect_atTick (n : LineId) (s : State) :
    (rewindEffect n s).atTick = s.atTick := by
  unfold rewindEffect
  dsimp only
  (repeat' split) <;> simp
@[simp] theorem image_rewindEffect (n : LineId) (s : State) :
    (rewindEffect n s).image = s.image := by simp [State.image]
/-! applyEffect -/
@[simp] theorem applyEffect_pending (n : LineId) (k : OrderKind) (arg : Nat) (s : State) :
    (applyEffect n k arg s).pending = s.pending := by
  unfold applyEffect
  split <;> simp
@[simp] theorem applyEffect_queue (n : LineId) (k : OrderKind) (arg : Nat) (s : State) :
    (applyEffect n k arg s).queue = s.queue := by
  unfold applyEffect
  split <;> simp
@[simp] theorem applyEffect_scan (n : LineId) (k : OrderKind) (arg : Nat) (s : State) :
    (applyEffect n k arg s).scan = s.scan := by
  unfold applyEffect
  split <;> simp
@[simp] theorem applyEffect_berth (n : LineId) (k : OrderKind) (arg : Nat) (s : State) :
    (applyEffect n k arg s).berth = s.berth := by
  unfold applyEffect
  split <;> simp
@[simp] theorem applyEffect_notices (n : LineId) (k : OrderKind) (arg : Nat) (s : State) :
    (applyEffect n k arg s).report.notices = s.report.notices := by
  unfold applyEffect
  split <;> simp
@[simp] theorem applyEffect_profile (n : LineId) (k : OrderKind) (arg : Nat) (s : State) :
    (applyEffect n k arg s).profile = s.profile := by
  unfold applyEffect
  split <;> simp
@[simp] theorem applyEffect_supply (n : LineId) (k : OrderKind) (arg : Nat) (s : State) :
    (applyEffect n k arg s).supply = s.supply := by
  unfold applyEffect
  split <;> simp
@[simp] theorem applyEffect_ticks (n : LineId) (k : OrderKind) (arg : Nat) (s : State) :
    (applyEffect n k arg s).ticks = s.ticks := by
  unfold applyEffect
  split <;> simp
@[simp] theorem applyEffect_atTick (n : LineId) (k : OrderKind) (arg : Nat) (s : State) :
    (applyEffect n k arg s).atTick = s.atTick := by
  unfold applyEffect
  split <;> simp
@[simp] theorem image_applyEffect (n : LineId) (k : OrderKind) (arg : Nat) (s : State) :
    (applyEffect n k arg s).image = s.image := by simp [State.image]
/-! putEntry -/
@[simp] theorem putEntry_pending (e : Entry) (s : State) : (putEntry e s).pending = s.pending := rfl
@[simp] theorem putEntry_scan (e : Entry) (s : State) : (putEntry e s).scan = s.scan := rfl
@[simp] theorem putEntry_berth (e : Entry) (s : State) : (putEntry e s).berth = s.berth := rfl
@[simp] theorem putEntry_profile (e : Entry) (s : State) : (putEntry e s).profile = s.profile := rfl
@[simp] theorem putEntry_bus (e : Entry) (s : State) : (putEntry e s).bus = s.bus := rfl
@[simp] theorem putEntry_report (e : Entry) (s : State) : (putEntry e s).report = s.report := rfl
@[simp] theorem putEntry_supply (e : Entry) (s : State) : (putEntry e s).supply = s.supply := rfl
@[simp] theorem putEntry_ticks (e : Entry) (s : State) : (putEntry e s).ticks = s.ticks := rfl
@[simp] theorem putEntry_atTick (e : Entry) (s : State) : (putEntry e s).atTick = s.atTick := rfl
@[simp] theorem line_putEntry (m : LineId) (e : Entry) (s : State) :
    (putEntry e s).line m = s.line m := rfl
@[simp] theorem image_putEntry (e : Entry) (s : State) :
    (putEntry e s).image = s.image := by simp [State.image]
/-! dropEntry -/
@[simp] theorem dropEntry_pending (n : LineId) (s : State) :
    (dropEntry n s).pending = s.pending := rfl
@[simp] theorem dropEntry_scan (n : LineId) (s : State) : (dropEntry n s).scan = s.scan := rfl
@[simp] theorem dropEntry_berth (n : LineId) (s : State) : (dropEntry n s).berth = s.berth := rfl
@[simp] theorem dropEntry_profile (n : LineId) (s : State) :
    (dropEntry n s).profile = s.profile := rfl
@[simp] theorem dropEntry_bus (n : LineId) (s : State) : (dropEntry n s).bus = s.bus := rfl
@[simp] theorem dropEntry_report (n : LineId) (s : State) : (dropEntry n s).report = s.report := rfl
@[simp] theorem dropEntry_supply (n : LineId) (s : State) : (dropEntry n s).supply = s.supply := rfl
@[simp] theorem dropEntry_ticks (n : LineId) (s : State) : (dropEntry n s).ticks = s.ticks := rfl
@[simp] theorem dropEntry_atTick (n : LineId) (s : State) : (dropEntry n s).atTick = s.atTick := rfl
@[simp] theorem line_dropEntry (m : LineId) (n : LineId) (s : State) :
    (dropEntry n s).line m = s.line m := rfl
@[simp] theorem image_dropEntry (n : LineId) (s : State) :
    (dropEntry n s).image = s.image := by simp [State.image]
/-! forward -/
@[simp] theorem forward_pending (e : Entry) (s : State) :
    (forward e s).pending = s.pending := by simp [forward]
@[simp] theorem forward_scan (e : Entry) (s : State) :
    (forward e s).scan = s.scan := by simp [forward]
@[simp] theorem forward_berth (e : Entry) (s : State) :
    (forward e s).berth = s.berth := by simp [forward]
@[simp] theorem forward_notices (e : Entry) (s : State) :
    (forward e s).report.notices = s.report.notices := by simp [forward]
@[simp] theorem forward_profile (e : Entry) (s : State) :
    (forward e s).profile = s.profile := by simp [forward]
@[simp] theorem forward_supply (e : Entry) (s : State) :
    (forward e s).supply = s.supply := by simp [forward]
@[simp] theorem forward_ticks (e : Entry) (s : State) :
    (forward e s).ticks = s.ticks := by simp [forward]
@[simp] theorem forward_atTick (e : Entry) (s : State) :
    (forward e s).atTick = s.atTick := by simp [forward]
@[simp] theorem image_forward (e : Entry) (s : State) :
    (forward e s).image = s.image := by simp [State.image]
/-! judgeSlip -/
@[simp] theorem judgeSlip_pending (e : Entry) (s : State) :
    (judgeSlip e s).pending = s.pending := by
  unfold judgeSlip
  dsimp only
  (repeat' split) <;> simp
@[simp] theorem judgeSlip_berth (e : Entry) (s : State) : (judgeSlip e s).berth = s.berth := by
  unfold judgeSlip
  dsimp only
  (repeat' split) <;> simp
@[simp] theorem judgeSlip_profile (e : Entry) (s : State) :
    (judgeSlip e s).profile = s.profile := by
  unfold judgeSlip
  dsimp only
  (repeat' split) <;> simp
@[simp] theorem judgeSlip_report (e : Entry) (s : State) : (judgeSlip e s).report = s.report := by
  unfold judgeSlip
  dsimp only
  (repeat' split) <;> simp
@[simp] theorem judgeSlip_supply (e : Entry) (s : State) : (judgeSlip e s).supply = s.supply := by
  unfold judgeSlip
  dsimp only
  (repeat' split) <;> simp
@[simp] theorem judgeSlip_ticks (e : Entry) (s : State) : (judgeSlip e s).ticks = s.ticks := by
  unfold judgeSlip
  dsimp only
  (repeat' split) <;> simp
@[simp] theorem judgeSlip_atTick (e : Entry) (s : State) : (judgeSlip e s).atTick = s.atTick := by
  unfold judgeSlip
  dsimp only
  (repeat' split) <;> simp
@[simp] theorem image_judgeSlip (e : Entry) (s : State) :
    (judgeSlip e s).image = s.image := by simp [State.image]
/-! judgeEntry -/
@[simp] theorem judgeEntry_pending (n : LineId) (s : State) :
    (judgeEntry n s).pending = s.pending := by
  unfold judgeEntry
  (repeat' split) <;> simp_all
@[simp] theorem judgeEntry_berth (n : LineId) (s : State) : (judgeEntry n s).berth = s.berth := by
  unfold judgeEntry
  (repeat' split) <;> simp_all
@[simp] theorem judgeEntry_notices (n : LineId) (s : State) : (judgeEntry n s).report.notices = s.report.notices := by
  unfold judgeEntry
  (repeat' split) <;> simp_all
@[simp] theorem judgeEntry_profile (n : LineId) (s : State) :
    (judgeEntry n s).profile = s.profile := by
  unfold judgeEntry
  (repeat' split) <;> simp_all
@[simp] theorem judgeEntry_supply (n : LineId) (s : State) :
    (judgeEntry n s).supply = s.supply := by
  unfold judgeEntry
  (repeat' split) <;> simp_all
@[simp] theorem judgeEntry_ticks (n : LineId) (s : State) : (judgeEntry n s).ticks = s.ticks := by
  unfold judgeEntry
  (repeat' split) <;> simp_all
@[simp] theorem judgeEntry_atTick (n : LineId) (s : State) :
    (judgeEntry n s).atTick = s.atTick := by
  unfold judgeEntry
  (repeat' split) <;> simp_all
@[simp] theorem image_judgeEntry (n : LineId) (s : State) :
    (judgeEntry n s).image = s.image := by simp [State.image]
/-! walkOnce -/
@[simp] theorem walkOnce_pending  (s : State) :
    (walkOnce  s).pending = s.pending := walkOnce_keeps (P := fun t => t.pending = s.pending) (fun n t h => by simp [h]) rfl
@[simp] theorem walkOnce_berth  (s : State) :
    (walkOnce  s).berth = s.berth := walkOnce_keeps (P := fun t => t.berth = s.berth) (fun n t h => by simp [h]) rfl
@[simp] theorem walkOnce_notices  (s : State) :
    (walkOnce  s).report.notices = s.report.notices := walkOnce_keeps (P := fun t => t.report.notices = s.report.notices) (fun n t h => by simp [h]) rfl
@[simp] theorem walkOnce_profile  (s : State) :
    (walkOnce  s).profile = s.profile := walkOnce_keeps (P := fun t => t.profile = s.profile) (fun n t h => by simp [h]) rfl
@[simp] theorem walkOnce_supply  (s : State) :
    (walkOnce  s).supply = s.supply := walkOnce_keeps (P := fun t => t.supply = s.supply) (fun n t h => by simp [h]) rfl
@[simp] theorem walkOnce_ticks  (s : State) :
    (walkOnce  s).ticks = s.ticks := walkOnce_keeps (P := fun t => t.ticks = s.ticks) (fun n t h => by simp [h]) rfl
@[simp] theorem walkOnce_atTick  (s : State) :
    (walkOnce  s).atTick = s.atTick := walkOnce_keeps (P := fun t => t.atTick = s.atTick) (fun n t h => by simp [h]) rfl
@[simp] theorem image_walkOnce  (s : State) : (walkOnce  s).image = s.image := by simp [State.image]
/-! walks -/
@[simp] theorem walks_pending (fuel : Nat) (s : State) :
    (walks fuel s).pending = s.pending := walks_keeps (P := fun t => t.pending = s.pending) (fun n t h => by simp [h]) fuel rfl
@[simp] theorem walks_berth (fuel : Nat) (s : State) :
    (walks fuel s).berth = s.berth := walks_keeps (P := fun t => t.berth = s.berth) (fun n t h => by simp [h]) fuel rfl
@[simp] theorem walks_notices (fuel : Nat) (s : State) :
    (walks fuel s).report.notices = s.report.notices := walks_keeps (P := fun t => t.report.notices = s.report.notices) (fun n t h => by simp [h]) fuel rfl
@[simp] theorem walks_profile (fuel : Nat) (s : State) :
    (walks fuel s).profile = s.profile := walks_keeps (P := fun t => t.profile = s.profile) (fun n t h => by simp [h]) fuel rfl
@[simp] theorem walks_supply (fuel : Nat) (s : State) :
    (walks fuel s).supply = s.supply := walks_keeps (P := fun t => t.supply = s.supply) (fun n t h => by simp [h]) fuel rfl
@[simp] theorem walks_ticks (fuel : Nat) (s : State) :
    (walks fuel s).ticks = s.ticks := walks_keeps (P := fun t => t.ticks = s.ticks) (fun n t h => by simp [h]) fuel rfl
@[simp] theorem walks_atTick (fuel : Nat) (s : State) :
    (walks fuel s).atTick = s.atTick := walks_keeps (P := fun t => t.atTick = s.atTick) (fun n t h => by simp [h]) fuel rfl
@[simp] theorem image_walks (fuel : Nat) (s : State) :
    (walks fuel s).image = s.image := by simp [State.image]
/-! takeProbes -/
@[simp] theorem takeProbes_pending (s : State) :
    (takeProbes s).pending = s.pending := by
  unfold takeProbes
  split <;> simp
@[simp] theorem takeProbes_berth (s : State) :
    (takeProbes s).berth = s.berth := by
  unfold takeProbes
  split <;> simp
@[simp] theorem takeProbes_profile (s : State) :
    (takeProbes s).profile = s.profile := by
  unfold takeProbes
  split <;> simp
@[simp] theorem takeProbes_bus (s : State) :
    (takeProbes s).bus = s.bus := by
  unfold takeProbes
  split <;> simp
@[simp] theorem takeProbes_report (s : State) :
    (takeProbes s).report = s.report := by
  unfold takeProbes
  split <;> simp
@[simp] theorem takeProbes_supply (s : State) :
    (takeProbes s).supply = s.supply := by
  unfold takeProbes
  split <;> simp
@[simp] theorem takeProbes_ticks (s : State) :
    (takeProbes s).ticks = s.ticks := by
  unfold takeProbes
  split <;> simp
@[simp] theorem takeProbes_atTick (s : State) :
    (takeProbes s).atTick = s.atTick := by
  unfold takeProbes
  split <;> simp
@[simp] theorem image_takeProbes (s : State) :
    (takeProbes s).image = s.image := by simp [State.image]
/-! reevaluate -/
@[simp] theorem reevaluate_pending (s : State) :
    (reevaluate s).pending = s.pending := by simp [reevaluate, rewalk]
@[simp] theorem reevaluate_berth (s : State) :
    (reevaluate s).berth = s.berth := by simp [reevaluate, rewalk]
@[simp] theorem reevaluate_notices (s : State) :
    (reevaluate s).report.notices = s.report.notices := by simp [reevaluate, rewalk]
@[simp] theorem reevaluate_profile (s : State) :
    (reevaluate s).profile = s.profile := by simp [reevaluate, rewalk]
@[simp] theorem reevaluate_supply (s : State) :
    (reevaluate s).supply = s.supply := by simp [reevaluate, rewalk]
@[simp] theorem reevaluate_ticks (s : State) :
    (reevaluate s).ticks = s.ticks := by simp [reevaluate, rewalk]
@[simp] theorem reevaluate_atTick (s : State) :
    (reevaluate s).atTick = s.atTick := by simp [reevaluate, rewalk]
@[simp] theorem image_reevaluate  (s : State) :
    (reevaluate  s).image = s.image := by simp [State.image]
/-! silenceAt -/
@[simp] theorem silenceAt_pending (old : Phase) (s : State) :
    (silenceAt old s).pending = s.pending := rfl
@[simp] theorem silenceAt_queue (old : Phase) (s : State) : (silenceAt old s).queue = s.queue := rfl
@[simp] theorem silenceAt_scan (old : Phase) (s : State) : (silenceAt old s).scan = s.scan := rfl
@[simp] theorem silenceAt_profile (old : Phase) (s : State) :
    (silenceAt old s).profile = s.profile := rfl
@[simp] theorem silenceAt_bus (old : Phase) (s : State) : (silenceAt old s).bus = s.bus := rfl
@[simp] theorem silenceAt_report (old : Phase) (s : State) :
    (silenceAt old s).report = s.report := rfl
@[simp] theorem silenceAt_supply (old : Phase) (s : State) :
    (silenceAt old s).supply = s.supply := rfl
@[simp] theorem silenceAt_ticks (old : Phase) (s : State) : (silenceAt old s).ticks = s.ticks := rfl
@[simp] theorem silenceAt_atTick (old : Phase) (s : State) :
    (silenceAt old s).atTick = s.atTick := rfl
@[simp] theorem line_silenceAt (m : LineId) (old : Phase) (s : State) :
    (silenceAt old s).line m = s.line m := rfl
@[simp] theorem image_silenceAt (old : Phase) (s : State) :
    (silenceAt old s).image = s.image := by simp [State.image]
/-! autoVacant -/
@[simp] theorem autoVacant_pending  (s : State) : (autoVacant  s).pending = s.pending := by
  unfold autoVacant changePhase silenceAt
  split <;> simp
@[simp] theorem autoVacant_queue  (s : State) : (autoVacant  s).queue = s.queue := by
  unfold autoVacant changePhase silenceAt
  split <;> simp
@[simp] theorem autoVacant_scan  (s : State) : (autoVacant  s).scan = s.scan := by
  unfold autoVacant changePhase silenceAt
  split <;> simp
@[simp] theorem autoVacant_profile  (s : State) : (autoVacant  s).profile = s.profile := by
  unfold autoVacant changePhase silenceAt
  split <;> simp
@[simp] theorem autoVacant_report  (s : State) : (autoVacant  s).report = s.report := by
  unfold autoVacant changePhase silenceAt
  split <;> simp
@[simp] theorem autoVacant_supply  (s : State) : (autoVacant  s).supply = s.supply := by
  unfold autoVacant changePhase silenceAt
  split <;> simp
@[simp] theorem autoVacant_ticks  (s : State) : (autoVacant  s).ticks = s.ticks := by
  unfold autoVacant changePhase silenceAt
  split <;> simp
@[simp] theorem autoVacant_atTick  (s : State) : (autoVacant  s).atTick = s.atTick := by
  unfold autoVacant changePhase silenceAt
  split <;> simp
@[simp] theorem line_autoVacant (m : LineId)  (s : State) : (autoVacant  s).line m = s.line m := by
  unfold autoVacant changePhase silenceAt
  split <;> simp
@[simp] theorem image_autoVacant  (s : State) :
    (autoVacant  s).image = s.image := by simp [State.image]
/-! settle -/
@[simp] theorem settle_pending (n : LineId) (s : State) :
    (settle n s).pending = s.pending := by simp [settle]
@[simp] theorem settle_profile (n : LineId) (s : State) :
    (settle n s).profile = s.profile := by simp [settle]
@[simp] theorem settle_notices (n : LineId) (s : State) :
    (settle n s).report.notices = s.report.notices := by simp [settle]
@[simp] theorem settle_supply (n : LineId) (s : State) :
    (settle n s).supply = s.supply := by simp [settle]
@[simp] theorem settle_ticks (n : LineId) (s : State) :
    (settle n s).ticks = s.ticks := by simp [settle]
@[simp] theorem settle_atTick (n : LineId) (s : State) :
    (settle n s).atTick = s.atTick := by simp [settle]
@[simp] theorem image_settle (n : LineId) (s : State) :
    (settle n s).image = s.image := by simp [State.image]
/-! askProbe -/
@[simp] theorem askProbe_pending (e : Entry) (s : State) : (askProbe e s).pending = s.pending := by
  unfold askProbe
  split <;> simp
@[simp] theorem askProbe_berth (e : Entry) (s : State) : (askProbe e s).berth = s.berth := by
  unfold askProbe
  split <;> simp
@[simp] theorem askProbe_profile (e : Entry) (s : State) : (askProbe e s).profile = s.profile := by
  unfold askProbe
  split <;> simp
@[simp] theorem askProbe_bus (e : Entry) (s : State) : (askProbe e s).bus = s.bus := by
  unfold askProbe
  split <;> simp
@[simp] theorem askProbe_report (e : Entry) (s : State) : (askProbe e s).report = s.report := by
  unfold askProbe
  split <;> simp
@[simp] theorem askProbe_supply (e : Entry) (s : State) : (askProbe e s).supply = s.supply := by
  unfold askProbe
  split <;> simp
@[simp] theorem askProbe_ticks (e : Entry) (s : State) : (askProbe e s).ticks = s.ticks := by
  unfold askProbe
  split <;> simp
@[simp] theorem askProbe_atTick (e : Entry) (s : State) : (askProbe e s).atTick = s.atTick := by
  unfold askProbe
  split <;> simp
@[simp] theorem image_askProbe (e : Entry) (s : State) :
    (askProbe e s).image = s.image := by simp [State.image]
/-! holdOrder -/
@[simp] theorem holdOrder_pending (n : LineId) (k : HeldKind) (t : Tag) (o : Origin) (s : State) :
    (holdOrder n k t o s).pending = s.pending := by
  unfold holdOrder
  split <;> (try split) <;> simp
@[simp] theorem holdOrder_berth (n : LineId) (k : HeldKind) (t : Tag) (o : Origin) (s : State) :
    (holdOrder n k t o s).berth = s.berth := by
  unfold holdOrder
  split <;> (try split) <;> simp
@[simp] theorem holdOrder_notices (n : LineId) (k : HeldKind) (t : Tag) (o : Origin) (s : State) :
    (holdOrder n k t o s).report.notices = s.report.notices := by
  unfold holdOrder
  split <;> (try split) <;> simp
@[simp] theorem holdOrder_profile (n : LineId) (k : HeldKind) (t : Tag) (o : Origin) (s : State) :
    (holdOrder n k t o s).profile = s.profile := by
  unfold holdOrder
  split <;> (try split) <;> simp
@[simp] theorem holdOrder_supply (n : LineId) (k : HeldKind) (t : Tag) (o : Origin) (s : State) :
    (holdOrder n k t o s).supply = s.supply := by
  unfold holdOrder
  split <;> (try split) <;> simp
@[simp] theorem holdOrder_ticks (n : LineId) (k : HeldKind) (t : Tag) (o : Origin) (s : State) :
    (holdOrder n k t o s).ticks = s.ticks := by
  unfold holdOrder
  split <;> (try split) <;> simp
@[simp] theorem holdOrder_atTick (n : LineId) (k : HeldKind) (t : Tag) (o : Origin) (s : State) :
    (holdOrder n k t o s).atTick = s.atTick := by
  unfold holdOrder
  split <;> (try split) <;> simp
@[simp] theorem image_holdOrder (n : LineId) (k : HeldKind) (t : Tag) (o : Origin) (s : State) :
    (holdOrder n k t o s).image = s.image := by simp [State.image]
/-! supersede -/
@[simp] theorem supersede_pending (n : LineId) (s : State) :
    (supersede n s).pending = s.pending := by
  unfold supersede
  split <;> simp
@[simp] theorem supersede_scan (n : LineId) (s : State) : (supersede n s).scan = s.scan := by
  unfold supersede
  split <;> simp
@[simp] theorem supersede_berth (n : LineId) (s : State) : (supersede n s).berth = s.berth := by
  unfold supersede
  split <;> simp
@[simp] theorem supersede_notices (n : LineId) (s : State) : (supersede n s).report.notices = s.report.notices := by
  unfold supersede
  split <;> simp
@[simp] theorem supersede_profile (n : LineId) (s : State) :
    (supersede n s).profile = s.profile := by
  unfold supersede
  split <;> simp
@[simp] theorem supersede_supply (n : LineId) (s : State) : (supersede n s).supply = s.supply := by
  unfold supersede
  split <;> simp
@[simp] theorem supersede_ticks (n : LineId) (s : State) : (supersede n s).ticks = s.ticks := by
  unfold supersede
  split <;> simp
@[simp] theorem supersede_atTick (n : LineId) (s : State) : (supersede n s).atTick = s.atTick := by
  unfold supersede
  split <;> simp
@[simp] theorem image_supersede (n : LineId) (s : State) :
    (supersede n s).image = s.image := by simp [State.image]
/-! endEntry -/
@[simp] theorem endEntry_pending (v : Verdict) (e : Entry) (s : State) :
    (endEntry v e s).pending = s.pending := by simp [endEntry]
@[simp] theorem endEntry_scan (v : Verdict) (e : Entry) (s : State) :
    (endEntry v e s).scan = s.scan := by simp [endEntry]
@[simp] theorem endEntry_berth (v : Verdict) (e : Entry) (s : State) :
    (endEntry v e s).berth = s.berth := by simp [endEntry]
@[simp] theorem endEntry_notices (v : Verdict) (e : Entry) (s : State) :
    (endEntry v e s).report.notices = s.report.notices := by simp [endEntry]
@[simp] theorem endEntry_profile (v : Verdict) (e : Entry) (s : State) :
    (endEntry v e s).profile = s.profile := by simp [endEntry]
@[simp] theorem endEntry_supply (v : Verdict) (e : Entry) (s : State) :
    (endEntry v e s).supply = s.supply := by simp [endEntry]
@[simp] theorem endEntry_ticks (v : Verdict) (e : Entry) (s : State) :
    (endEntry v e s).ticks = s.ticks := by simp [endEntry]
@[simp] theorem endEntry_atTick (v : Verdict) (e : Entry) (s : State) :
    (endEntry v e s).atTick = s.atTick := by simp [endEntry]
@[simp] theorem image_endEntry (v : Verdict) (e : Entry) (s : State) :
    (endEntry v e s).image = s.image := by simp [State.image]
/-! flush -/
@[simp] theorem flush_pending  (s : State) :
    (flush  s).pending = s.pending := flush_keeps (P := fun t => t.pending = s.pending) (fun e t h => by simp [h]) (fun t h => by simp [h]) rfl
@[simp] theorem flush_scan  (s : State) :
    (flush  s).scan = s.scan := flush_keeps (P := fun t => t.scan = s.scan) (fun e t h => by simp [h]) (fun t h => by simp [h]) rfl
@[simp] theorem flush_berth  (s : State) :
    (flush  s).berth = s.berth := flush_keeps (P := fun t => t.berth = s.berth) (fun e t h => by simp [h]) (fun t h => by simp [h]) rfl
@[simp] theorem flush_notices  (s : State) :
    (flush  s).report.notices = s.report.notices := flush_keeps (P := fun t => t.report.notices = s.report.notices) (fun e t h => by simp [h]) (fun t h => by simp [h]) rfl
@[simp] theorem flush_profile  (s : State) :
    (flush  s).profile = s.profile := flush_keeps (P := fun t => t.profile = s.profile) (fun e t h => by simp [h]) (fun t h => by simp [h]) rfl
@[simp] theorem flush_supply  (s : State) :
    (flush  s).supply = s.supply := flush_keeps (P := fun t => t.supply = s.supply) (fun e t h => by simp [h]) (fun t h => by simp [h]) rfl
@[simp] theorem flush_ticks  (s : State) :
    (flush  s).ticks = s.ticks := flush_keeps (P := fun t => t.ticks = s.ticks) (fun e t h => by simp [h]) (fun t h => by simp [h]) rfl
@[simp] theorem flush_atTick  (s : State) :
    (flush  s).atTick = s.atTick := flush_keeps (P := fun t => t.atTick = s.atTick) (fun e t h => by simp [h]) (fun t h => by simp [h]) rfl
@[simp] theorem image_flush  (s : State) : (flush  s).image = s.image := by simp [State.image]
/-! failProbe -/
@[simp] theorem failProbe_pending (e : Entry) (s : State) :
    (failProbe e s).pending = s.pending := by simp [failProbe]
@[simp] theorem failProbe_scan (e : Entry) (s : State) :
    (failProbe e s).scan = s.scan := by simp [failProbe]
@[simp] theorem failProbe_berth (e : Entry) (s : State) :
    (failProbe e s).berth = s.berth := by simp [failProbe]
@[simp] theorem failProbe_profile (e : Entry) (s : State) :
    (failProbe e s).profile = s.profile := by simp [failProbe]
@[simp] theorem failProbe_report (e : Entry) (s : State) :
    (failProbe e s).report = s.report := by simp [failProbe]
@[simp] theorem failProbe_supply (e : Entry) (s : State) :
    (failProbe e s).supply = s.supply := by simp [failProbe]
@[simp] theorem failProbe_ticks (e : Entry) (s : State) :
    (failProbe e s).ticks = s.ticks := by simp [failProbe]
@[simp] theorem failProbe_atTick (e : Entry) (s : State) :
    (failProbe e s).atTick = s.atTick := by simp [failProbe]
@[simp] theorem line_failProbe (m : LineId) (e : Entry) (s : State) :
    (failProbe e s).line m = s.line m := by simp [failProbe]
@[simp] theorem image_failProbe (e : Entry) (s : State) :
    (failProbe e s).image = s.image := by simp [State.image]
/-! sampleEntry -/
@[simp] theorem sampleEntry_pending (n : LineId) (probe : Bool) (s : State) :
    (sampleEntry n probe s).pending = s.pending := by
  unfold sampleEntry
  (repeat' split) <;> simp_all
@[simp] theorem sampleEntry_profile (n : LineId) (probe : Bool) (s : State) :
    (sampleEntry n probe s).profile = s.profile := by
  unfold sampleEntry
  (repeat' split) <;> simp_all
@[simp] theorem sampleEntry_supply (n : LineId) (probe : Bool) (s : State) :
    (sampleEntry n probe s).supply = s.supply := by
  unfold sampleEntry
  (repeat' split) <;> simp_all
@[simp] theorem sampleEntry_ticks (n : LineId) (probe : Bool) (s : State) :
    (sampleEntry n probe s).ticks = s.ticks := by
  unfold sampleEntry
  (repeat' split) <;> simp_all
@[simp] theorem sampleEntry_atTick (n : LineId) (probe : Bool) (s : State) :
    (sampleEntry n probe s).atTick = s.atTick := by
  unfold sampleEntry
  (repeat' split) <;> simp_all
@[simp] theorem image_sampleEntry (n : LineId) (probe : Bool) (s : State) :
    (sampleEntry n probe s).image = s.image := by simp [State.image]

end Sys2Proof.Machine
end

