-- ==== Sys2Proof/Laws/Sound.lean ====
section
/-! SUPPORT. Every operation of Ops, Effects and Queue keeps a sound state sound. -/

namespace Sys2Proof.Machine

/-! ### How soundness is carried over an update -/

theorem anyNotice_congr {s t : State} (hr : t.report.notices = s.report.notices)
    (hl : ∀ m, (t.line m).notice = (s.line m).notice) : t.anyNotice = s.anyNotice := by
  simp [State.anyNotice, hr, hl]

/-- A sound state stays sound under a change of one line that keeps the line sound and its notice. -/
theorem State.Sound.modLine {s : State} (h : s.Sound) {n : LineId} {f : Line → Line}
    (hl : (f (s.line n)).Sound) (hn : (f (s.line n)).notice = (s.line n).notice) :
    (modLine n f s).Sound where
  line m := by
    rw [line_modLine]
    split
    · exact hl
    · exact h.line m
  attn := by
    rw [modLine_report, h.attn]
    refine (anyNotice_congr (by simp) fun m => ?_).symm
    rw [line_modLine]
    split
    · rename_i e; rw [e]; exact hn
    · rfl
  queueSize := h.queueSize
  queueLines := h.queueLines
  present := h.present
  orderLines := h.orderLines
  reports := h.reports
  load := h.load

/-- A sound state stays sound where lines, notices and ATTN stay as they were and the rest is sound. -/
theorem State.Sound.of_parts {s t : State} (h : s.Sound) (hl : ∀ m, t.line m = s.line m)
    (hr : t.report.notices = s.report.notices) (ha : t.report.attn = s.report.attn)
    (hq : t.queue.length ≤ 8 ∧ (t.queue.map (·.line)).Nodup)
    (hb : ∀ c, t.berth.present.has c = true → t.berth.causes.has c = true)
    (ho : (t.bus.orderLane.map (·.line)).Nodup) (hp : t.bus.reportLane.Nodup)
    (hf : t.profile.Sound) : t.Sound where
  line m := by rw [hl]; exact h.line m
  attn := by rw [ha, h.attn]; exact (anyNotice_congr hr fun m => by rw [hl]).symm
  queueSize := hq.1
  queueLines := hq.2
  present := hb
  orderLines := ho
  reports := hp
  load := hf

/-! ### Records, notices, lanes -/

theorem State.Sound.askRecord {s : State} (h : s.Sound) (r : RecId) : (askRecord r s).Sound := by
  refine h.of_parts (by simp) (by simp) (by simp) ⟨by simpa using h.queueSize, by simpa using h.queueLines⟩
    (by simpa using h.present) ?_ ?_ (by simpa using h.load)
  · unfold Machine.askRecord; split <;> exact h.orderLines
  · unfold Machine.askRecord
    split
    · exact h.reports
    · rename_i e
      simp only [not_or] at e
      refine List.nodup_append.mpr ⟨h.reports, by simp, ?_⟩
      rintro a ha b hb rfl
      simp only [List.mem_singleton] at hb
      exact e.2.2 (hb ▸ ha)

theorem State.Sound.askLine {s : State} (h : s.Sound) (n : LineId) : (askLine n s).Sound :=
  h.askRecord _

theorem State.Sound.askBerth {s : State} (h : s.Sound) : (askBerth s).Sound := h.askRecord _

/-- ATTN judged afresh makes good what a change of notices left. -/
theorem State.Sound.judgeAttn {s : State} (hl : ∀ m, (s.line m).Sound)
    (hq : s.queue.length ≤ 8 ∧ (s.queue.map (·.line)).Nodup)
    (hb : ∀ c, s.berth.present.has c = true → s.berth.causes.has c = true)
    (ho : (s.bus.orderLane.map (·.line)).Nodup) (hp : s.bus.reportLane.Nodup)
    (hf : s.profile.Sound) : (judgeAttn s).Sound where
  line m := hl m
  attn := rfl
  queueSize := hq.1
  queueLines := hq.2
  present := hb
  orderLines := ho
  reports := hp
  load := hf

/-- A notice is no matter of a line's soundness. -/
theorem Line.Sound.withNotice {l : Line} (h : l.Sound) (v : Bool) :
    ({ l with notice := v } : Line).Sound := ⟨h.1, h.2, h.3, h.4, h.5, h.6, h.7, h.8, h.9, h.10, h.11, h.12, h.13⟩

theorem State.Sound.setLineNotice {s : State} (h : s.Sound) (n : LineId) :
    (setLineNotice n s).Sound := by
  unfold Machine.setLineNotice
  split
  · exact h
  · have hj : (Machine.judgeAttn (Machine.modLine n (fun l => { l with notice := true }) s)).Sound := by
      refine State.Sound.judgeAttn (fun m => ?_) ⟨h.queueSize, h.queueLines⟩ h.present h.orderLines
        h.reports h.load
      rw [line_modLine]
      split
      · exact (h.line n).withNotice true
      · exact h.line m
    exact (hj.askLine n).askBerth

theorem State.Sound.setBerthNotice {s : State} (h : s.Sound) (k : BerthNotice) :
    (setBerthNotice k s).Sound := by
  unfold Machine.setBerthNotice
  split
  · exact h
  · have hj : (Machine.judgeAttn { s with report :=
        { s.report with notices := s.report.notices ||| (1#8 <<< k.code) } }).Sound :=
      State.Sound.judgeAttn h.line ⟨h.queueSize, h.queueLines⟩ h.present h.orderLines h.reports h.load
    exact hj.askBerth

/-- The lines of the lane after a pair is placed: as they were, with the pair's line at the tail if it
had none. -/
theorem placeIn_lines (e : LaneEntry) (lane : List LaneEntry) :
    (placeIn e lane).map (·.line)
      = if e.line ∈ lane.map (·.line) then lane.map (·.line) else lane.map (·.line) ++ [e.line] := by
  have hiff : (lane.any fun x => x.line == e.line) = true ↔ e.line ∈ lane.map (·.line) := by
    simp [List.any_eq_true]
  unfold placeIn
  by_cases hm : e.line ∈ lane.map (·.line)
  · rw [if_pos (hiff.mpr hm), if_pos hm, List.map_map]
    refine List.map_congr_left fun x _ => ?_
    by_cases hx : x.line = e.line
    · simp [hx]
    · simp [hx]
  · rw [if_neg (fun c => hm (hiff.mp c)), if_neg hm]
    simp

theorem placeIn_nodup (e : LaneEntry) {lane : List LaneEntry} (h : (lane.map (·.line)).Nodup) :
    ((placeIn e lane).map (·.line)).Nodup := by
  rw [placeIn_lines]
  split
  · exact h
  · rename_i hm
    refine List.nodup_append.mpr ⟨h, by simp, ?_⟩
    rintro a ha b hb rfl
    exact hm (List.mem_singleton.mp hb ▸ ha)

theorem State.Sound.placePair {s : State} (h : s.Sound) (e : LaneEntry) : (placePair e s).Sound :=
  h.of_parts (by simp) (by simp) (by simp) ⟨h.queueSize, h.queueLines⟩ h.present
    (placeIn_nodup e h.orderLines) h.reports h.load

theorem State.Sound.withdrawPairs {s : State} (h : s.Sound) : (withdrawPairs s).Sound :=
  h.of_parts (by simp) (by simp) (by simp) ⟨h.queueSize, h.queueLines⟩ h.present
    (h.orderLines.sublist (List.filter_sublist.map _)) h.reports h.load

/-! ### Verdicts -/

theorem Line.Sound.withLastHost {l : Line} (h : l.Sound) {v : LastHost}
    (hv : ∀ r, v.outcome = some (.refused r) → v.superseded = none) :
    ({ l with lastHost := v } : Line).Sound :=
  ⟨h.1, h.2, h.3, h.4, h.5, h.6, hv, h.8, h.9, h.10, h.11, h.12, h.13⟩

theorem State.Sound.recordHost {s : State} (h : s.Sound) (n : LineId) {v : LastHost}
    (hv : ∀ r, v.outcome = some (.refused r) → v.superseded = none) : (recordHost n v s).Sound :=
  (h.modLine (f := fun l => { l with lastHost := v }) ((h.line n).withLastHost hv) rfl).askLine n

theorem State.Sound.recordEnding {s : State} (h : s.Sound) (n : LineId) (t : Tag) (k : OrderKind)
    {v : Verdict} (hv : ∀ r, v ≠ .refused r) : (recordEnding n t k v s).Sound :=
  h.recordHost n fun r e => absurd (Option.some.inj e) (hv r)

theorem State.Sound.refuse {s : State} (h : s.Sound) (n : LineId) (o : Option (Tag × OrderKind))
    (r : RefusalReason) : (refuse n o r s).Sound :=
  (h.recordHost n (v := ⟨o, some (.refused r), none⟩) fun _ _ => rfl).setLineNotice n

/-! ### Drum supervision -/

/-- A timer after entry to a state: kept or loaded where the state runs it, stopped elsewhere. -/
theorem Line.Sound.enter {l : Line} (h : l.Sound) (img : List Word) (t : Nat → Nat) (st : LineState) :
    (Line.enter img t st l).Sound where
  stale := h.stale
  overRun := h.overRun
  slackRun := h.slackRun
  ring := h.ring
  payout := h.payout
  age := h.age
  refused := h.refused
  run := by simp only [Line.enter]; split <;> simp_all
  ceiling := by simp only [Line.enter]; split <;> simp_all [h.ceiling]
  stall := by simp only [Line.enter]; split <;> simp_all
  haul := by simp only [Line.enter]; split <;> simp_all
  slip := by simp only [Line.enter]; split <;> simp_all
  brake := by simp only [Line.enter]; split <;> simp_all

theorem State.Sound.enterState {s : State} (h : s.Sound) (n : LineId) (st : LineState) :
    (enterState n st s).Sound := h.modLine ((h.line n).enter _ _ st) rfl

theorem line_enterState (n m : LineId) (st : LineState) (s : State) :
    (enterState n st s).line m
      = if m = n then Line.enter s.image s.ticksFor st (s.line n) else s.line m := by
  simp [enterState]

@[simp] theorem enter_state (img : List Word) (t : Nat → Nat) (st : LineState) (l : Line) :
    (Line.enter img t st l).state = st := rfl

/-- The state of a line after it takes a state. -/
@[simp] theorem state_enterState (n : LineId) (st : LineState) (s : State) :
    ((enterState n st s).line n).state = st := by simp [line_enterState]

theorem Line.Sound.withRun {l : Line} (h : l.Sound) (hm : l.state.moves = true) (v : Nat) (t : Timer) :
    ({ l with run := some ⟨v, v⟩, stall := t } : Line).Sound :=
  ⟨h.1, h.2, h.3, h.4, h.5, h.6, h.7, fun _ => hm,
   by rintro r ⟨⟩; exact le_refl _, fun _ => hm, h.11, h.12, h.13⟩

theorem State.Sound.loadRun {s : State} (h : s.Sound) {n : LineId} (v : Nat)
    (hm : (s.line n).state.moves = true) : (loadRun n v s).Sound :=
  h.modLine (f := fun l => { l with run := some ⟨v, v⟩, stall := some (s.ticksFor (stallTime s.image)) })
    ((h.line n).withRun hm v _) rfl

theorem State.Sound.loadStall {s : State} (h : s.Sound) {n : LineId}
    (hm : (s.line n).state.moves = true) : (loadStall n s).Sound :=
  h.modLine (f := fun l => { l with stall := some (s.ticksFor (stallTime s.image)) })
    (let l := h.line n
     ⟨l.1, l.2, l.3, l.4, l.5, l.6, l.7, l.8, l.9, fun _ => hm, l.11, l.12, l.13⟩) rfl

/-- An order of the part's own keeps the state sound; an EASE is written to a line that moves. -/
theorem State.Sound.partOrder {s : State} (h : s.Sound) (n : LineId) (k : OrderKind) (c : PartCause)
    (hm : k = .ease → (s.line n).state.moves = true) : (partOrder n k c s).Sound := by
  have hs : ∀ a, (Machine.askLine n (Machine.modLine n (fun l => { l with lastPart := some ⟨k, c⟩ })
      (Machine.placePair (makePair n k 0 a) s))).Sound := by
    intro a
    refine ((h.placePair _).modLine (f := fun l => { l with lastPart := some ⟨k, c⟩ }) ?_ rfl).askLine n
    have l := h.line n
    exact ⟨l.1, l.2, l.3, l.4, l.5, l.6, l.7, l.8, l.9, l.10, l.11, l.12, l.13⟩
  unfold Machine.partOrder
  dsimp only
  split
  · rename_i e
    refine (hs _).loadRun _ ?_
    simpa using hm e
  · exact hs _

theorem State.Sound.faultEntry {s : State} (h : s.Sound) (n : LineId) (r : FaultReason)
    (lock : Option PartCause) : (faultEntry n r lock s).Sound := by
  unfold Machine.faultEntry
  split
  · exact ((h.enterState n _).setLineNotice n).partOrder n .lock _ (by simp)
  · exact (h.enterState n _).setLineNotice n

/-! ### Probes and entries -/

/-- Entries changed in place keep their lines. -/
theorem State.Sound.mapQueue {s : State} (h : s.Sound) {f : Entry → Entry}
    (hf : ∀ e, (f e).line = e.line) : ({ s with queue := s.queue.map f } : State).Sound := by
  refine h.of_parts (fun _ => rfl) rfl rfl ⟨by simpa using h.queueSize, ?_⟩ h.present h.orderLines
    h.reports h.load
  have : (s.queue.map f).map (·.line) = s.queue.map (·.line) := by
    rw [List.map_map]
    exact List.map_congr_left fun e _ => hf e
  simpa [this] using h.queueLines

theorem State.Sound.markBegun {s : State} (h : s.Sound) (n : LineId) : (markBegun n s).Sound :=
  h.mapQueue fun e => by split <;> rfl

theorem State.Sound.withScan {s : State} (h : s.Sound) (sc : Scan) :
    ({ s with scan := sc } : State).Sound :=
  h.of_parts (fun _ => rfl) rfl rfl ⟨h.queueSize, h.queueLines⟩ h.present h.orderLines h.reports h.load

theorem Line.Sound.withProbe {l : Line} (h : l.Sound) (v : Bool) :
    ({ l with probeWaiting := v } : Line).Sound :=
  ⟨h.1, h.2, h.3, h.4, h.5, h.6, h.7, h.8, h.9, h.10, h.11, h.12, h.13⟩

theorem State.Sound.beginProbe {s : State} (h : s.Sound) (n : LineId) (resume : Option Nat) :
    (beginProbe n resume s).Sound :=
  ((h.modLine (f := fun l => { l with probeWaiting := false }) ((h.line n).withProbe _) rfl).withScan
    _).markBegun n

theorem State.Sound.joinProbe {s : State} (h : s.Sound) (n : LineId) : (joinProbe n s).Sound :=
  h.modLine (f := fun l => { l with probeWaiting := true }) ((h.line n).withProbe _) rfl

theorem State.Sound.requestProbe {s : State} (h : s.Sound) (n : LineId) : (requestProbe n s).Sound := by
  unfold Machine.requestProbe
  split
  · exact h.beginProbe n _
  · exact h.beginProbe n _
  · exact h.joinProbe n

theorem State.Sound.putEntry {s : State} (h : s.Sound) (e : Entry) : (putEntry e s).Sound :=
  h.mapQueue fun x => by
    split
    · rename_i hx; exact hx.symm
    · rfl

theorem State.Sound.dropEntry {s : State} (h : s.Sound) (n : LineId) : (dropEntry n s).Sound :=
  h.of_parts (by simp) rfl rfl
    ⟨(List.length_filter_le _ _).trans h.queueSize, h.queueLines.sublist (List.filter_sublist.map _)⟩
    h.present h.orderLines h.reports h.load

/-! ### Effects -/

theorem State.Sound.lockEffect {s : State} (h : s.Sound) (n : LineId) : (lockEffect n s).Sound := by
  unfold Machine.lockEffect
  dsimp only
  split
  · exact h
  · exact h.enterState n _

theorem State.Sound.rewindComplete {s : State} (h : s.Sound) (n : LineId) :
    (rewindComplete n s).Sound := by
  unfold Machine.rewindComplete
  split
  · exact (h.enterState n _).partOrder n .park _ (by simp)
  · exact h.faultEntry n _ _

theorem State.Sound.rewindEffect {s : State} (h : s.Sound) (n : LineId) : (rewindEffect n s).Sound := by
  have hs := h.enterState n .rewinding
  unfold Machine.rewindEffect
  dsimp only
  split
  · exact hs.loadStall (by simp [LineState.moves])
  · split
    · exact hs.rewindComplete n
    · exact hs.loadRun _ (by simp [LineState.moves])

theorem State.Sound.applyEffect {s : State} (h : s.Sound) (n : LineId) (k : OrderKind) (arg : Nat) :
    (applyEffect n k arg s).Sound := by
  unfold Machine.applyEffect
  split
  · exact h.lockEffect n
  · exact h.enterState n _
  · exact h.enterState n _
  · exact (h.enterState n _).loadRun _ (by simp [LineState.moves])
  · exact h.enterState n _
  · exact h.rewindEffect n
  · exact h.enterState n _
  · exact h

/-! ### The hold queue -/

theorem State.Sound.forward {s : State} (h : s.Sound) (e : Entry) : (forward e s).Sound :=
  (((((h.recordEnding e.line e.tag e.kind.order (v := .forwarded) (by simp)).dropEntry
    e.line).askBerth).placePair _).applyEffect e.line _ 0).askLine e.line

theorem State.Sound.judgeSlip {s : State} (h : s.Sound) (e : Entry) : (judgeSlip e s).Sound := by
  have h1 := h.putEntry (judged s e)
  unfold Machine.judgeSlip
  dsimp only
  split <;> split
  · exact h1.joinProbe _
  · exact (h1.askLine _).joinProbe _
  · exact h1
  · exact h1.askLine _

theorem State.Sound.judgeEntry {s : State} (n : LineId) (h : s.Sound) : (judgeEntry n s).Sound := by
  unfold Machine.judgeEntry
  split
  · exact h
  · split
    · split
      · exact h.forward _
      · exact h
    · exact h.judgeSlip _

theorem State.Sound.takeProbes {s : State} (h : s.Sound) : (takeProbes s).Sound :=
  takeProbes_keeps (fun m _ => h.requestProbe m) h

theorem State.Sound.reevaluate {s : State} (h : s.Sound) : (reevaluate s).Sound :=
  reevaluate_keeps (fun n _ ht => State.Sound.judgeEntry n ht) (fun n _ ht => ht.requestProbe n) h

theorem State.Sound.withPhase {s : State} (h : s.Sound) (p : Phase) (t : Timer)
    (r : Option RequestRefusal) :
    ({ s with berth := { s.berth with phase := p, silence := t, refusal := r } } : State).Sound :=
  h.of_parts (fun _ => rfl) rfl rfl ⟨h.queueSize, h.queueLines⟩ h.present h.orderLines h.reports h.load

/-- A change of phase keeps the state sound if the actions that go with it do. -/
theorem State.Sound.changePhase {s : State} (h : s.Sound) (p : Phase) {actions : State → State}
    (ha : ∀ t : State, t.Sound → (actions t).Sound) : (changePhase p actions s).Sound := by
  have h1 : ({ s with berth := { s.berth with phase := p } } : State).Sound :=
    h.withPhase p s.berth.silence s.berth.refusal
  exact ((ha _ h1).withPhase _ _ _).askBerth

theorem State.Sound.autoVacant {s : State} (h : s.Sound) : (autoVacant s).Sound := by
  unfold Machine.autoVacant
  split
  · exact h.changePhase .vacant fun _ ht => ht
  · exact h

theorem State.Sound.settle {s : State} (h : s.Sound) (n : LineId) : (settle n s).Sound :=
  (h.reevaluate.askLine n).autoVacant

theorem State.Sound.askProbe {s : State} (h : s.Sound) (e : Entry) : (askProbe e s).Sound := by
  unfold Machine.askProbe
  split
  · exact h.requestProbe _
  · exact h

theorem State.Sound.holdOrder {s : State} (h : s.Sound) (n : LineId) (k : HeldKind) (t : Tag)
    (o : Origin) : (holdOrder n k t o s).Sound := by
  unfold Machine.holdOrder
  split
  · exact ((((h.recordHost n (by simp)).putEntry _).setLineNotice n).askProbe _)
  · rename_i hn
    split
    · exact h.refuse n _ _
    · rename_i hq
      have h1 := h.recordHost n (v := ⟨some (t, k.order), some .held, none⟩) (by simp)
      refine (State.Sound.askBerth ?_).askProbe _
      refine h1.of_parts (fun _ => rfl) rfl rfl ⟨?_, ?_⟩ h1.present h1.orderLines h1.reports h1.load
      · simp only [Config.queueCapacity] at hq
        simp only [List.length_append, List.length_singleton, recordHost_queue]
        omega
      · simp only [recordHost_queue, List.map_append, List.map_cons, List.map_nil]
        refine List.nodup_append.mpr ⟨h.queueLines, by simp, ?_⟩
        rintro a ha b hb rfl
        rw [List.mem_singleton] at hb
        simp only [newEntry] at hb
        obtain ⟨x, hx, hxl⟩ := List.mem_map.mp ha
        have := List.find?_eq_none.mp hn x hx
        simp [hxl, hb] at this

theorem State.Sound.supersede {s : State} (h : s.Sound) (n : LineId) : (supersede n s).Sound := by
  unfold Machine.supersede
  split
  · exact h
  · exact ((h.dropEntry n).setLineNotice n).askBerth

theorem State.Sound.endEntry {s : State} {v : Verdict} (hv : ∀ r, v ≠ .refused r) (e : Entry)
    (h : s.Sound) : (endEntry v e s).Sound :=
  ((h.dropEntry e.line).recordEnding e.line e.tag e.kind.order hv).setLineNotice e.line

theorem State.Sound.flush {s : State} (h : s.Sound) : (flush s).Sound :=
  flush_keeps (fun e _ ht => State.Sound.endEntry (by simp) e ht) (fun _ ht => ht.askBerth) h

theorem State.Sound.failProbe {s : State} (h : s.Sound) (e : Entry) : (failProbe e s).Sound :=
  (h.putEntry _).askLine _

theorem State.Sound.sampleEntry {s : State} (h : s.Sound) (n : LineId) (probe : Bool) :
    (sampleEntry n probe s).Sound := by
  unfold Machine.sampleEntry
  split
  · exact h
  · split
    · exact h
    · split
      · split
        · exact ((h.forward _).reevaluate).autoVacant
        · exact h.failProbe _
      · split
        · exact h.judgeSlip _
        · exact (h.judgeSlip _).takeProbes

end Sys2Proof.Machine
end

