-- ==== Sys2Proof/Laws/SoundEvents.lean ====
section
/-! SUPPORT. Lockdown, the line table, the scan, the profile block and the resets keep a sound state
sound. -/

namespace Sys2Proof.Machine

/-! ### Lockdown -/

theorem State.Sound.transition {s : State} (h : s.Sound) (n : LineId) (st : LineState)
    (o : Option (OrderKind × PartCause)) (ho : ∀ k c, o = some (k, c) → k ≠ .ease) :
    (transition n st o s).Sound := by
  unfold Machine.transition
  split
  · rename_i k c
    exact ((h.enterState n st).partOrder n k c fun e => absurd e (ho k c rfl)).settle n
  · exact (h.enterState n st).settle n

theorem State.Sound.faultLine {s : State} (h : s.Sound) (n : LineId) (r : FaultReason)
    (lock : Option PartCause) : (faultLine n r lock s).Sound := (h.faultEntry n r lock).settle n

theorem State.Sound.setCauses {s : State} (h : s.Sound) {c p : CauseSet}
    (hcp : ∀ x, p.has x = true → c.has x = true) : (setCauses c p s).Sound := by
  unfold Machine.setCauses
  split
  · exact h
  · exact (h.of_parts (t := { s with berth := { s.berth with causes := c, present := p } })
      (fun _ => rfl) rfl rfl ⟨h.queueSize, h.queueLines⟩ hcp h.orderLines h.reports h.load).askBerth

theorem State.Sound.addCause {s : State} (h : s.Sound) (c : LockdownCause) (p : Bool) :
    (addCause c p s).Sound := by
  refine h.setCauses fun x hx => ?_
  have hp := h.present x
  simp only [CauseSet.has] at *
  split at hx
  · simp only [BitVec.getLsbD_or, Bool.or_eq_true] at *
    exact hx.imp hp id
  · simp only [BitVec.getLsbD_or, Bool.or_eq_true]
    exact .inl (hp hx)

theorem State.Sound.endCause {s : State} (h : s.Sound) (c : LockdownCause) : (endCause c s).Sound := by
  refine h.setCauses fun x hx => h.present x ?_
  simp only [CauseSet.has, BitVec.getLsbD_and, Bool.and_eq_true] at *
  exact hx.1

theorem State.Sound.lockdownLock {s : State} (c : LockdownCause) (n : LineId) (h : s.Sound) :
    (lockdownLock c n s).Sound := by
  unfold Machine.lockdownLock
  split
  · exact h.transition n _ _ (by simp)
  · exact h

/-- A sound state stays sound under a change of every line that keeps each line sound and its notice. -/
theorem State.Sound.modLines {s : State} (h : s.Sound) {f : LineId → Line → Line}
    (hl : ∀ n l, l.Sound → (f n l).Sound) (hn : ∀ n l, (f n l).notice = l.notice) :
    (eachLine (fun n => Machine.modLine n (f n)) s).Sound :=
  eachLine_keeps (P := State.Sound) (fun n _ ht => ht.modLine (hl n _ (ht.line n)) (hn n _)) h

theorem State.Sound.emptyLatches {s : State} (h : s.Sound) : (emptyLatches s).Sound :=
  h.modLines (fun _ _ l => ⟨l.1, l.2, l.3, l.4, l.5, by simp, l.7, l.8, l.9, l.10, l.11, l.12, l.13⟩)
    fun _ _ => rfl

theorem State.Sound.entryActions {s : State} (c : LockdownCause) (h : s.Sound) :
    (entryActions c s).Sound :=
  ((eachLine_keeps (P := State.Sound) (fun n _ ht => ht.lockdownLock c n)
    h.flush).withdrawPairs.emptyLatches).setBerthNotice _

theorem State.Sound.enterLockdown {s : State} (h : s.Sound) (c : LockdownCause) :
    (enterLockdown c s).Sound := h.changePhase _ fun _ ht => ht.entryActions c

theorem State.Sound.raiseCause {s : State} (h : s.Sound) (c : LockdownCause) (p : Bool) :
    (raiseCause c p s).Sound := by
  have h1 := h.addCause c p
  unfold Machine.raiseCause
  dsimp only
  (repeat' split) <;> first | with_reducible exact h1.enterLockdown c | with_reducible exact h1.setBerthNotice _ | with_reducible exact h1

theorem State.Sound.leaveStarting {s : State} (h : s.Sound) : (leaveStarting s).Sound := by
  unfold Machine.leaveStarting
  split
  · exact h.changePhase _ fun _ ht => ht
  · split
    · exact h.enterLockdown _
    · exact (h.addCause _ _).enterLockdown _

/-! ### The line table -/

theorem State.Sound.deriveLine {s : State} (h : s.Sound) (n : LineId) : (deriveLine n s).Sound := by
  have h1 : ∀ t : State, t.Sound → (if (t.line n).stowMade = true then
      Machine.modLine n (fun l => { l with payout := 0 }) t else t).Sound := by
    intro t ht
    split
    · have l := ht.line n
      exact ht.modLine (f := fun l => { l with payout := 0 })
        ⟨l.1, l.2, l.3, l.4, Nat.zero_le _, l.6, l.7, l.8, l.9, l.10, l.11, l.12, l.13⟩ rfl
    · exact ht
  unfold Machine.deriveLine
  refine (h1 _ ?_).enterState n _
  split
  · exact h
  · exact h.partOrder n .lock _ (by simp)

theorem State.Sound.renderEntry {s : State} (h : s.Sound) (n : LineId) (r : RenderReturn) :
    (renderEntry n r s).Sound :=
  (((h.enterState n _).partOrder n .ease _ (by simp [LineState.moves])).setLineNotice n).settle n

theorem State.Sound.renderReturn {s : State} (h : s.Sound) (n : LineId) (r : RenderReturn) :
    (renderReturn n r s).Sound := by
  unfold Machine.renderReturn
  split <;> exact h.transition n _ _ (by simp)

theorem State.Sound.sampleEvent {s : State} (h : s.Sound) (n : LineId) : (sampleEvent n s).Sound := by
  unfold Machine.sampleEvent
  (repeat' split) <;> first
    | with_reducible exact h
    | with_reducible exact (h.deriveLine n).settle n
    | with_reducible exact h.renderEntry n _
    | with_reducible exact h.renderReturn n _
    | with_reducible exact h.transition n _ _ (by simp)
    | with_reducible exact h.faultLine n _ _

theorem State.Sound.renderStepOn {s : State} (h : s.Sound) (n : LineId) (r : RenderReturn) (used : Nat)
    (hr : (s.line n).state.isRendering = true) : (renderStepOn n r used s).Sound := by
  refine (State.Sound.partOrder ?_ n .ease _ (by simp [LineState.moves])).askLine n
  have l := h.line n
  have hm : (s.line n).state.moves = true := by
    cases hst : (s.line n).state <;> simp_all [LineState.isRendering, LineState.moves]
  have hh : (s.line n).haul.isSome = true → False := fun e => by
    have := l.haul e
    cases hst : (s.line n).state <;> simp_all [LineState.isRendering, LineState.isHauling]
  have hs : (s.line n).slip.isSome = true → False := fun e => by
    have := l.slip e
    simp_all [LineState.isRendering]
  exact h.modLine (f := fun l => { l with state := .rendering r (used + 1) })
    ⟨l.1, l.2, l.3, l.4, l.5, l.6, l.7, fun _ => rfl, l.9, fun _ => rfl,
     fun e => (hh e).elim, fun e => (hs e).elim, fun _ => rfl⟩ rfl

theorem State.Sound.runComplete {s : State} (h : s.Sound) (n : LineId) : (runComplete n s).Sound := by
  unfold Machine.runComplete
  split
  · exact h.transition n _ _ (by simp)
  · split
    · exact h.renderStepOn n _ _ (by simp [*, LineState.isRendering])
    · exact (h.faultLine n _ _).raiseCause _ _
  · exact (h.rewindComplete n).settle n
  all_goals exact h

theorem State.Sound.stallEvent {s : State} (h : s.Sound) (n : LineId) : (stallEvent n s).Sound := by
  unfold Machine.stallEvent
  split <;> first | with_reducible exact h.faultLine n _ _ | with_reducible exact h

theorem State.Sound.haulTimeOutEvent {s : State} (h : s.Sound) (n : LineId) :
    (haulTimeOutEvent n s).Sound := by
  unfold Machine.haulTimeOutEvent
  split <;> first | with_reducible exact h.faultLine n _ _ | with_reducible exact h

theorem State.Sound.slipTimeOutEvent {s : State} (h : s.Sound) (n : LineId) :
    (slipTimeOutEvent n s).Sound := by
  unfold Machine.slipTimeOutEvent
  split <;> first | with_reducible exact h.faultLine n _ _ | with_reducible exact h

theorem State.Sound.creepEvent {s : State} (h : s.Sound) (n : LineId) : (creepEvent n s).Sound := by
  unfold Machine.creepEvent
  split <;> first | with_reducible exact h.faultLine n _ _ | with_reducible exact h

theorem State.Sound.mismatchEvent {s : State} (h : s.Sound) (n : LineId) :
    (mismatchEvent n s).Sound := by
  unfold Machine.mismatchEvent
  split <;> first | with_reducible exact h.faultLine n _ _ | with_reducible exact h

theorem State.Sound.stowMadeEvent {s : State} (h : s.Sound) (n : LineId) :
    (stowMadeEvent n s).Sound := by
  unfold Machine.stowMadeEvent
  split <;> first | with_reducible exact h.transition n _ _ (by simp) | with_reducible exact h

theorem State.Sound.stowLostEvent {s : State} (h : s.Sound) (n : LineId) :
    (stowLostEvent n s).Sound := by
  unfold Machine.stowLostEvent
  split <;> first | with_reducible exact h.faultLine n _ _ | with_reducible exact h

/-! ### The scan -/

theorem classOf_ne_none (img : List Word) (n : LineId) (t : Nat) : classOf img n t ≠ .noClass := by
  unfold classOf
  (repeat' split) <;> simp

theorem runAfter_le (own : Bool) {c : Nat} (_h : c ≤ 15) : runAfter own c ≤ 15 := by
  unfold runAfter
  split
  · exact Nat.min_le_left _ _
  · exact Nat.zero_le _

theorem pushSample_length (x : Sample) (r : List Sample) : (pushSample x r).length ≤ 8 :=
  List.length_take_le _ _

theorem Line.Sound.takeSample {l : Line} (h : l.Sound) (t : Nat) {c : Classification}
    (hc : c ≠ .noClass) : (l.takeSample t c).Sound :=
  ⟨by simp [Line.takeSample, hc], runAfter_le _ h.2, runAfter_le _ h.3, pushSample_length _ _, h.5, h.6,
   h.7, h.8, h.9, h.10, h.11, h.12, h.13⟩

theorem Line.Sound.stale' {l : Line} (h : l.Sound) : l.stale.Sound :=
  ⟨by simp [Line.stale], Nat.zero_le _, Nat.zero_le _, h.4, h.5, h.6, h.7, h.8, h.9, h.10, h.11, h.12,
   h.13⟩

theorem Line.Sound.withRing {l : Line} (h : l.Sound) {r : List Sample} (hr : r.length ≤ 8) :
    ({ l with ring := r } : Line).Sound :=
  ⟨h.1, h.2, h.3, hr, h.5, h.6, h.7, h.8, h.9, h.10, h.11, h.12, h.13⟩

theorem State.Sound.storeSample {s : State} (h : s.Sound) (n : LineId) (raw : Nat) :
    (storeSample n raw s).Sound := by
  unfold Machine.storeSample
  dsimp only
  split
  · exact h.modLine ((h.line n).takeSample _ (classOf_ne_none _ _ _)) rfl
  · exact h.modLine ((h.line n).stale'.withRing (pushSample_length _ _)) rfl

theorem State.Sound.lineSample {s : State} (h : s.Sound) (n : LineId) (probe : Bool) (raw : Nat) :
    (lineSample n probe raw s).Sound := by
  have h1 := h.storeSample n raw
  unfold Machine.lineSample
  dsimp only
  split
  · exact (h1.sampleEvent n).sampleEntry n probe
  · exact h1.sampleEntry n probe

theorem State.Sound.setRef {s : State} (h : s.Sound) (r : RefState) (c : Nat) : (setRef r c s).Sound :=
  h.withScan _

theorem State.Sound.setPass {s : State} (h : s.Sound) (p : Pass) : (setPass p s).Sound := h.withScan _

theorem State.Sound.lineConversion {s : State} (h : s.Sound) (raw : Nat) :
    (lineConversion raw s).Sound := by
  unfold Machine.lineConversion
  (repeat' split) <;> first | with_reducible exact h | with_reducible exact (h.setPass _).lineSample _ _ _

theorem State.Sound.nextProbe {s : State} (h : s.Sound) (resume : Option Nat) :
    (nextProbe resume s).Sound := by
  unfold Machine.nextProbe
  (repeat' split) <;> first | with_reducible exact h.beginProbe _ _ | with_reducible exact h.setPass _

theorem State.Sound.probeConversion {s : State} (h : s.Sound) (raw : Nat) :
    (probeConversion raw s).Sound := by
  unfold Machine.probeConversion
  (repeat' split) <;> first | with_reducible exact h | with_reducible exact (h.lineSample _ _ _).nextProbe _

theorem State.Sound.pacingEvent {s : State} (h : s.Sound) : (pacingEvent s).Sound := by
  have h1 := h.withScan { s.scan with pacing := some (s.ticksFor (pacingPeriod s.image)) }
  unfold Machine.pacingEvent
  dsimp only
  (repeat' split) <;> first | with_reducible exact h1.setPass _ | with_reducible exact h1.setBerthNotice _

theorem State.Sound.askFitted {s : State} (h : s.Sound) : (askFitted s).Sound :=
  eachLine_keeps (P := State.Sound) (fun n t ht => by split <;> first | with_reducible exact ht.askLine n | with_reducible exact ht) h

theorem State.Sound.enterRefFault {s : State} (h : s.Sound) : (enterRefFault s).Sound := by
  have h1 := (h.setRef .fault 0).modLines (f := fun _ => Line.stale) (fun _ _ l => l.stale')
    fun _ _ => rfl
  exact (h1.raiseCause _ _).askFitted

theorem State.Sound.clearRefFault {s : State} (h : s.Sound) : (clearRefFault s).Sound := by
  have h1 := (h.setRef .ok 0).modLines (f := fun _ => Line.emptyRing)
    (fun _ _ l => l.withRing (Nat.zero_le _)) fun _ _ => rfl
  exact ((h1.endCause _).askFitted).askBerth

theorem State.Sound.judgeReference {s : State} (h : s.Sound) (raw : Nat) :
    (judgeReference raw s).Sound := by
  unfold Machine.judgeReference
  (repeat' split) <;> first | with_reducible exact h.setRef _ _ | with_reducible exact h.enterRefFault | with_reducible exact h.clearRefFault

theorem State.Sound.withSupply {s : State} (h : s.Sound) (v : Supply) :
    ({ s with supply := v } : State).Sound :=
  h.of_parts (fun _ => rfl) rfl rfl ⟨h.queueSize, h.queueLines⟩ h.present h.orderLines h.reports h.load

theorem State.Sound.setStage {s : State} (h : s.Sound) (g : Stage) : (setStage g s).Sound :=
  h.withSupply _

theorem State.Sound.setDivider {s : State} (h : s.Sound) (d : Nat) : (setDivider d s).Sound :=
  h.of_parts (fun _ => rfl) rfl rfl ⟨h.queueSize, h.queueLines⟩ h.present h.orderLines h.reports h.load

theorem State.Sound.deriveAll {s : State} (h : s.Sound) : (deriveAll s).Sound :=
  eachLine_keeps (P := State.Sound)
    (fun n t ht => by split <;> first | with_reducible exact (ht.deriveLine n).settle n | with_reducible exact ht) h

theorem State.Sound.finishStartUp {s : State} (h : s.Sound) : (finishStartUp s).Sound :=
  (eachLine_keeps (P := State.Sound) (fun n _ ht => ht.askLine n)
    ((((h.setStage _).deriveAll.setStage _).leaveStarting).setBerthNotice _)).askBerth

theorem State.Sound.refresh {s : State} (h : s.Sound) : (refresh s).Sound := by
  unfold Machine.refresh
  split
  · exact (h.setDivider _).askFitted
  · exact h.setDivider _

theorem State.Sound.passComplete {s : State} (h : s.Sound) : (passComplete s).Sound := by
  unfold Machine.passComplete
  (repeat' split) <;> first | with_reducible exact h.finishStartUp | with_reducible exact h | with_reducible exact h.refresh

theorem State.Sound.referenceConversion {s : State} (h : s.Sound) (raw : Nat) :
    (referenceConversion raw s).Sound := by
  unfold Machine.referenceConversion
  dsimp only
  (repeat' split) <;> first
    | with_reducible exact h
    | with_reducible exact (h.judgeReference raw).passComplete.setPass _

theorem State.Sound.clearRecords {s : State} (h : s.Sound) : (clearRecords s).Sound :=
  h.modLines (fun _ _ l => l.stale'.withRing (Nat.zero_le _)) fun _ _ => rfl

theorem State.Sound.takePlan {s : State} (h : s.Sound) : (takePlan s).Sound := h.withScan _

theorem State.Sound.startPacing {s : State} (h : s.Sound) : (startPacing s).Sound := h.withScan _

theorem State.Sound.returnProbe {s : State} (h : s.Sound) : (returnProbe s).Sound := by
  unfold Machine.returnProbe
  split <;> first
    | with_reducible exact h.modLine ((h.line _).withProbe true) rfl
    | with_reducible exact h

theorem State.Sound.dropProbes {s : State} (h : s.Sound) : (dropProbes s).Sound :=
  h.modLines (f := fun n l => { l with probeWaiting := l.probeWaiting && fittedBit s.image n })
    (fun _ _ l => l.withProbe _) fun _ _ => rfl

theorem State.Sound.restartScan {s : State} (h : s.Sound) : (restartScan s).Sound :=
  h.returnProbe.dropProbes.clearRecords.takePlan.startPacing.nextProbe _

theorem State.Sound.prepareScan {s : State} (h : s.Sound) : (prepareScan s).Sound :=
  h.clearRecords.takePlan.withScan _

theorem State.Sound.startFirstPass {s : State} (h : s.Sound) : (startFirstPass s).Sound :=
  State.Sound.startPacing ((h.withSupply _).setPass _)

/-! ### The clamp of render steps (R20): what a state runs does not hang on the steps used -/

@[simp] theorem LineState.clamp_moves (k : Nat) (st : LineState) : (st.clamp k).moves = st.moves := by
  cases st <;> rfl

@[simp] theorem LineState.clamp_isHauling (k : Nat) (st : LineState) :
    (st.clamp k).isHauling = st.isHauling := by cases st <;> rfl

@[simp] theorem LineState.clamp_slipping (k : Nat) (st : LineState) :
    st.clamp k = .slipping ↔ st = .slipping := by cases st <;> simp [LineState.clamp]

@[simp] theorem LineState.clamp_expectedBrake (k : Nat) (st : LineState) :
    (st.clamp k).expectedBrake = st.expectedBrake := by cases st <;> rfl

@[simp] theorem LineState.clamp_hostMotion (k : Nat) (st : LineState) :
    (st.clamp k).hostMotion = st.hostMotion := by cases st <;> rfl

theorem LineState.clamp_eq (k : Nat) (st : LineState) :
    st.clamp k = st ∨ (st.clamp k).hostMotion = false := by cases st <;> simp [LineState.clamp, LineState.hostMotion]

/-! ### The profile block -/

theorem State.Sound.withProfile {s : State} (h : s.Sound) {p : Profile} (hp : p.Sound) :
    ({ s with profile := p } : State).Sound :=
  h.of_parts (fun _ => rfl) rfl rfl ⟨h.queueSize, h.queueLines⟩ h.present h.orderLines h.reports hp

theorem Line.Sound.stopDrum {l : Line} (h : l.Sound) (st : LineState) :
    ({ l.stopDrum with state := st } : Line).Sound :=
  ⟨h.1, h.2, h.3, h.4, h.5, h.6, h.7, by simp [Line.stopDrum], by simp [Line.stopDrum],
   by simp [Line.stopDrum], by simp [Line.stopDrum], by simp [Line.stopDrum], by simp [Line.stopDrum]⟩

theorem Line.Sound.adopt {l : Line} (h : l.Sound) : l.adopt.Sound := h.stopDrum _

theorem Line.Sound.freeze {l : Line} (h : l.Sound) : l.freeze.Sound := by
  have h1 := h.stopDrum .parked
  exact ⟨h1.1, h1.2, h1.3, h1.4, h1.5, h1.6, h1.7, h1.8, h1.9, h1.10, h1.11, h1.12, h1.13⟩

theorem Line.Sound.copyFlags {l : Line} (h : l.Sound) (img : List Word) (n : LineId) :
    (l.copyFlags img n).Sound := ⟨h.1, h.2, h.3, h.4, h.5, h.6, h.7, h.8, h.9, h.10, h.11, h.12, h.13⟩

theorem Line.Sound.applyProfile {l : Line} (h : l.Sound) (img : List Word) (b : Bool) (n : LineId) :
    (l.applyProfile img b n).Sound := by
  have h1 := h.copyFlags img n
  unfold Line.applyProfile
  dsimp only
  (repeat' split) <;> first
    | with_reducible exact h1
    | with_reducible exact h1.adopt
    | with_reducible exact h1.freeze

theorem State.Sound.applyProfile {s : State} (h : s.Sound) : (applyProfile s).Sound :=
  h.modLines (fun n _ l => l.applyProfile _ _ n) fun n l => by
    unfold Line.applyProfile
    dsimp only
    (repeat' split) <;> rfl

theorem State.Sound.askChanged {s : State} (h : s.Sound) (old : State) : (askChanged old s).Sound :=
  eachLine_keeps (P := State.Sound) (fun n t ht => by split <;> first | with_reducible exact ht.askLine n | with_reducible exact ht) h

theorem State.Sound.recordOutcome {s : State} (h : s.Sound) (o : ProfileOutcome) :
    (recordOutcome o s).Sound := ((h.withProfile (p := { s.profile with outcome := o })
      h.load).setBerthNotice _).askBerth

theorem State.Sound.setActive {s : State} (h : s.Sound) (img : List Word) (src : ProfileSource) :
    (setActive img src s).Sound := h.withProfile (p := { s.profile with
      active := img, source := src, verify := some (s.ticksFor Config.verifyMs) }) h.load

theorem State.Sound.clearLoad {s : State} (h : s.Sound) : (clearLoad s).Sound :=
  h.withProfile (p := { s.profile with load := .idle, buffer := [], sum := 0 }) ⟨rfl, rfl⟩

theorem State.Sound.withBus {s : State} (h : s.Sound) {b : Bus} (ho : b.orderLane = s.bus.orderLane)
    (hr : b.reportLane = s.bus.reportLane) : ({ s with bus := b } : State).Sound :=
  h.of_parts (fun _ => rfl) rfl rfl ⟨h.queueSize, h.queueLines⟩ h.present (by rw [ho]; exact h.orderLines)
    (by rw [hr]; exact h.reports) h.load

theorem State.Sound.activate {s : State} (h : s.Sound) (img : List Word) : (activate img s).Sound :=
  (((((h.setActive img .loaded).applyProfile.restartScan).setDivider 0).endCause _).recordOutcome
    _).askChanged _

theorem State.Sound.askFetch {s : State} (h : s.Sound) (f : Fetch) : (askFetch f s).Sound :=
  h.withBus rfl rfl

theorem State.Sound.adoptFrom {s : State} (h : s.Sound) (k : Nat) : (adoptFrom k s).Sound := by
  unfold Machine.adoptFrom
  split
  · exact h.askFetch _
  · exact h.startFirstPass

theorem State.Sound.endStartUpLoad {s : State} (h : s.Sound) (img : List Word) (src : ProfileSource)
    (o : ProfileOutcome) : (endStartUpLoad img src o s).Sound := by
  have h1 := ((h.setActive img src).applyProfile.prepareScan).setDivider 0
  unfold Machine.endStartUpLoad
  dsimp only
  refine State.Sound.adoptFrom (State.Sound.withSupply (State.Sound.recordOutcome ?_ o) _) 0
  split
  · exact h1.endCause _
  · exact h1

theorem State.Sound.discardFetch {s : State} (h : s.Sound) : (discardFetch s).Sound := by
  unfold Machine.discardFetch
  split <;> exact h.withBus rfl rfl

theorem State.Sound.startLoad {s : State} (h : s.Sound) : (startLoad s).Sound :=
  (h.withProfile (p := { s.profile with load := .loading 0, buffer := [], sum := 0 })
    ⟨rfl, by decide, rfl⟩).askFetch _

theorem State.Sound.commitWord {s : State} (h : s.Sound) : (commitWord s).Sound := by
  unfold Machine.commitWord
  split
  · split
    · exact h.startLoad.askBerth
    · exact h.discardFetch.startLoad
  · exact h.recordOutcome _

theorem State.Sound.endLoad {s : State} (h : s.Sound) (img : List Word) (sum : Word) :
    (endLoad img sum s).Sound := by
  have h1 := h.clearLoad.askBerth
  unfold Machine.endLoad
  dsimp only
  (repeat' split) <;> first
    | with_reducible exact h1.endStartUpLoad _ _ _
    | with_reducible exact h1.recordOutcome _
    | with_reducible exact h1.activate _

theorem State.Sound.deliverImage {s : State} (h : s.Sound) (v : Word) : (deliverImage v s).Sound := by
  have hp := h.load
  unfold Machine.deliverImage
  split
  · exact h
  · rename_i i hi
    dsimp only
    split
    · rename_i hlt
      simp only [Profile.Sound, hi] at hp
      simp only [Config.imageWords] at hlt
      refine (h.withProfile (p := ⟨s.profile.active, s.profile.source, .loading (i + 1),
        s.profile.buffer ++ [v], s.profile.sum + v, s.profile.verify, s.profile.outcome⟩)
        ⟨?_, hlt, ?_⟩).askFetch _
      · simp [hp.1]
      · simp [imageSum, hp.2.2]
    · exact h.endLoad _ _

theorem State.Sound.deliverOrderWord {s : State} (h : s.Sound) (n : LineId) (v : Word) :
    (deliverOrderWord n v s).Sound := (h.recordHost n (by simp)).adoptFrom _

theorem State.Sound.abortLoad {s : State} (h : s.Sound) : (abortLoad s).Sound := by
  have h1 := h.discardFetch.clearLoad.askBerth
  unfold Machine.abortLoad
  dsimp only
  (repeat' split) <;> first | with_reducible exact h | with_reducible exact h1.endStartUpLoad _ _ _ | with_reducible exact h1.recordOutcome _

theorem State.Sound.upsetCopy {s : State} (h : s.Sound) (u : List (Fin 128 × Word)) :
    (upsetCopy u s).Sound := h.withProfile (p := { s.profile with
      active := u.foldl (fun ws x => ws.set x.1.val x.2) s.profile.active }) h.load

theorem Line.Sound.clamp {l : Line} (h : l.Sound) (limit : Nat) :
    ({ l with state := l.state.clamp limit } : Line).Sound where
  stale := h.stale
  overRun := h.overRun
  slackRun := h.slackRun
  ring := h.ring
  payout := h.payout
  age := h.age
  refused := h.refused
  run e := by simpa using h.run e
  ceiling := h.ceiling
  stall e := by simpa using h.stall e
  haul e := by simpa using h.haul e
  slip e := by simpa using h.slip e
  brake e := by simpa using h.brake e

theorem State.Sound.clampLine {s : State} (n : LineId) (h : s.Sound) : (clampLine n s).Sound := by
  unfold Machine.clampLine
  dsimp only
  split
  · exact h
  · exact (h.modLine (f := fun l => { l with state := _ }) ((h.line n).clamp _) rfl).askLine n

theorem State.Sound.clampSteps {s : State} (h : s.Sound) : (clampSteps s).Sound :=
  eachLine_keeps (P := State.Sound) (fun n _ ht => ht.clampLine n) h

theorem State.Sound.reevaluateChanged {s : State} (h : s.Sound) (old : State) :
    (reevaluateChanged old s).Sound :=
  reevaluateChanged_keeps (fun _ ht => ht.reevaluate) h

theorem State.Sound.mismatch {s : State} (h : s.Sound) : (mismatch s).Sound := by
  have h1 := ((h.setActive fallbackImage .fallback).applyProfile.reevaluateChanged s).clampSteps
  unfold Machine.mismatch
  dsimp only
  refine State.Sound.askChanged (State.Sound.askBerth (State.Sound.raiseCause
    (State.Sound.recordOutcome (State.Sound.setDivider ?_ 0) _) _ _)) _
  split
  · exact h1.prepareScan
  · exact h1.restartScan

theorem State.Sound.verifyEvent {s : State} (h : s.Sound) : (verifyEvent s).Sound := by
  have h1 := h.withProfile (p := { s.profile with verify := some (s.ticksFor Config.verifyMs) }) h.load
  unfold Machine.verifyEvent
  dsimp only
  split
  · exact h1
  · exact h1.mismatch

/-! ### Resets and supply -/

theorem Line.Sound.reset : Line.reset.Sound :=
  ⟨by decide, by decide, by decide, by decide, by decide, by simp [Line.reset], by simp [Line.reset],
   by decide, by simp [Line.reset], by decide, by decide, by decide, by decide⟩

theorem Line.Sound.afterReset {l : Line} (h : l.Sound) (c : ResetCause) : (l.afterReset c).Sound := by
  have r := Line.Sound.reset
  unfold Line.afterReset
  split
  · exact ⟨r.1, r.2, r.3, r.4, r.5, r.6, r.7, r.8, r.9, r.10, r.11, r.12, r.13⟩
  · exact ⟨r.1, r.2, r.3, r.4, h.5, r.6, r.7, r.8, r.9, r.10, r.11, r.12, r.13⟩

theorem Line.afterReset_notice (c : ResetCause) (l : Line) : (l.afterReset c).notice = false := by
  unfold Line.afterReset
  split <;> rfl

/-- A reset leaves a sound state. -/
theorem State.Sound.takeReset {s : State} (h : ∀ n, (s.line n).Sound) (c : ResetCause) :
    (takeReset c s).Sound := by
  have hl : ∀ m, (Machine.takeReset c s).line m = Line.afterReset c (s.line m) := fun m => by
    show (eachLine (fun n => Machine.modLine n (Line.afterReset c)) s).line m = _
    rw [line_eachLine_modLine]
  have hb : (Machine.takeReset c s).bus.orderLane = [] ∧ (Machine.takeReset c s).bus.reportLane = [] := by
    simp only [Machine.takeReset, Bus.afterReset]
    split <;> exact ⟨rfl, rfl⟩
  refine ⟨fun m => ?_, ?_, Nat.zero_le _, by simp [Machine.takeReset], ?_, ?_, ?_, ⟨rfl, rfl⟩⟩
  · rw [hl]; exact (h m).afterReset c
  · simp only [State.anyNotice, hl, Line.afterReset_notice]
    show false = ((0#8 != 0) || allLines.any fun _ => false)
    decide
  · intro x hx
    simp [Machine.takeReset, Berth.reset, CauseSet.has] at hx
  · rw [hb.1]; exact List.nodup_nil
  · rw [hb.2]; exact List.nodup_nil

theorem State.Sound.sampleStraps {s : State} (h : s.Sound) : (sampleStraps s).Sound := h.withBus rfl rfl

theorem State.Sound.powerOnEvent {s : State} (h : s.Sound) : (powerOnEvent s).Sound :=
  (State.Sound.takeReset h.line _).withSupply _

theorem State.Sound.brownOutEvent {s : State} (h : s.Sound) : (brownOutEvent s).Sound := by
  unfold Machine.brownOutEvent
  split
  · exact (State.Sound.takeReset h.line _).withSupply _
  · exact h

theorem State.Sound.supplyRiseEvent {s : State} (h : s.Sound) (straps : BitVec 6) (stow : BitVec 12) :
    (supplyRiseEvent straps stow s).Sound := by
  have h1 := ((h.withSupply { s.supply with straps := straps }).sampleStraps.modLines
    (f := fun n => Line.startDomain (stow.getLsbD n.val))
    (fun _ _ l => ⟨l.1, l.2, l.3, l.4, Nat.zero_le _, l.6, l.7, l.8, l.9, l.10, l.11, l.12, l.13⟩)
    fun _ _ => rfl)
  unfold Machine.supplyRiseEvent
  dsimp only
  split
  · exact h
  · split
    · exact h1.withSupply _
    · exact (h1.withSupply _).withSupply _

theorem State.Sound.pinResetEvent {s : State} (h : s.Sound) (straps : BitVec 6) :
    (pinResetEvent straps s).Sound := by
  unfold Machine.pinResetEvent
  split
  · exact (State.Sound.takeReset (s := setStraps straps s) h.line _).sampleStraps.withSupply _
  · exact h

theorem State.Sound.resetnReleaseEvent {s : State} (h : s.Sound) : (resetnReleaseEvent s).Sound := by
  unfold Machine.resetnReleaseEvent
  dsimp only
  split
  · exact (h.withSupply _).withSupply _
  · exact h.withSupply _

theorem State.Sound.commandReset {s : State} (h : s.Sound) : (commandReset s).Sound :=
  (State.Sound.takeReset h.line _).sampleStraps.withSupply _

theorem State.Sound.selfTestEvent {s : State} (h : s.Sound) (pass : Bool) :
    (selfTestEvent pass s).Sound := by
  unfold Machine.selfTestEvent
  (repeat' split) <;> first
    | with_reducible exact (h.setStage _).startLoad
    | with_reducible exact h
    | exact (h.changePhase _ fun _ ht => ht).recordOutcome _

theorem State.Sound.supplyWarningEvent {s : State} (h : s.Sound) : (supplyWarningEvent s).Sound := by
  unfold Machine.supplyWarningEvent
  split
  · exact h
  · exact (((h.withSupply _).setBerthNotice _).raiseCause _ _).askBerth

theorem State.Sound.supplyRecoveryEvent {s : State} (h : s.Sound) : (supplyRecoveryEvent s).Sound := by
  unfold Machine.supplyRecoveryEvent
  split
  · exact ((h.withSupply _).endCause _).askBerth
  · exact h

end Sys2Proof.Machine
end

