-- ==== Sys2Proof/Laws/SoundStep.lean ====
section
/-! SUPPORT. Screening, requests, the bus path, the events and the commands keep a sound state sound. -/

namespace Sys2Proof.Machine

/-! ### Screening -/

theorem Line.Sound.withLatch {l : Line} (h : l.Sound) {x : Option Latch}
    (hx : ∀ y, x = some y → y.age ≤ 1001) : ({ l with latch := x } : Line).Sound :=
  ⟨h.1, h.2, h.3, h.4, h.5, hx, h.7, h.8, h.9, h.10, h.11, h.12, h.13⟩

theorem State.Sound.writeArgument {s : State} (h : s.Sound) (n : LineId) (w : Word) (be : ByteEnables) :
    (writeArgument n w be s).Sound := by
  refine h.modLine (f := fun l => { l with latch := readArgument w be })
    ((h.line n).withLatch fun y hy => ?_) rfl
  unfold readArgument at hy
  split at hy
  · cases hy; exact Nat.zero_le _
  · cases hy

theorem State.Sound.useLatch {s : State} (h : s.Sound) (n : LineId) (k : OrderKind) :
    (useLatch n k s).Sound := by
  unfold Machine.useLatch
  split
  · exact h.modLine (f := fun l => { l with latch := none }) ((h.line n).withLatch (by simp)) rfl
  · exact h

theorem State.Sound.passOrder {s : State} (h : s.Sound) (n : LineId) (k : OrderKind) (t : Tag)
    (arg : Nat) : (passOrder n k t arg s).Sound := by
  have h1 := (((h.recordHost n (v := ⟨some (t, k), some .passed, displacedTag s n⟩)
    (by simp)).supersede n).placePair (makePair n k t arg)).applyEffect n k arg
  unfold Machine.passOrder
  dsimp only
  split
  · exact h1
  · exact h1.settle n

theorem State.Sound.passRestate {s : State} (h : s.Sound) (n : LineId) (t : Tag) :
    (passRestate n t s).Sound :=
  (((h.recordHost n (by simp)).supersede n).deriveLine n).settle n

theorem State.Sound.completeOrder {s : State} (h : s.Sound) (n : LineId) (k : OrderKind) (t : Tag)
    (o : Origin) (latch : Option Latch) (hold : Bool) : (completeOrder n k t o latch hold s).Sound := by
  unfold Machine.completeOrder
  (repeat' split) <;> first
    | with_reducible exact h.refuse n _ _
    | with_reducible exact h.passOrder n _ _ _
    | with_reducible exact h.holdOrder n _ _ _
    | with_reducible exact h.passRestate n _

theorem State.Sound.judgeOrder {s : State} (h : s.Sound) (n : LineId) (k : OrderKind) (t : Tag)
    (o : Origin) (latch : Option Latch) : (judgeOrder n k t o latch s).Sound := by
  unfold Machine.judgeOrder
  (repeat' split) <;> first
    | with_reducible exact h.refuse n _ _
    | with_reducible exact h.completeOrder n _ _ _ _ _

theorem State.Sound.screen {s : State} (n : LineId) (k : OrderKind) (t : Tag) (o : Origin)
    (h : s.Sound) : (screen n k t o s).Sound := by
  unfold Machine.screen
  split
  · exact (h.useLatch n k).refuse n _ _
  · split
    · exact h
    · exact (h.useLatch n k).judgeOrder n _ _ _ _

theorem State.Sound.writeOrder {s : State} (h : s.Sound) (n : LineId) (w : Word) (be : ByteEnables) :
    (writeOrder n w be s).Sound := by
  unfold Machine.writeOrder
  (repeat' split) <;> first
    | with_reducible exact h.refuse n _ _
    | with_reducible exact h.screen n _ _ _

theorem State.Sound.writeGroup {s : State} (h : s.Sound) (w : Word) (be : ByteEnables) :
    (writeGroup w be s).Sound := by
  unfold Machine.writeGroup
  split
  · exact h.setBerthNotice _
  · exact eachLine_keeps (P := State.Sound)
      (fun n t ht => by split <;> first | with_reducible exact ht.screen n _ _ _ | exact ht) h

/-! ### Requests and control words -/

theorem State.Sound.withBerth {s : State} (h : s.Sound) {b : Berth} (hc : b.causes = s.berth.causes)
    (hp : b.present = s.berth.present) : ({ s with berth := b } : State).Sound :=
  h.of_parts (fun _ => rfl) rfl rfl ⟨h.queueSize, h.queueLines⟩
    (by rw [hc, hp]; exact h.present) h.orderLines h.reports h.load

theorem State.Sound.refuseRequest {s : State} (h : s.Sound) (r : RequestRefusal) :
    (refuseRequest r s).Sound :=
  ((h.withBerth (b := { s.berth with refusal := some r }) rfl rfl).setBerthNotice _).askBerth

theorem State.Sound.resumeBerth {s : State} (h : s.Sound) : (resumeBerth s).Sound :=
  (h.setCauses (c := 0) (p := 0) fun _ hx => hx).changePhase _ fun _ ht => ht

theorem State.Sound.ruling {s : State} (h : s.Sound) (q : Request) :
    ∀ c t, ruling q s = .when c t → t.Sound := by
  intro c t e
  unfold Machine.ruling at e
  (split at e) <;> first
    | (cases e; done)
    | (injection e with _ e2; subst e2)
  all_goals first
    | with_reducible exact h.raiseCause _ _
    | with_reducible exact h.resumeBerth
    | with_reducible exact h.commandReset
    | exact h.changePhase _ fun _ ht => ht
    | exact h.changePhase _ fun _ ht => ht.flush

theorem State.Sound.writeRequest {s : State} (h : s.Sound) (w : Word) (be : ByteEnables) :
    (writeRequest w be s).Sound := by
  unfold Machine.writeRequest
  split
  · exact h.refuseRequest _
  · split
    · exact h.refuseRequest _
    · rename_i c t e
      split
      · exact h.ruling _ _ _ e
      · exact h.refuseRequest _

@[simp] theorem line_clearNotices (w : Word) (s : State) (m : LineId) :
    (clearNotices w s).line m = { s.line m with notice := (s.line m).notice && !ackNames w m } :=
  line_eachLine_modLine (fun n l => { l with notice := l.notice && !ackNames w n }) m s

@[simp] theorem clearNotices_queue (w : Word) (s : State) : (clearNotices w s).queue = s.queue :=
  eachLine_same State.queue (by simp) s

@[simp] theorem clearNotices_berth (w : Word) (s : State) : (clearNotices w s).berth = s.berth :=
  eachLine_same State.berth (by simp) s

@[simp] theorem clearNotices_bus (w : Word) (s : State) : (clearNotices w s).bus = s.bus :=
  eachLine_same State.bus (by simp) s

@[simp] theorem clearNotices_profile (w : Word) (s : State) : (clearNotices w s).profile = s.profile :=
  eachLine_same State.profile (by simp) s

@[simp] theorem line_setSupplyFlags (a b : Bool) (s : State) (m : LineId) :
    (setSupplyFlags a b s).line m = s.line m := rfl

/-- The notices cleared and ATTN judged leave a sound state. -/
theorem State.Sound.acknowledged {s t : State} (h : s.Sound) (w : Word)
    (hm : ∀ m, t.line m = (clearNotices w s).line m) (hq : t.queue = s.queue)
    (hb : t.berth = s.berth) (ho : t.bus = s.bus) (hp : t.profile = s.profile) :
    (Machine.judgeAttn t).Sound := by
  refine State.Sound.judgeAttn (fun m => ?_) ⟨?_, ?_⟩ ?_ ?_ ?_ ?_
  · rw [hm, line_clearNotices]
    exact (h.line m).withNotice _
  · rw [hq]; exact h.queueSize
  · rw [hq]; exact h.queueLines
  · rw [hb]; exact h.present
  · rw [ho]; exact h.orderLines
  · rw [ho]; exact h.reports
  · rw [hp]; exact h.load

theorem State.Sound.writeAcknowledge {s : State} (h : s.Sound) (w : Word) (be : ByteEnables) :
    (writeAcknowledge w be s).Sound := by
  have h1 : ∀ t, t = clearNotices w s ∨ t = setSupplyFlags (clearNotices w s).supply.live false
      (clearNotices w s) → (Machine.judgeAttn t).Sound := by
    rintro t (rfl | rfl)
    · exact h.acknowledged w (by simp) (by simp) (by simp) (by simp) (by simp)
    · exact h.acknowledged w (by simp) (clearNotices_queue w s) (clearNotices_berth w s)
        (clearNotices_bus w s) (clearNotices_profile w s)
  have h2 : ∀ t, t.Sound → (eachLine (fun n t =>
      if ((s.line n).notice && ackNames w n) = true then Machine.askLine n t else t) t).Sound :=
    fun t ht => eachLine_keeps (P := State.Sound) (fun n t ht => by
      split
      · exact ht.askLine n
      · exact ht) ht
  unfold Machine.writeAcknowledge
  dsimp only
  split
  · split <;> split
    · exact (h2 _ (h1 _ (.inr rfl))).askBerth
    · exact h2 _ (h1 _ (.inr rfl))
    · exact (h2 _ (h1 _ (.inl rfl))).askBerth
    · exact h2 _ (h1 _ (.inl rfl))
  · exact h

theorem State.Sound.writeCursor {s : State} (h : s.Sound) (w : Word) (be : ByteEnables) :
    (writeCursor w be s).Sound := by
  unfold Machine.writeCursor
  split
  · exact h.withScan _
  · exact h

theorem State.Sound.writeCommit {s : State} (h : s.Sound) (w : Word) (be : ByteEnables) :
    (writeCommit w be s).Sound := by
  unfold Machine.writeCommit
  split
  · exact h.commitWord
  · exact h

/-! ### The bus path -/

theorem State.Sound.grantPair {s : State} (h : s.Sound) {e : LaneEntry} {rest : List LaneEntry}
    (hl : s.bus.orderLane = e :: rest) : (grantPair e rest s).Sound := by
  refine h.of_parts (fun _ => rfl) rfl rfl ⟨h.queueSize, h.queueLines⟩ h.present ?_ h.reports h.load
  have := h.orderLines
  rw [hl] at this
  exact (List.nodup_cons.mp this).2

theorem State.Sound.raiseSeq {s : State} (h : s.Sound) (r : RecId) : (raiseSeq r s).Sound := by
  unfold Machine.raiseSeq
  split
  · have l := h.line ⟨r.val, by assumption⟩
    exact h.modLine (f := fun l => { l with seq := l.seq + 1 })
      ⟨l.1, l.2, l.3, l.4, l.5, l.6, l.7, l.8, l.9, l.10, l.11, l.12, l.13⟩ rfl
  · exact h.of_parts (fun _ => rfl) rfl rfl ⟨h.queueSize, h.queueLines⟩ h.present h.orderLines
      h.reports h.load

theorem State.Sound.grantRecord {s : State} (h : s.Sound) (r : RecId) : (grantRecord r s).Sound := by
  have h1 := h.raiseSeq r
  exact h1.of_parts (fun _ => rfl) rfl rfl ⟨h1.queueSize, h1.queueLines⟩ h1.present h1.orderLines
    (h1.reports.erase r) h1.load

theorem State.Sound.grantInternal {s : State} (h : s.Sound) : (grantInternal s).Sound := by
  unfold Machine.grantInternal
  split
  · exact h.withBus rfl rfl
  · exact h.grantRecord _
  · exact h

theorem State.Sound.grantHost {s : State} (h : s.Sound) (x : HostAccess) : (grantHost x s).Sound :=
  h.withBus rfl rfl

theorem State.Sound.arbitrate {s : State} (h : s.Sound) : (arbitrate s).Sound := by
  unfold Machine.arbitrate
  split
  · split
    · rename_i hl
      exact h.grantPair hl
    · split
      · exact h.grantInternal
      · exact h.grantHost _
    · exact h.grantInternal
  · exact h

theorem State.Sound.hostActivity {s : State} (h : s.Sound) : (hostActivity s).Sound :=
  h.withBerth rfl rfl

theorem State.Sound.guarded {s : State} (h : s.Sound) {owner : State → State}
    (ho : ∀ t : State, t.Sound → (owner t).Sound) : (guarded owner s).Sound := by
  unfold Machine.guarded
  split
  · exact h
  · exact ho _ h.hostActivity

theorem State.Sound.strayWrite {s : State} (h : s.Sound) : (strayWrite s).Sound := by
  unfold Machine.strayWrite
  split
  · exact h
  · exact h.setBerthNotice _

theorem State.Sound.passTransfer {s : State} (h : s.Sound) (t : Transfer)
    (x : Option (RecId × Fin 4)) : (passTransfer t x s).Sound := h.withBus rfl rfl

theorem State.Sound.lockRecord {s : State} (h : s.Sound) (r : RecId) (k : Fin 4) :
    (lockRecord r k s).Sound := by
  unfold Machine.lockRecord
  split
  · exact h.withBus rfl rfl
  · exact h

theorem State.Sound.readPort {s : State} (h : s.Sound) : (readPort s).Sound := by
  have h1 := h.withBus (b := { s.bus with readData := portAnswer s }) rfl rfl
  unfold Machine.readPort
  dsimp only
  split
  · exact h1
  · exact h1.withScan _

theorem State.Sound.takeWrite {s : State} (h : s.Sound) (t : Transfer) (g : Target) :
    (takeWrite t g s).Sound := by
  unfold Machine.takeWrite
  split
  · exact h.guarded fun _ ht => ht.writeArgument _ _ _
  · exact h.guarded fun _ ht => ht.writeOrder _ _ _
  · exact h.guarded fun _ ht => ht.writeGroup _ _
  · exact h.guarded fun _ ht => ht.writeRequest _ _
  · exact h.guarded fun _ ht => ht.writeAcknowledge _ _
  · exact h.guarded fun _ ht => ht.writeCursor _ _
  · exact h
  · exact h.guarded fun _ ht => ht.writeCommit _ _
  · exact h.strayWrite
  · exact h.abortLoad.passTransfer _ _
  · exact h.passTransfer _ _

theorem State.Sound.takeRead {s : State} (h : s.Sound) (t : Transfer) (g : Target) :
    (takeRead t g s).Sound := by
  unfold Machine.takeRead
  split
  · exact h.readPort
  · exact (h.lockRecord _ _).passTransfer _ _
  all_goals exact h.passTransfer _ _

theorem State.Sound.takeTransfer {s : State} (h : s.Sound) (t : Transfer) : (takeTransfer t s).Sound := by
  unfold Machine.takeTransfer
  split
  · exact h.takeWrite _ _
  · exact h.takeRead _ _

theorem State.Sound.presentTransfer {s : State} (h : s.Sound) (t : Transfer) : (Machine.present t s).Sound := by
  unfold Machine.present
  split
  · exact h
  · split
    · exact h.withBus rfl rfl
    · exact (h.takeTransfer t).arbitrate

theorem State.Sound.drainHeld {s : State} (h : s.Sound) (ts : List Transfer) : (drainHeld ts s).Sound := by
  induction ts generalizing s with
  | nil => exact h.withBus rfl rfl
  | cons t ts ih =>
    unfold Machine.drainHeld
    split
    · exact h.withBus rfl rfl
    · exact ih (h.takeTransfer t).arbitrate

theorem State.Sound.hostComplete {s : State} (h : s.Sound) (w : Word) : (hostComplete w s).Sound := by
  have h2 : ∀ x : HostAccess, (presentData x w (releaseSnap x (freePort s))).Sound := by
    intro x
    have h1 : (releaseSnap x (freePort s)).Sound := by
      have h0 : (freePort s).Sound := h.withBus rfl rfl
      unfold releaseSnap
      (repeat' split) <;> first | with_reducible exact h0 | exact h0.withBus rfl rfl
    unfold presentData
    split
    · exact h1
    · exact h1.withBus rfl rfl
  unfold Machine.hostComplete
  dsimp only
  split
  · exact (h2 _).arbitrate.drainHeld _
  all_goals exact h

theorem State.Sound.freePort {s : State} (h : s.Sound) : (freePort s).Sound := h.withBus rfl rfl

theorem State.Sound.partComplete {s : State} (h : s.Sound) : (partComplete s).Sound := by
  unfold Machine.partComplete
  split <;> first | with_reducible exact h.freePort.arbitrate | with_reducible exact h

theorem State.Sound.deliver {s : State} (h : s.Sound) (f : Fetch) (v : Word) : (deliver f v s).Sound := by
  unfold Machine.deliver
  split
  · exact h.deliverImage v
  · exact h.deliverOrderWord _ v

theorem State.Sound.fetchComplete {s : State} (h : s.Sound) (v : Word) : (fetchComplete v s).Sound := by
  unfold Machine.fetchComplete
  split
  · split
    · exact h.freePort.arbitrate
    · exact (h.freePort.deliver _ v).arbitrate
  all_goals exact h

/-! ### Events and the tick -/

theorem State.Sound.event {s : State} (h : s.Sound) {f : State → State}
    (hf : ∀ t : State, t.Sound → (f t).Sound) : (event f s).Sound := by
  unfold Machine.event
  split
  · exact (hf s h).arbitrate
  · exact h

theorem State.Sound.withTick {s : State} (h : s.Sound) (b : Bool) :
    ({ s with atTick := b } : State).Sound :=
  h.of_parts (fun _ => rfl) rfl rfl ⟨h.queueSize, h.queueLines⟩ h.present h.orderLines h.reports h.load

theorem State.Sound.onTick {s : State} (h : s.Sound) {f : State → State}
    (hf : ∀ t : State, t.Sound → (f t).Sound) : (onTick f s).Sound :=
  (hf _ (h.withTick true)).withTick false

theorem State.Sound.expireStall {s : State} (n : LineId) (h : s.Sound) : (expireStall n s).Sound := by
  have l := h.line n
  exact (h.modLine (f := fun l => { l with stall := none })
    ⟨l.1, l.2, l.3, l.4, l.5, l.6, l.7, l.8, l.9, by simp, l.11, l.12, l.13⟩ rfl).stallEvent n

theorem State.Sound.expireHaul {s : State} (n : LineId) (h : s.Sound) : (expireHaul n s).Sound := by
  have l := h.line n
  exact (h.modLine (f := fun l => { l with haul := none })
    ⟨l.1, l.2, l.3, l.4, l.5, l.6, l.7, l.8, l.9, l.10, by simp, l.12, l.13⟩ rfl).haulTimeOutEvent n

theorem State.Sound.expireSlip {s : State} (n : LineId) (h : s.Sound) : (expireSlip n s).Sound := by
  have l := h.line n
  exact (h.modLine (f := fun l => { l with slip := none })
    ⟨l.1, l.2, l.3, l.4, l.5, l.6, l.7, l.8, l.9, l.10, l.11, by simp, l.13⟩ rfl).slipTimeOutEvent n

theorem State.Sound.expireBrake {s : State} (n : LineId) (h : s.Sound) : (expireBrake n s).Sound := by
  have l := h.line n
  exact (h.modLine (f := fun l => { l with brakeSettle := none })
    ⟨l.1, l.2, l.3, l.4, l.5, l.6, l.7, l.8, l.9, l.10, l.11, l.12, by simp⟩ rfl).mismatchEvent n

theorem State.Sound.expireHold {s : State} (n : LineId) (h : s.Sound) : (expireHold n s).Sound := by
  unfold Machine.expireHold
  split
  · exact (State.Sound.endEntry (by simp) _ h).askBerth
  · exact h

theorem State.Sound.expiry {s : State} (e : Expiry) (h : s.Sound) : (e.take s).Sound := by
  cases e with
  | stall n => exact h.expireStall n
  | haul n => exact h.expireHaul n
  | slip n => exact h.expireSlip n
  | brake n => exact h.expireBrake n
  | hold n => exact h.expireHold n
  | silence => exact h.raiseCause _ _
  | pacing => exact h.pacingEvent
  | verify => exact h.verifyEvent
  | snap => exact h.withBus rfl rfl

theorem State.Sound.expire {s : State} (e : Expiry) (h : s.Sound) : (expire e s).Sound := by
  unfold Machine.expire
  split
  · exact h.expiry e
  · exact h

theorem Line.Sound.tick {l : Line} (h : l.Sound) : l.tick.Sound := by
  have ht : ∀ t : Timer, (tickTimer t).isSome = t.isSome := fun t => by simp [tickTimer]
  refine ⟨h.1, h.2, h.3, h.4, h.5, ?_, h.7, h.8, h.9, ?_, ?_, ?_, ?_⟩
  · intro x hx
    obtain ⟨y, _, rfl⟩ := Option.map_eq_some_iff.mp hx
    exact Nat.min_le_left _ _
  · exact fun e => h.stall (ht _ ▸ e)
  · exact fun e => h.haul (ht _ ▸ e)
  · exact fun e => h.slip (ht _ ▸ e)
  · exact fun e => h.brake (ht _ ▸ e)

theorem State.Sound.countDown {s : State} (h : s.Sound) : (countDown s).Sound := by
  have h1 : (eachLine (fun n => Machine.modLine n Line.tick) s).Sound :=
    h.modLines (fun _ _ l => l.tick) fun _ _ => rfl
  have h2 := (h1.mapQueue (f := fun e => { e with deadline := e.deadline - 1 }) fun _ => rfl)
  exact h2.of_parts (fun _ => rfl) rfl rfl ⟨h2.queueSize, h2.queueLines⟩ h2.present h2.orderLines
    h2.reports h2.load

theorem State.Sound.takeAllDue {s : State} (h : s.Sound) : (takeAllDue s).Sound :=
  h.onTick fun t ht => foldl_keeps (P := State.Sound)
    (fun u e hu => by
      unfold takeDue
      split
      · exact (State.Sound.expiry e hu).arbitrate
      · exact hu) _ ht

theorem State.Sound.count {s : State} (h : s.Sound) : (count s).Sound := by
  unfold Machine.count
  split
  · exact h.takeAllDue.countDown
  · exact h

theorem State.Sound.elapse {s : State} (h : s.Sound) (k : Nat) : (elapse k s).Sound := by
  induction k generalizing s with
  | zero => exact h
  | succ k ih => exact ih h.count

/-- A tick keeps a sound state sound. -/
theorem State.Sound.tick {s : State} (h : s.Sound) : (tick s).Sound := by
  unfold Machine.tick
  split
  · exact h.count.takeAllDue
  · exact h

end Sys2Proof.Machine
end

