-- ==== Sys2Proof/Laws/Tame.lean ====
section
/-! SUPPORT. The operations that leave the berth phase alone, and what they do to what hangs on it: Tame
relates a state to one that such an operation leads to. -/

namespace Sys2Proof.Machine

/-- `t` has the phase of `s`, its host-silence timer runs or is stopped as in `s`, an empty hold queue
stays empty in the phases that hold none, in LOCKDOWN no fitted line is set moving, and in STARTING and
HALTED no record joins the report lane but the berth record in HALTED. -/
structure Tame (s t : State) : Prop where
  phase : t.berth.phase = s.berth.phase
  silence : t.berth.silence.isSome = s.berth.silence.isSome
  queue : (s.berth.phase.silent = true ∨ s.berth.phase = .lockdown) → s.queue = [] → t.queue = []
  still : s.berth.phase = .lockdown → s.queue = [] → ∀ n, (t.line n).fitted = true →
    ((s.line n).fitted = true ∧ (t.line n).state = (s.line n).state) ∨
      (t.line n).state.hostMotion = false
  lane : s.berth.phase.silent = true → s.queue = [] → ∀ r ∈ t.bus.reportLane,
    r ∈ s.bus.reportLane ∨ (s.berth.phase = .halted ∧ r = 12)

theorem Tame.refl (s : State) : Tame s s :=
  ⟨rfl, rfl, fun _ h => h, fun _ _ _ hf => .inl ⟨hf, rfl⟩, fun _ _ _ h => .inl h⟩

theorem Tame.trans {s t u : State} (h : Tame s t) (k : Tame t u) : Tame s u where
  phase := k.phase.trans h.phase
  silence := k.silence.trans h.silence
  queue hp hq := k.queue (by rw [h.phase]; exact hp) (h.queue hp hq)
  still hp hq n hf := by
    rcases k.still (by rw [h.phase]; exact hp) (h.queue (.inr hp) hq) n hf with ⟨hf', e⟩ | e
    · rcases h.still hp hq n hf' with ⟨hf'', e'⟩ | e'
      · exact .inl ⟨hf'', e.trans e'⟩
      · exact .inr (by rw [e]; exact e')
    · exact .inr e
  lane hp hq r hr := by
    rcases k.lane (by rw [h.phase]; exact hp) (h.queue (.inl hp) hq) r hr with hr' | hr'
    · exact h.lane hp hq r hr'
    · exact .inr (h.phase ▸ hr')

/-- A tame operation keeps what hangs on the phase. -/
theorem State.Phased.tame {s t : State} (h : s.Phased) (k : Tame s t) : t.Phased where
  silence := by rw [k.silence, k.phase]; exact h.silence
  emptyQueue hp := by
    rw [k.phase] at hp
    exact k.queue hp (h.emptyQueue hp)
  still hp n hf := by
    rw [k.phase] at hp
    rcases k.still hp (h.emptyQueue (.inr hp)) n hf with ⟨hf', e⟩ | e
    · rw [e]; exact h.still hp n hf'
    · exact e
  noReports hp := by
    rw [k.phase] at hp
    have hs : s.berth.phase.silent = true := by rw [hp]; rfl
    refine List.eq_nil_iff_forall_not_mem.mpr fun r hr => ?_
    rcases k.lane hs (h.emptyQueue (.inl hs)) r hr with h' | h'
    · rw [h.noReports hp] at h'
      cases h'
    · exact absurd (hp.symm.trans h'.1) (by decide)
  berthOnly hp r hr := by
    rw [k.phase] at hp
    have hs : s.berth.phase.silent = true := by rw [hp]; rfl
    rcases k.lane hs (h.emptyQueue (.inl hs)) r hr with h' | h'
    · exact h.berthOnly hp r h'
    · exact h'.2

/-- An operation that leaves berth block, queue and report lane alone, and each line its flag and state, is
tame. -/
theorem Tame.of_same {s t : State} (hb : t.berth = s.berth) (hq : s.queue = [] → t.queue = [])
    (hl : ∀ n, (t.line n).fitted = (s.line n).fitted ∧ (t.line n).state = (s.line n).state)
    (hr : ∀ r ∈ t.bus.reportLane, r ∈ s.bus.reportLane := by exact fun _ h => h) :
    Tame s t where
  lane _ _ r h := .inl (hr r h)
  phase := by rw [hb]
  silence := by rw [hb]
  queue _ h := hq h
  still _ _ n hf := .inl ⟨(hl n).1 ▸ hf, (hl n).2⟩

/-- A change of one line that keeps its flag and leaves it its state or sets it still. -/
theorem Tame.modLine {n : LineId} {f : Line → Line} {s : State}
    (hf : (f (s.line n)).fitted = (s.line n).fitted)
    (hs : (f (s.line n)).state = (s.line n).state ∨ (f (s.line n)).state.hostMotion = false) :
    Tame s (modLine n f s) where
  lane _ _ _ h := .inl h
  phase := rfl
  silence := rfl
  queue _ h := h
  still _ _ m h := by
    rw [line_modLine] at h ⊢
    split at h
    · rename_i e
      subst e
      rw [if_pos rfl]
      exact hs.imp (fun e => ⟨hf ▸ h, e⟩) id
    · rename_i e
      rw [if_neg e]
      exact .inl ⟨h, rfl⟩

/-- What is tame for each line is tame for every line. -/
theorem Tame.eachLine {f : LineId → State → State} (h : ∀ n t, Tame t (f n t)) (s : State) :
    Tame s (eachLine f s) :=
  eachLine_keeps (P := fun t => Tame s t) (fun n t ht => ht.trans (h n t)) (Tame.refl s)

theorem Tame.modLines {f : LineId → Line → Line} (hf : ∀ n l, (f n l).fitted = l.fitted)
    (hs : ∀ n l, (f n l).state = l.state) (s : State) :
    Tame s (Machine.eachLine (fun n => Machine.modLine n (f n)) s) :=
  Tame.eachLine (fun n _ => Tame.modLine (hf n _) (.inl (hs n _))) s

/-! ### Ops -/

theorem Tame.askRecord (r : RecId) (s : State) : Tame s (askRecord r s) where
  phase := by simp
  silence := by simp
  queue _ h := by simpa using h
  still _ _ n hf := .inl (by simpa using hf)
  lane hp _ x hx := by
    unfold Machine.askRecord at hx
    split at hx
    · exact .inl hx
    · rename_i h
      rcases List.mem_append.mp hx with hx | hx
      · exact .inl hx
      · rw [List.mem_singleton.mp hx]
        right
        revert h hp
        cases s.berth.phase <;> simp [Phase.silent]
        tauto

theorem Tame.askLine (n : LineId) (s : State) : Tame s (askLine n s) := .askRecord _ s

theorem Tame.askBerth (s : State) : Tame s (askBerth s) := .askRecord _ s

theorem Tame.judgeAttn (s : State) : Tame s (judgeAttn s) := .of_same rfl id fun _ => ⟨rfl, rfl⟩

theorem Tame.setLineNotice (n : LineId) (s : State) : Tame s (setLineNotice n s) := by
  unfold Machine.setLineNotice
  split
  · exact .refl s
  · exact ((Tame.modLine (f := fun l => { l with notice := true }) rfl (.inl rfl)).trans
      (.judgeAttn _)).trans ((Tame.askLine n _).trans (.askBerth _))

theorem Tame.setBerthNotice (k : BerthNotice) (s : State) : Tame s (setBerthNotice k s) := by
  unfold Machine.setBerthNotice
  split
  · exact .refl s
  · have h1 : Tame s { s with report := { s.report with
        notices := s.report.notices ||| (1#8 <<< k.code) } } :=
      .of_same rfl id fun _ => ⟨rfl, rfl⟩
    exact h1.trans ((Tame.judgeAttn _).trans (.askBerth _))

theorem Tame.placePair (e : LaneEntry) (s : State) : Tame s (placePair e s) :=
  .of_same rfl id fun _ => ⟨rfl, rfl⟩

theorem Tame.withdrawPairs (s : State) : Tame s (withdrawPairs s) := .of_same rfl id fun _ => ⟨rfl, rfl⟩

theorem Tame.recordHost (n : LineId) (h : LastHost) (s : State) : Tame s (recordHost n h s) :=
  (Tame.modLine (f := fun l => { l with lastHost := h }) rfl (.inl rfl)).trans (.askLine n _)

theorem Tame.recordEnding (n : LineId) (t : Tag) (k : OrderKind) (v : Verdict) (s : State) :
    Tame s (recordEnding n t k v s) := .recordHost n _ s

theorem Tame.refuse (n : LineId) (o : Option (Tag × OrderKind)) (r : RefusalReason) (s : State) :
    Tame s (refuse n o r s) := (Tame.recordHost n _ s).trans (.setLineNotice n _)

/-- A line that takes a state other than a host motion. -/
theorem Tame.enterState (n : LineId) {st : LineState} (h : st.hostMotion = false) (s : State) :
    Tame s (enterState n st s) := Tame.modLine rfl (.inr h)

theorem Tame.loadRun (n : LineId) (v : Nat) (s : State) : Tame s (loadRun n v s) :=
  Tame.modLine rfl (.inl rfl)

theorem Tame.loadStall (n : LineId) (s : State) : Tame s (loadStall n s) := Tame.modLine rfl (.inl rfl)

theorem Tame.partOrder (n : LineId) (k : OrderKind) (c : PartCause) (s : State) :
    Tame s (partOrder n k c s) := by
  have h1 : ∀ a, Tame s (Machine.askLine n (Machine.modLine n (fun l => { l with lastPart := some ⟨k, c⟩ })
      (Machine.placePair (makePair n k 0 a) s))) := fun a =>
    ((Tame.placePair _ s).trans (Tame.modLine (f := fun l => { l with lastPart := some ⟨k, c⟩ }) rfl
      (.inl rfl))).trans (.askLine n _)
  unfold Machine.partOrder
  dsimp only
  split
  · exact (h1 _).trans (.loadRun n _ _)
  · exact h1 _

theorem Tame.faultEntry (n : LineId) (r : FaultReason) (lock : Option PartCause) (s : State) :
    Tame s (faultEntry n r lock s) := by
  have h1 := (Tame.enterState n (st := .faulted r) rfl s).trans (.setLineNotice n _)
  unfold Machine.faultEntry
  dsimp only
  split
  · exact h1.trans (.partOrder n _ _ _)
  · exact h1

theorem Tame.markBegun (n : LineId) (s : State) : Tame s (markBegun n s) :=
  .of_same rfl (fun h => by simp [Machine.markBegun, h]) fun _ => ⟨rfl, rfl⟩

theorem Tame.withScan (sc : Scan) (s : State) : Tame s { s with scan := sc } :=
  .of_same rfl id fun _ => ⟨rfl, rfl⟩

theorem Tame.beginProbe (n : LineId) (resume : Option Nat) (s : State) :
    Tame s (beginProbe n resume s) :=
  ((Tame.modLine (f := fun l => { l with probeWaiting := false }) rfl (.inl rfl)).trans
    (.withScan _ _)).trans (.markBegun n _)

theorem Tame.requestProbe (n : LineId) (s : State) : Tame s (requestProbe n s) := by
  unfold Machine.requestProbe
  split
  · exact .beginProbe n _ s
  · exact .beginProbe n _ s
  · exact Tame.modLine rfl (.inl rfl)

/-! ### Effects -/

theorem lockState_still (st : LineState) (c : Classification) (h : st.inMotion = true ∨ st.hostMotion = false) :
    (lockState st c).hostMotion = false := by
  revert h; revert c
  cases st <;> intro c <;> cases c <;> simp [lockState, restState, LineState.hostMotion, LineState.inMotion]

/-- A LOCK sets no line moving. -/
theorem lockState_hostMotion (st : LineState) (c : Classification) :
    (lockState st c).hostMotion = false := by
  cases st <;> cases c <;> simp [lockState, restState, LineState.hostMotion]

theorem Tame.lockEffect (n : LineId) (s : State) : Tame s (lockEffect n s) := by
  unfold Machine.lockEffect
  dsimp only
  split
  · exact .refl s
  · exact .enterState n (lockState_hostMotion _ _) s

/-- Outside STARTING and HALTED an effect is tame but where it sets a line moving in LOCKDOWN. -/
theorem Tame.applyEffect (n : LineId) (k : OrderKind) (arg : Nat) (s : State)
    (hs : s.berth.phase.silent = false) (h : s.berth.phase = .lockdown → k = .lock) : Tame s (applyEffect n k arg s) where
  phase := by simp
  silence := by simp
  queue _ hq := by simpa using hq
  still hp hq := by
    have := h hp
    subst this
    exact (Tame.lockEffect n s).still hp hq
  lane hp := absurd hp (by simp [hs])

/-! ### The hold queue -/

theorem Tame.judgeEntry (n : LineId) (s : State) : Tame s (judgeEntry n s) := by
  unfold Machine.judgeEntry
  split
  · exact .refl s
  · rename_i e he
    have hne : s.queue ≠ [] := fun h => by simp [State.entry, h] at he
    split
    · split
      · exact ⟨by simp, by simp, fun _ h => absurd h hne, fun _ h => absurd h hne, fun _ h => absurd h hne⟩
      · exact .refl s
    · exact ⟨by simp, by simp, fun _ h => absurd h hne, fun _ h => absurd h hne, fun _ h => absurd h hne⟩

theorem Tame.takeProbes (s : State) : Tame s (takeProbes s) :=
  takeProbes_keeps (P := fun t => Tame s t) (fun m _ => .requestProbe m s) (.refl s)

theorem Tame.reevaluate (s : State) : Tame s (reevaluate s) :=
  reevaluate_keeps (P := fun t => Tame s t) (fun n t ht => ht.trans (.judgeEntry n t))
    (fun n t ht => ht.trans (.requestProbe n t)) (.refl s)

theorem Tame.putEntry (e : Entry) (s : State) : Tame s (putEntry e s) :=
  .of_same rfl (fun h => by simp [Machine.putEntry, h]) fun _ => ⟨rfl, rfl⟩

theorem Tame.dropEntry (n : LineId) (s : State) : Tame s (dropEntry n s) :=
  .of_same rfl (fun h => by simp [Machine.dropEntry, h]) fun _ => ⟨rfl, rfl⟩

theorem Tame.askProbe (e : Entry) (s : State) : Tame s (askProbe e s) := by
  unfold Machine.askProbe
  split
  · exact .requestProbe _ s
  · exact .refl s

/-- Holding an order is tame in the phases that hold orders. -/
theorem Tame.holdOrder (n : LineId) (k : HeldKind) (t : Tag) (o : Origin) (s : State)
    (h : s.berth.phase.silent = false ∧ s.berth.phase ≠ .lockdown) : Tame s (holdOrder n k t o s) where
  phase := by simp
  silence := by simp
  queue hp := absurd hp (by simp [h.1, h.2])
  still hp := absurd hp h.2
  lane hp := absurd hp (by simp [h.1])

theorem Tame.supersede (n : LineId) (s : State) : Tame s (supersede n s) := by
  unfold Machine.supersede
  split
  · exact .refl s
  · exact ((Tame.dropEntry n s).trans (.setLineNotice n _)).trans (.askBerth _)

theorem Tame.endEntry (v : Verdict) (e : Entry) (s : State) : Tame s (endEntry v e s) :=
  ((Tame.dropEntry e.line s).trans (.recordEnding _ _ _ _ _)).trans (.setLineNotice _ _)

theorem Tame.flush (s : State) : Tame s (flush s) :=
  flush_keeps (P := fun t => Tame s t) (fun e t ht => ht.trans (.endEntry _ e t))
    (fun t ht => ht.trans (.askBerth t)) (.refl s)

/-- The flush leaves the queue empty (R78). -/
theorem flush_queue_empty (s : State) : (flush s).queue = [] := by
  have key : ∀ (l : List Entry) (t : State), (∀ x ∈ t.queue, ∃ e ∈ l, e.line = x.line) →
      (l.foldl (fun t e => endEntry .flushed e t) t).queue = [] := by
    intro l
    induction l with
    | nil =>
      intro t ht
      exact List.eq_nil_iff_forall_not_mem.mpr fun x hx => by
        obtain ⟨e, he, _⟩ := ht x hx
        cases he
    | cons a l ih =>
      intro t ht
      refine ih _ fun x hx => ?_
      have hq : (endEntry .flushed a t).queue = t.queue.filter fun y => !(y.line == a.line) := by
        simp [endEntry, dropEntry]
      rw [hq, List.mem_filter] at hx
      obtain ⟨e, he, hel⟩ := ht x hx.1
      rcases List.mem_cons.mp he with rfl | he
      · simp [hel] at hx
      · exact ⟨e, he, hel⟩
  unfold flush
  split
  · assumption
  · rw [askBerth_queue]
    exact key _ _ fun x hx => ⟨x, hx, rfl⟩

theorem Tame.failProbe (e : Entry) (s : State) : Tame s (failProbe e s) :=
  (Tame.putEntry _ s).trans (.askLine _ _)

/-! ### Changes of phase -/

@[simp] theorem silenceAt_phase (old : Phase) (s : State) :
    (silenceAt old s).berth.phase = s.berth.phase := rfl

@[simp] theorem changePhase_queue (p : Phase) (f : State → State) (s : State) :
    (changePhase p f s).queue = (f { s with berth := { s.berth with phase := p } }).queue := by
  simp [changePhase]

/-- The host-silence timer after a change of phase (R128). -/
theorem silenceAt_isSome {old : Phase} {s t : State} (hs : s.berth.silence.isSome = old.runsSilence)
    (ht : t.berth.silence = s.berth.silence) :
    (silenceAt old t).berth.silence.isSome = t.berth.phase.runsSilence := by
  simp only [silenceAt]
  split
  · rename_i h
    rw [h]
    split
    · rename_i h'
      rw [ht, hs, h']
    · rfl
  · rename_i h
    simpa using h

/-- A change to a phase other than STARTING, HALTED and LOCKDOWN keeps what hangs on the phase. -/
theorem State.Phased.toPhase {s : State} (h : s.Phased) (p : Phase) (hp : p.silent = false)
    (hl : p ≠ .lockdown) {f : State → State} (hf : ∀ t, Tame t (f t))
    (hk : ∀ t, (f t).berth.silence = t.berth.silence) : (changePhase p f s).Phased := by
  refine State.Phased.tame ?_ (.askBerth _)
  have hph : (f { s with berth := { s.berth with phase := p } }).berth.phase = p := (hf _).phase
  refine ⟨?_, ?_, ?_, ?_, ?_⟩
  · exact silenceAt_isSome (s := s) h.silence (hk _)
  · intro e
    rw [silenceAt_phase, hph] at e
    simp [hp, hl] at e
  · intro e
    rw [silenceAt_phase, hph] at e
    exact absurd e hl
  all_goals
    intro e
    rw [silenceAt_phase, hph] at e
    subst e
    cases hp

theorem State.Phased.autoVacant {s : State} (h : s.Phased) : (autoVacant s).Phased := by
  unfold Machine.autoVacant
  split
  · exact h.toPhase .vacant rfl (by simp) (fun t => .refl t) fun _ => rfl
  · exact h

/-- Away from DEPARTURE the hand-on of a change is tame. -/
theorem Tame.settle (n : LineId) (s : State) (h : s.berth.phase ≠ .departure) : Tame s (settle n s) := by
  have h1 := (Tame.reevaluate s).trans (.askLine n _)
  unfold Machine.settle Machine.autoVacant
  rw [if_neg (fun c => h (h1.phase ▸ c.1))]
  exact h1

theorem State.Phased.settle {s : State} (h : s.Phased) (n : LineId) : (settle n s).Phased :=
  (h.tame ((Tame.reevaluate s).trans (.askLine n _))).autoVacant

/-! ### Lockdown -/

theorem inMotion_of_hostMotion {st : LineState} (h : st.hostMotion = true) : st.inMotion = true := by
  cases st <;> simp_all [LineState.hostMotion, LineState.inMotion]

/-- The lockdown LOCK in LOCKDOWN: tame, and the line is still after it (R132). -/
theorem Tame.lockdownLock (c : LockdownCause) (n : LineId) (s : State) (h : s.berth.phase ≠ .departure) :
    Tame s (lockdownLock c n s) := by
  unfold Machine.lockdownLock
  split
  · have h1 := (Tame.enterState n (lockState_hostMotion (s.line n).state (s.line n).cls) s).trans
      (.partOrder n .lock (.lockdown c) _)
    exact h1.trans (.settle n _ (by rw [h1.phase]; exact h))
  · exact .refl s

theorem line_partOrder (n m : LineId) (k : OrderKind) (c : PartCause) (s : State) :
    ((partOrder n k c s).line m).state = (s.line m).state ∧
      ((partOrder n k c s).line m).fitted = (s.line m).fitted := by
  unfold partOrder
  dsimp only
  split <;> simp [loadRun] <;> split <;> simp_all

theorem lockdownLock_still (c : LockdownCause) (n : LineId) (s : State)
    (hp : s.berth.phase = .lockdown) (hq : s.queue = []) :
    ((lockdownLock c n s).line n).fitted = true →
      ((lockdownLock c n s).line n).state.hostMotion = false := by
  have hpo := line_partOrder n n .lock (.lockdown c)
    (enterState n (lockState (s.line n).state (s.line n).cls) s)
  unfold lockdownLock
  split
  · intro _
    unfold transition
    dsimp only
    unfold settle autoVacant
    rw [if_neg]
    · rw [line_askLine, reevaluate_of_empty (by simpa using hq), hpo.1, state_enterState]
      exact lockState_hostMotion _ _
    · rintro ⟨e, _⟩
      simp [hp] at e
  · rename_i h
    intro hf
    rw [Bool.eq_false_iff]
    exact fun e => h ⟨hf, inMotion_of_hostMotion e⟩

/-- The lockdown LOCKs, line by line. -/
theorem lockdownLocks (c : LockdownCause) : ∀ (l : List LineId) (t : State),
    t.berth.phase = .lockdown → t.queue = [] →
      Tame t (l.foldl (fun t n => lockdownLock c n t) t) ∧
      ∀ n ∈ l, ((l.foldl (fun t n => lockdownLock c n t) t).line n).fitted = true →
        ((l.foldl (fun t n => lockdownLock c n t) t).line n).state.hostMotion = false := by
  intro l
  induction l with
  | nil => exact fun t _ _ => ⟨.refl t, fun n hn => by cases hn⟩
  | cons a l ih =>
    intro t htp htq
    have ha := Tame.lockdownLock c a t (by simp [htp])
    have hb := lockdownLock_still c a t htp htq
    rw [List.foldl_cons]
    revert ha hb
    generalize lockdownLock c a t = u
    intro ha hb
    have hup : u.berth.phase = .lockdown := ha.phase.trans htp
    have huq : u.queue = [] := ha.queue (.inr htp) htq
    obtain ⟨h1, h2⟩ := ih u hup huq
    refine ⟨ha.trans h1, fun n hn hfit => ?_⟩
    by_cases hnl : n ∈ l
    · exact h2 n hnl hfit
    · rcases List.mem_cons.mp hn with rfl | hn
      · rcases h1.still hup huq n hfit with ⟨hf', e⟩ | e
        · rw [e]
          exact hb hf'
        · exact e
      · exact absurd hn hnl

/-- Lockdown entry: the host-silence timer as it was, the queue empty, no fitted line in host motion. -/
theorem entryActions_spec (c : LockdownCause) (s : State) (hp : s.berth.phase = .lockdown) :
    (entryActions c s).berth.phase = .lockdown ∧
      (entryActions c s).berth.silence.isSome = s.berth.silence.isSome ∧
      (entryActions c s).queue = [] ∧
      ∀ n, ((entryActions c s).line n).fitted = true →
        ((entryActions c s).line n).state.hostMotion = false := by
  have hf := Tame.flush s
  have hfq := flush_queue_empty s
  unfold entryActions
  revert hf hfq
  generalize flush s = f
  intro hf hfq
  have hfp : f.berth.phase = .lockdown := hf.phase.trans hp
  obtain ⟨h1, h2⟩ := lockdownLocks c allLines f hfp hfq
  unfold eachLine
  revert h1 h2
  generalize List.foldl (fun t n => lockdownLock c n t) f allLines = u
  intro h1 h2
  have hup : u.berth.phase = .lockdown := h1.phase.trans hfp
  have huq : u.queue = [] := h1.queue (.inr hfp) hfq
  have h3 := ((Tame.withdrawPairs u).trans (Tame.modLines (f := fun _ l => { l with latch := none })
      (fun _ _ => rfl) (fun _ _ => rfl) _)).trans (.setBerthNotice .lockdownEntered _)
  have hT := (hf.trans h1).trans h3
  refine ⟨hT.phase.trans hp, hT.silence, h3.queue (.inr hup) huq, fun n hfit => ?_⟩
  rcases h3.still hup huq n hfit with ⟨hf', e⟩ | e
  · exact (congrArg LineState.hostMotion e).trans (h2 n (mem_allLines n) hf')
  · exact e

/-- LOCKDOWN is entered with the queue empty, the silence timer stopped and no fitted line in host
motion, from whatever state. -/
theorem State.Phased.enterLockdown (s : State) (c : LockdownCause) : (enterLockdown c s).Phased := by
  have h := entryActions_spec c { s with berth := { s.berth with phase := .lockdown } } rfl
  unfold Machine.enterLockdown changePhase
  revert h
  generalize entryActions c { s with berth := { s.berth with phase := .lockdown } } = u
  intro h
  obtain ⟨h1, _, h3, h4⟩ := h
  refine State.Phased.tame ?_ (.askBerth _)
  have hs : (silenceAt s.berth.phase u).berth.phase = .lockdown := h1
  refine ⟨?_, fun _ => h3, fun _ => h4, fun e => ?_, fun e => ?_⟩
  · simp [silenceAt, h1, Phase.runsSilence]
  · rw [hs] at e; cases e
  · rw [hs] at e; cases e

theorem Tame.setCauses (c p : CauseSet) (s : State) : Tame s (setCauses c p s) := by
  have h1 : Tame s { s with berth := { s.berth with causes := c, present := p } } :=
    ⟨rfl, rfl, fun _ h => h, fun _ _ _ hf => .inl ⟨hf, rfl⟩, fun _ _ _ h => .inl h⟩
  unfold Machine.setCauses
  split
  · exact .refl s
  · exact h1.trans (.askBerth _)

theorem Tame.addCause (c : LockdownCause) (p : Bool) (s : State) : Tame s (addCause c p s) :=
  .setCauses _ _ s

theorem Tame.endCause (c : LockdownCause) (s : State) : Tame s (endCause c s) := .setCauses _ _ s

theorem State.Phased.raiseCause {s : State} (h : s.Phased) (c : LockdownCause) (p : Bool) :
    (raiseCause c p s).Phased := by
  have h1 := h.tame (.addCause c p s)
  unfold Machine.raiseCause
  dsimp only
  (repeat' split) <;> first
    | with_reducible exact State.Phased.enterLockdown _ _
    | with_reducible exact h1
    | exact h1.tame (.setBerthNotice _ _)

theorem State.Phased.leaveStarting {s : State} (h : s.Phased) : (leaveStarting s).Phased := by
  unfold Machine.leaveStarting
  split
  · exact h.toPhase .vacant rfl (by simp) (fun t => .refl t) fun _ => rfl
  · split <;> exact State.Phased.enterLockdown _ _

end Sys2Proof.Machine
end

