-- ==== Sys2Proof/Laws/Phased.lean ====
section
/-! SUPPORT. What hangs on the berth phase is kept by every operation of the part, up to the events and
the tick. -/

namespace Sys2Proof.Machine

/-! ### The line table -/

theorem State.Phased.transition {s : State} (h : s.Phased) (n : LineId) (st : LineState)
    (o : Option (OrderKind × PartCause)) (hst : st.hostMotion = false) : (transition n st o s).Phased := by
  unfold Machine.transition
  dsimp only
  split
  · exact ((h.tame (.enterState n hst s)).tame (.partOrder n _ _ _)).settle n
  · exact (h.tame (.enterState n hst s)).settle n

theorem State.Phased.faultLine {s : State} (h : s.Phased) (n : LineId) (r : FaultReason)
    (lock : Option PartCause) : (faultLine n r lock s).Phased :=
  (h.tame (.faultEntry n r lock s)).settle n

theorem restState_still (c : Classification) : (restState c).hostMotion = false := by cases c <;> rfl

theorem Tame.deriveLine (n : LineId) (s : State) : Tame s (deriveLine n s) := by
  have hd : ∀ l : Line, (derivedState l).hostMotion = false := fun l => by
    unfold derivedState
    split
    · rfl
    · exact restState_still _
  have h1 : Tame s (if (s.line n).brakeSet then s else Machine.partOrder n .lock .derivation s) := by
    split
    · exact .refl s
    · exact .partOrder n _ _ s
  unfold Machine.deriveLine
  dsimp only
  revert h1
  generalize (if (s.line n).brakeSet = true then s else Machine.partOrder n .lock .derivation s) = t
  intro h1
  have h2 : Tame t (if (t.line n).stowMade then Machine.modLine n (fun l => { l with payout := 0 }) t else t) := by
    split
    · exact .modLine rfl (.inl rfl)
    · exact .refl t
  exact (h1.trans h2).trans (.enterState n (hd _) _)

theorem State.Phased.renderEntry {s : State} (h : s.Phased) (n : LineId) (r : RenderReturn) :
    (renderEntry n r s).Phased :=
  (((h.tame (.enterState n rfl s)).tame (.partOrder n _ _ _)).tame (.setLineNotice n _)).settle n

theorem State.Phased.renderReturn {s : State} (h : s.Phased) (n : LineId) (r : RenderReturn) :
    (renderReturn n r s).Phased := by
  unfold Machine.renderReturn
  split <;> exact h.transition n _ _ rfl

theorem State.Phased.sampleEvent {s : State} (h : s.Phased) (n : LineId) : (sampleEvent n s).Phased := by
  unfold Machine.sampleEvent
  (repeat' split) <;> first
    | with_reducible exact h
    | with_reducible exact (h.tame (.deriveLine n s)).settle n
    | with_reducible exact h.renderEntry n _
    | with_reducible exact h.renderReturn n _
    | with_reducible exact h.faultLine n _ _
    | exact h.transition n _ _ rfl

theorem Tame.renderStepOn (n : LineId) (r : RenderReturn) (used : Nat) (s : State) :
    Tame s (renderStepOn n r used s) :=
  ((Tame.modLine (f := fun l => { l with state := .rendering r (used + 1) }) rfl (.inr rfl)).trans
    (.partOrder n _ _ _)).trans (.askLine n _)

theorem Tame.rewindComplete (n : LineId) (s : State) : Tame s (rewindComplete n s) := by
  unfold Machine.rewindComplete
  split
  · exact (Tame.enterState n (by rfl) s).trans (.partOrder n _ _ _)
  · exact .faultEntry n _ _ s

theorem State.Phased.runComplete {s : State} (h : s.Phased) (n : LineId) : (runComplete n s).Phased := by
  unfold Machine.runComplete
  (repeat' split) <;> first
    | with_reducible exact h
    | with_reducible exact h.tame (.renderStepOn n _ _ s)
    | with_reducible exact (h.faultLine n _ _).raiseCause _ _
    | with_reducible exact (h.tame (.rewindComplete n s)).settle n
    | exact h.transition n _ _ (restState_still _)

theorem State.Phased.stallEvent {s : State} (h : s.Phased) (n : LineId) : (stallEvent n s).Phased := by
  unfold Machine.stallEvent
  split <;> first | with_reducible exact h.faultLine n _ _ | with_reducible exact h

theorem State.Phased.haulTimeOutEvent {s : State} (h : s.Phased) (n : LineId) :
    (haulTimeOutEvent n s).Phased := by
  unfold Machine.haulTimeOutEvent
  split <;> first | with_reducible exact h.faultLine n _ _ | with_reducible exact h

theorem State.Phased.slipTimeOutEvent {s : State} (h : s.Phased) (n : LineId) :
    (slipTimeOutEvent n s).Phased := by
  unfold Machine.slipTimeOutEvent
  split <;> first | with_reducible exact h.faultLine n _ _ | with_reducible exact h

theorem State.Phased.creepEvent {s : State} (h : s.Phased) (n : LineId) : (creepEvent n s).Phased := by
  unfold Machine.creepEvent
  split <;> first | with_reducible exact h.faultLine n _ _ | with_reducible exact h

theorem State.Phased.mismatchEvent {s : State} (h : s.Phased) (n : LineId) :
    (mismatchEvent n s).Phased := by
  unfold Machine.mismatchEvent
  split <;> first | with_reducible exact h.faultLine n _ _ | with_reducible exact h

theorem State.Phased.stowMadeEvent {s : State} (h : s.Phased) (n : LineId) :
    (stowMadeEvent n s).Phased := by
  unfold Machine.stowMadeEvent
  split
  · exact h.transition n _ _ rfl
  · exact h

theorem State.Phased.stowLostEvent {s : State} (h : s.Phased) (n : LineId) :
    (stowLostEvent n s).Phased := by
  unfold Machine.stowLostEvent
  split <;> first | with_reducible exact h.faultLine n _ _ | with_reducible exact h

/-! ### The scan -/

/-- With an entry in the list the phase is not one that holds none. -/
theorem State.Phased.held {s : State} (h : s.Phased) {n : LineId} {e : Entry} (he : s.entry n = some e) :
    s.berth.phase.silent = false ∧ s.berth.phase ≠ .lockdown := by
  have hne : s.queue ≠ [] := fun e' => by simp [State.entry, e'] at he
  refine ⟨?_, fun c => hne (h.emptyQueue (.inr c))⟩
  rw [Bool.eq_false_iff]
  exact fun c => hne (h.emptyQueue (.inl c))

/-- Where the phase holds entries, what leaves berth block alone is tame. -/
theorem Tame.of_held {s t : State} (h : s.berth.phase.silent = false ∧ s.berth.phase ≠ .lockdown)
    (hb : t.berth = s.berth) : Tame s t where
  phase := by rw [hb]
  silence := by rw [hb]
  queue hp := absurd hp (by simp [h.1, h.2])
  still hp := absurd hp h.2
  lane hp := absurd hp (by simp [h.1])

theorem State.Phased.sampleEntry {s : State} (h : s.Phased) (n : LineId) (probe : Bool) :
    (sampleEntry n probe s).Phased := by
  unfold Machine.sampleEntry
  split
  · exact h
  · rename_i e he
    have hh := h.held he
    (repeat' split) <;> first
      | with_reducible exact h
      | exact ((h.tame (.of_held hh (forward_berth _ _))).tame (.reevaluate _)).autoVacant
      | exact h.tame (.failProbe e s)
      | exact h.tame (.of_held hh (judgeSlip_berth _ _))
      | exact (h.tame (.of_held hh (judgeSlip_berth _ _))).tame (.takeProbes _)

theorem Tame.storeSample (n : LineId) (raw : Nat) (s : State) : Tame s (storeSample n raw s) := by
  unfold Machine.storeSample
  dsimp only
  split <;> exact .modLine rfl (.inl rfl)

theorem State.Phased.lineSample {s : State} (h : s.Phased) (n : LineId) (probe : Bool) (raw : Nat) :
    (lineSample n probe raw s).Phased := by
  have h1 := h.tame (.storeSample n raw s)
  unfold Machine.lineSample
  dsimp only
  split
  · exact (h1.sampleEvent n).sampleEntry n probe
  · exact h1.sampleEntry n probe

theorem Tame.setRef (r : RefState) (c : Nat) (s : State) : Tame s (setRef r c s) := .withScan _ s

theorem Tame.setPass (p : Pass) (s : State) : Tame s (setPass p s) := .withScan _ s

theorem State.Phased.lineConversion {s : State} (h : s.Phased) (raw : Nat) :
    (lineConversion raw s).Phased := by
  unfold Machine.lineConversion
  (repeat' split) <;> first
    | with_reducible exact h
    | with_reducible exact (h.tame (.setPass _ s)).lineSample _ _ _

theorem Tame.nextProbe (resume : Option Nat) (s : State) : Tame s (nextProbe resume s) := by
  unfold Machine.nextProbe
  (repeat' split) <;> first
    | with_reducible exact .beginProbe _ _ s
    | with_reducible exact .setPass _ s

theorem State.Phased.probeConversion {s : State} (h : s.Phased) (raw : Nat) :
    (probeConversion raw s).Phased := by
  unfold Machine.probeConversion
  (repeat' split) <;> first
    | with_reducible exact h
    | with_reducible exact (h.lineSample _ _ _).tame (.nextProbe _ _)

theorem Tame.pacingEvent (s : State) : Tame s (pacingEvent s) := by
  have h1 := Tame.withScan { s.scan with pacing := some (s.ticksFor (pacingPeriod s.image)) } s
  unfold Machine.pacingEvent
  dsimp only
  (repeat' split) <;> first
    | with_reducible exact h1.trans (.setPass _ _)
    | with_reducible exact h1.trans (.setBerthNotice _ _)

theorem Tame.askFitted (s : State) : Tame s (askFitted s) :=
  Tame.eachLine (fun n t => by
    split
    · exact .askLine n t
    · exact .refl t) s

theorem State.Phased.enterRefFault {s : State} (h : s.Phased) : (enterRefFault s).Phased :=
  (((h.tame (.setRef .fault 0 s)).tame (Tame.modLines (f := fun _ => Line.stale) (fun _ _ => rfl)
    (fun _ _ => rfl) _)).raiseCause _ _).tame (.askFitted _)

theorem Tame.clearRefFault (s : State) : Tame s (clearRefFault s) :=
  ((((Tame.setRef .ok 0 s).trans (Tame.modLines (f := fun _ => Line.emptyRing) (fun _ _ => rfl)
    (fun _ _ => rfl) _)).trans (.endCause _ _)).trans (.askFitted _)).trans (.askBerth _)

theorem State.Phased.judgeReference {s : State} (h : s.Phased) (raw : Nat) :
    (judgeReference raw s).Phased := by
  unfold Machine.judgeReference
  (repeat' split) <;> first
    | with_reducible exact h.tame (.setRef _ _ s)
    | with_reducible exact h.enterRefFault
    | with_reducible exact h.tame (.clearRefFault s)

theorem Tame.withSupply (v : Supply) (s : State) : Tame s { s with supply := v } :=
  .of_same rfl id fun _ => ⟨rfl, rfl⟩

theorem Tame.setStage (g : Stage) (s : State) : Tame s (setStage g s) := .withSupply _ s

theorem Tame.setDivider (d : Nat) (s : State) : Tame s (setDivider d s) :=
  .of_same rfl id fun _ => ⟨rfl, rfl⟩

theorem State.Phased.deriveAll {s : State} (h : s.Phased) : (deriveAll s).Phased :=
  eachLine_keeps (P := State.Phased) (fun n t ht => by
    split
    · exact (ht.tame (.deriveLine n t)).settle n
    · exact ht) h

theorem State.Phased.finishStartUp {s : State} (h : s.Phased) : (finishStartUp s).Phased :=
  ((((h.tame (.setStage _ s)).deriveAll.tame (.setStage _ _)).leaveStarting.tame
    (.setBerthNotice _ _)).tame (Tame.eachLine (fun n t => .askLine n t) _)).tame (.askBerth _)

theorem Tame.refresh (s : State) : Tame s (refresh s) := by
  unfold Machine.refresh
  split
  · exact (Tame.setDivider 0 s).trans (.askFitted _)
  · exact .setDivider _ s

theorem State.Phased.passComplete {s : State} (h : s.Phased) : (passComplete s).Phased := by
  unfold Machine.passComplete
  (repeat' split) <;> first
    | with_reducible exact h.finishStartUp
    | with_reducible exact h
    | with_reducible exact h.tame (.refresh s)

theorem State.Phased.referenceConversion {s : State} (h : s.Phased) (raw : Nat) :
    (referenceConversion raw s).Phased := by
  unfold Machine.referenceConversion
  dsimp only
  (repeat' split) <;> first
    | with_reducible exact h
    | with_reducible exact (h.judgeReference raw).passComplete.tame (.setPass _ _)

theorem Tame.clearRecords (s : State) : Tame s (clearRecords s) :=
  Tame.modLines (f := fun _ l => l.stale.emptyRing) (fun _ _ => rfl) (fun _ _ => rfl) s

theorem Tame.takePlan (s : State) : Tame s (takePlan s) := .withScan _ s

theorem Tame.startPacing (s : State) : Tame s (startPacing s) := .withScan _ s

theorem Tame.returnProbe (s : State) : Tame s (returnProbe s) := by
  unfold Machine.returnProbe
  split <;> first
    | with_reducible exact .modLine rfl (.inl rfl)
    | with_reducible exact .refl s

theorem Tame.dropProbes (s : State) : Tame s (dropProbes s) :=
  Tame.modLines (f := fun n l => { l with probeWaiting := l.probeWaiting && fittedBit s.image n })
    (fun _ _ => rfl) (fun _ _ => rfl) s

theorem Tame.restartScan (s : State) : Tame s (restartScan s) :=
  (((((Tame.returnProbe s).trans (.dropProbes _)).trans (.clearRecords _)).trans
    (.takePlan _)).trans (.startPacing _)).trans (.nextProbe _ _)

theorem Tame.prepareScan (s : State) : Tame s (prepareScan s) :=
  ((Tame.clearRecords s).trans (.takePlan _)).trans (.withScan _ _)

theorem Tame.startFirstPass (s : State) : Tame s (startFirstPass s) :=
  ((Tame.setStage _ s).trans (.setPass _ _)).trans (.startPacing _)

/-! ### The profile block -/

theorem Line.applyProfile_still (img : List Word) (b : Bool) (n : LineId) (l : Line)
    (h : (l.applyProfile img b n).fitted = true) :
    (l.fitted = true ∧ (l.applyProfile img b n).state = l.state) ∨
      (l.applyProfile img b n).state.hostMotion = false := by
  revert h
  simp only [Line.applyProfile]
  split
  · split
    · split
      · rename_i e
        intro _
        exact .inr (by simp [Line.copyFlags, e, LineState.hostMotion])
      · exact fun _ => .inr rfl
    · exact fun _ => .inr rfl
  · split
    · rename_i e
      intro h
      exact .inl ⟨e ▸ h, rfl⟩
    · split
      · exact fun _ => .inr rfl
      · exact fun _ => .inr rfl

/-- A change of one line that leaves it its flag and state, or sets it still. -/
theorem Tame.modLine_still {n : LineId} {f : Line → Line} {s : State}
    (hf : (f (s.line n)).fitted = true → ((s.line n).fitted = true ∧
      (f (s.line n)).state = (s.line n).state) ∨ (f (s.line n)).state.hostMotion = false) :
    Tame s (Machine.modLine n f s) where
  lane _ _ _ h := .inl h
  phase := rfl
  silence := rfl
  queue _ h := h
  still _ _ m h := by
    rw [line_modLine] at h ⊢
    split at h
    · rename_i e
      subst e
      rw [if_pos rfl]
      exact hf h
    · rename_i e
      rw [if_neg e]
      exact .inl ⟨h, rfl⟩

theorem Tame.applyProfile (s : State) : Tame s (applyProfile s) := by
  unfold Machine.applyProfile
  exact Tame.eachLine (fun n t => .modLine_still (Line.applyProfile_still _ _ _ _)) s

theorem Tame.askChanged (old s : State) : Tame s (askChanged old s) :=
  Tame.eachLine (fun n t => by
    split
    · exact .refl t
    · exact .askLine n t) s

theorem Tame.withProfile (p : Profile) (s : State) : Tame s { s with profile := p } :=
  .of_same rfl id fun _ => ⟨rfl, rfl⟩

theorem Tame.recordOutcome (o : ProfileOutcome) (s : State) : Tame s (recordOutcome o s) :=
  ((Tame.withProfile _ s).trans (.setBerthNotice _ _)).trans (.askBerth _)

theorem Tame.setActive (img : List Word) (src : ProfileSource) (s : State) : Tame s (setActive img src s) :=
  .withProfile _ s

theorem Tame.clearLoad (s : State) : Tame s (clearLoad s) := .withProfile _ s

theorem Tame.withBus (b : Bus) (s : State)
    (h : ∀ r ∈ b.reportLane, r ∈ s.bus.reportLane := by exact fun _ h => h) : Tame s { s with bus := b } :=
  .of_same rfl id (fun _ => ⟨rfl, rfl⟩) h

theorem Tame.activate (img : List Word) (s : State) : Tame s (activate img s) :=
  ((((((Tame.setActive img _ s).trans (.applyProfile _)).trans (.restartScan _)).trans
    (.setDivider _ _)).trans (.endCause _ _)).trans (.recordOutcome _ _)).trans (.askChanged _ _)

theorem Tame.askFetch (f : Fetch) (s : State) : Tame s (askFetch f s) := .withBus _ s

theorem Tame.adoptFrom (k : Nat) (s : State) : Tame s (adoptFrom k s) := by
  unfold Machine.adoptFrom
  split
  · exact .askFetch _ s
  · exact .startFirstPass s

theorem Tame.endStartUpLoad (img : List Word) (src : ProfileSource) (o : ProfileOutcome) (s : State) :
    Tame s (endStartUpLoad img src o s) := by
  have h1 := (((Tame.setActive img src s).trans (.applyProfile _)).trans (.prepareScan _)).trans
    (.setDivider 0 _)
  have h2 : ∀ t, Tame t (Machine.adoptFrom 0 (Machine.setStage .adoptRead (Machine.recordOutcome o t))) :=
    fun t => ((Tame.recordOutcome o t).trans (.setStage _ _)).trans (.adoptFrom _ _)
  unfold Machine.endStartUpLoad
  dsimp only
  split
  · exact (h1.trans (.endCause _ _)).trans (h2 _)
  · exact h1.trans (h2 _)

theorem Tame.discardFetch (s : State) : Tame s (discardFetch s) := by
  unfold Machine.discardFetch
  split <;> exact .withBus _ s

theorem Tame.startLoad (s : State) : Tame s (startLoad s) := (Tame.withProfile _ s).trans (.askFetch _ _)

theorem Tame.commitWord (s : State) : Tame s (commitWord s) := by
  unfold Machine.commitWord
  (repeat' split) <;> first
    | with_reducible exact (Tame.startLoad s).trans (.askBerth _)
    | with_reducible exact (Tame.discardFetch s).trans (.startLoad _)
    | with_reducible exact .recordOutcome _ s

theorem Tame.endLoad (img : List Word) (sum : Word) (s : State) : Tame s (endLoad img sum s) := by
  have h1 := (Tame.clearLoad s).trans (.askBerth _)
  unfold Machine.endLoad
  dsimp only
  (repeat' split) <;> first
    | with_reducible exact h1.trans (.endStartUpLoad _ _ _ _)
    | with_reducible exact h1.trans (.recordOutcome _ _)
    | with_reducible exact h1.trans (.activate _ _)

theorem Tame.deliverImage (v : Word) (s : State) : Tame s (deliverImage v s) := by
  unfold Machine.deliverImage
  dsimp only
  (repeat' split) <;> first
    | with_reducible exact .refl s
    | with_reducible exact (Tame.withProfile _ s).trans (.askFetch _ _)
    | with_reducible exact .endLoad _ _ s

theorem Tame.deliverOrderWord (n : LineId) (v : Word) (s : State) : Tame s (deliverOrderWord n v s) :=
  (Tame.recordHost n _ s).trans (.adoptFrom _ _)

theorem Tame.abortLoad (s : State) : Tame s (abortLoad s) := by
  have h1 := ((Tame.discardFetch s).trans (.clearLoad _)).trans (.askBerth _)
  unfold Machine.abortLoad
  dsimp only
  (repeat' split) <;> first
    | with_reducible exact .refl s
    | with_reducible exact h1.trans (.endStartUpLoad _ _ _ _)
    | with_reducible exact h1.trans (.recordOutcome _ _)

theorem Tame.upsetCopy (u : List (Fin 128 × Word)) (s : State) : Tame s (upsetCopy u s) :=
  .withProfile _ s

theorem Tame.clampLine (n : LineId) (s : State) : Tame s (clampLine n s) := by
  unfold Machine.clampLine
  dsimp only
  split
  · exact .refl s
  · refine Tame.trans (Tame.modLine rfl ?_) (.askLine n _)
    exact LineState.clamp_eq _ _

theorem Tame.clampSteps (s : State) : Tame s (clampSteps s) := Tame.eachLine .clampLine s

theorem Tame.reevaluateChanged (old s : State) : Tame s (reevaluateChanged old s) :=
  reevaluateChanged_keeps (P := fun t => Tame s t) (fun t ht => ht.trans (.reevaluate t)) (.refl s)

theorem State.Phased.mismatch {s : State} (h : s.Phased) : (mismatch s).Phased := by
  have h1 := h.tame ((((Tame.setActive fallbackImage .fallback s).trans (.applyProfile _)).trans
    (.reevaluateChanged s _)).trans (.clampSteps _))
  have h2 : ∀ t : State, t.Phased → (Machine.askChanged s (Machine.askBerth (Machine.raiseCause
      .profileFault true (Machine.recordOutcome .verifyFailed (Machine.setDivider 0 t))))).Phased :=
    fun t ht => (((ht.tame (.setDivider 0 t)).tame (.recordOutcome _ _)).raiseCause _ _).tame
      ((Tame.askBerth _).trans (.askChanged _ _))
  unfold Machine.mismatch
  dsimp only
  split
  · exact h2 _ (h1.tame (.prepareScan _))
  · exact h2 _ (h1.tame (.restartScan _))

theorem State.Phased.verifyEvent {s : State} (h : s.Phased) : (verifyEvent s).Phased := by
  have h1 := h.tame (.withProfile { s.profile with verify := some (s.ticksFor Config.verifyMs) } s)
  unfold Machine.verifyEvent
  dsimp only
  split
  · exact h1
  · exact h1.mismatch

/-! ### Resets and supply -/

/-- A reset leaves the phase STARTING with an empty queue and the silence timer stopped (R58, R139). -/
theorem State.Phased.takeReset (s : State) (c : ResetCause) : (takeReset c s).Phased :=
  ⟨rfl, fun _ => rfl, fun h => by (cases h),
    fun _ => by cases c <;> rfl, fun h => by (cases h)⟩

theorem Tame.sampleStraps (s : State) : Tame s (sampleStraps s) := .withBus _ s

theorem Tame.setStraps (v : BitVec 6) (s : State) : Tame s (setStraps v s) := .withSupply _ s

theorem State.Phased.powerOnEvent (s : State) : (powerOnEvent s).Phased :=
  (State.Phased.takeReset s .powerOn).tame (.withSupply _ _)

theorem State.Phased.brownOutEvent {s : State} (h : s.Phased) : (brownOutEvent s).Phased := by
  unfold Machine.brownOutEvent
  split
  · exact (State.Phased.takeReset s .brownOut).tame (.withSupply _ _)
  · exact h

theorem Tame.supplyRiseEvent (straps : BitVec 6) (stow : BitVec 12) (s : State) :
    Tame s (supplyRiseEvent straps stow s) := by
  have h1 := ((Tame.setStraps straps s).trans (.sampleStraps _)).trans
    (Tame.modLines (f := fun n => Line.startDomain (stow.getLsbD n.val)) (fun _ _ => rfl)
      (fun _ _ => rfl) _)
  unfold Machine.supplyRiseEvent
  dsimp only
  split
  · exact .refl s
  · split
    · exact h1.trans (.withSupply _ _)
    · exact (h1.trans (.withSupply _ _)).trans (.setStage _ _)

theorem State.Phased.pinResetEvent {s : State} (h : s.Phased) (straps : BitVec 6) :
    (pinResetEvent straps s).Phased := by
  unfold Machine.pinResetEvent
  split
  · exact (State.Phased.takeReset (Machine.setStraps straps s) .pin).tame
      ((Tame.sampleStraps _).trans (.withSupply _ _))
  · exact h

theorem Tame.resetnReleaseEvent (s : State) : Tame s (resetnReleaseEvent s) := by
  unfold Machine.resetnReleaseEvent
  dsimp only
  split
  · exact (Tame.withSupply _ s).trans (.setStage _ _)
  · exact .withSupply _ s

theorem State.Phased.commandReset (s : State) : (commandReset s).Phased :=
  (State.Phased.takeReset s .command).tame ((Tame.sampleStraps _).trans (.setStage _ _))

theorem State.Phased.selfTestEvent {s : State} (h : s.Phased) (pass : Bool) :
    (selfTestEvent pass s).Phased := by
  unfold Machine.selfTestEvent
  split
  · rename_i hc
    split
    · exact h.tame ((Tame.setStage _ s).trans (.startLoad _))
    · refine State.Phased.tame ?_ (.recordOutcome _ _)
      refine State.Phased.tame ?_ (.askBerth _)
      have hq := h.emptyQueue (.inl (by rw [hc.2.2]; rfl))
      exact ⟨rfl, fun _ => hq, fun e => by (cases e), fun e => by (cases e), fun _ r hr => by
        have hr : r ∈ s.bus.reportLane := hr
        rw [h.noReports hc.2.2] at hr
        cases hr⟩
  · exact h

theorem Tame.setSupplyFlags (a b : Bool) (s : State) : Tame s (setSupplyFlags a b s) := .withSupply _ s

theorem State.Phased.supplyWarningEvent {s : State} (h : s.Phased) : (supplyWarningEvent s).Phased := by
  unfold Machine.supplyWarningEvent
  split
  · exact h
  · exact ((h.tame ((Tame.setSupplyFlags _ _ s).trans (.setBerthNotice _ _))).raiseCause _ _).tame
      (.askBerth _)

theorem Tame.supplyRecoveryEvent (s : State) : Tame s (supplyRecoveryEvent s) := by
  unfold Machine.supplyRecoveryEvent
  split
  · exact ((Tame.setSupplyFlags _ _ s).trans (.endCause _ _)).trans (.askBerth _)
  · exact .refl s

/-! ### Screening -/

theorem Tame.writeArgument (n : LineId) (w : Word) (be : ByteEnables) (s : State) :
    Tame s (writeArgument n w be s) := .modLine rfl (.inl rfl)

theorem Tame.useLatch (n : LineId) (k : OrderKind) (s : State) : Tame s (useLatch n k s) := by
  unfold Machine.useLatch
  split
  · exact .modLine rfl (.inl rfl)
  · exact .refl s

theorem State.Phased.passOrder {s : State} (h : s.Phased) (n : LineId) (k : OrderKind) (t : Tag)
    (arg : Nat) (hk : phaseAllows k s.berth.phase = true) : (passOrder n k t arg s).Phased := by
  have h1 := ((Tame.recordHost n ⟨some (t, k), some .passed, displacedTag s n⟩ s).trans
    (.supersede n _)).trans (.placePair (makePair n k t arg) _)
  have hs : s.berth.phase.silent = false := by
    revert hk
    cases s.berth.phase <;> cases k <;> simp [phaseAllows, Phase.silent]
  have h2 := fun hl => h1.trans (Tame.applyEffect n k arg _ (by rw [h1.phase]; exact hs) hl)
  have hl : s.berth.phase = .lockdown → k = .lock ∨ k = .restate := fun e => by
    rw [e] at hk
    cases k <;> simp [phaseAllows] at hk ⊢
  by_cases hr : k = .restate
  · subst hr
    unfold Machine.passOrder
    dsimp only
    split
    · exact h.tame h1
    · exact (h.tame h1).settle n
  · have h3 := h2 fun e => (hl (h1.phase ▸ e)).resolve_right hr
    unfold Machine.passOrder
    dsimp only
    split
    · exact h.tame h3
    · exact (h.tame h3).settle n

theorem State.Phased.passRestate {s : State} (h : s.Phased) (n : LineId) (t : Tag) :
    (passRestate n t s).Phased :=
  (h.tame (((Tame.recordHost n _ s).trans (.supersede n _)).trans (.deriveLine n _))).settle n

theorem State.Phased.completeOrder {s : State} (h : s.Phased) (n : LineId) (k : OrderKind) (t : Tag)
    (o : Origin) (latch : Option Latch) (hold : Bool) (hk : phaseAllows k s.berth.phase = true) :
    (completeOrder n k t o latch hold s).Phased := by
  have hh : k = .slip ∨ k = .rewind → s.berth.phase.silent = false ∧ s.berth.phase ≠ .lockdown := by
    rintro (rfl | rfl) <;> revert hk <;> cases s.berth.phase <;> simp [phaseAllows, Phase.silent]
  unfold Machine.completeOrder
  split
  case h_1 | h_2 =>
    split
    · exact h.tame ((Tame.refuse n _ _ s))
    · split
      · exact h.passOrder n _ t _ hk
      · exact h.tame ((Tame.refuse n _ _ s))
  case h_3 => exact h.tame (.holdOrder n _ t o s (hh (.inl rfl)))
  case h_4 =>
    split
    · exact h.tame (.holdOrder n _ t o s (hh (.inr rfl)))
    · exact h.passOrder n _ t 0 hk
  case h_5 => exact h.passRestate n t
  all_goals exact h.passOrder n _ t 0 hk

theorem State.Phased.judgeOrder {s : State} (h : s.Phased) (n : LineId) (k : OrderKind) (t : Tag)
    (o : Origin) (latch : Option Latch) : (judgeOrder n k t o latch s).Phased := by
  unfold Machine.judgeOrder
  split
  · exact h.tame (.refuse n _ _ s)
  · split
    · exact h.tame (.refuse n _ _ s)
    · rename_i hk
      have hk' : phaseAllows k s.berth.phase = true := by simpa using hk
      split
      · exact h.tame (.refuse n _ _ s)
      · exact h.completeOrder n k t o latch _ hk'
      · exact h.completeOrder n k t o latch _ hk'

theorem State.Phased.screen {s : State} (n : LineId) (k : OrderKind) (t : Tag) (o : Origin)
    (h : s.Phased) : (screen n k t o s).Phased := by
  have h1 := h.tame (.useLatch n k s)
  unfold Machine.screen
  split
  · exact h1.tame (.refuse n _ _ _)
  · split
    · exact h
    · exact h1.judgeOrder n k t o _

theorem State.Phased.writeOrder {s : State} (h : s.Phased) (n : LineId) (w : Word) (be : ByteEnables) :
    (writeOrder n w be s).Phased := by
  unfold Machine.writeOrder
  (repeat' split) <;> first
    | with_reducible exact h.tame (.refuse n _ _ s)
    | with_reducible exact State.Phased.screen n _ _ _ h

theorem State.Phased.writeGroup {s : State} (h : s.Phased) (w : Word) (be : ByteEnables) :
    (writeGroup w be s).Phased := by
  unfold Machine.writeGroup
  split
  · exact h.tame (.setBerthNotice _ s)
  · exact eachLine_keeps (P := State.Phased) (fun n t ht => by
      split
      · exact State.Phased.screen n _ _ _ ht
      · exact ht) h

/-! ### Berth requests, acknowledge, cursor -/

theorem Tame.refuseRequest (r : RequestRefusal) (s : State) : Tame s (refuseRequest r s) := by
  have h1 : Tame s { s with berth := { s.berth with refusal := some r } } :=
    ⟨rfl, rfl, fun _ h => h, fun _ _ _ hf => .inl ⟨hf, rfl⟩, fun _ _ _ h => .inl h⟩
  exact (h1.trans (.setBerthNotice _ _)).trans (.askBerth _)

theorem State.Phased.change {s : State} (h : s.Phased) (p : Phase) (hp : p.silent = false)
    (hl : p ≠ .lockdown) : (changePhase p id s).Phased := h.toPhase p hp hl (fun t => .refl t) fun _ => rfl

theorem State.Phased.resumeBerth {s : State} (h : s.Phased) : (resumeBerth s).Phased := by
  unfold Machine.resumeBerth
  dsimp only
  split
  · exact (h.tame (.setCauses 0 0 s)).change _ rfl (by simp)
  · exact (h.tame (.setCauses 0 0 s)).change _ rfl (by simp)

theorem State.Phased.ruling {s : State} (h : s.Phased) (q : Request) :
    ∀ c t, ruling q s = .when c t → t.Phased := by
  intro c t
  unfold Machine.ruling
  split <;> intro e <;> first
    | cases e; with_reducible exact h.raiseCause _ _
    | cases e; with_reducible exact h.resumeBerth
    | cases e; with_reducible exact State.Phased.commandReset s
    | cases e; with_reducible exact h.change _ rfl (by simp)
    | cases e; with_reducible exact h.toPhase _ rfl (by simp) Tame.flush fun t => by simp
    | cases e

theorem State.Phased.writeRequest {s : State} (h : s.Phased) (w : Word) (be : ByteEnables) :
    (writeRequest w be s).Phased := by
  unfold Machine.writeRequest
  split
  · exact h.tame (.refuseRequest _ s)
  · split
    · exact h.tame (.refuseRequest _ s)
    · rename_i hr
      split
      · exact h.ruling _ _ _ hr
      · exact h.tame (.refuseRequest _ s)

theorem Tame.clearNotices (w : Word) (s : State) : Tame s (clearNotices w s) := by
  have h1 := Tame.modLines (f := fun n l => { l with notice := l.notice && !ackNames w n })
    (fun _ _ => rfl) (fun _ _ => rfl) s
  have h2 : ∀ (t : State) (r : Reporting), Tame t { t with report := r } :=
    fun t r => .of_same rfl id fun _ => ⟨rfl, rfl⟩
  exact h1.trans (h2 _ _)

theorem Tame.writeAcknowledge (w : Word) (be : ByteEnables) (s : State) :
    Tame s (writeAcknowledge w be s) := by
  have h2 : ∀ t : State, Tame t (if (ackBerth w).getLsbD BerthNotice.supplyWarning.code
      then Machine.setSupplyFlags t.supply.live false t else t) := fun t => by
    split
    · exact .setSupplyFlags _ _ t
    · exact .refl t
  have h3 : ∀ t : State, Tame t (Machine.eachLine (fun n u =>
      if (s.line n).notice && ackNames w n then Machine.askLine n u else u) t) := fun t =>
    Tame.eachLine (fun n u => by
      split
      · exact .askLine n u
      · exact .refl u) t
  have h4 : ∀ (c : Prop) [Decidable c] (t : State), Tame t (if c then Machine.askBerth t else t) :=
    fun c _ t => by
      split
      · exact .askBerth t
      · exact .refl t
  have h1 := Tame.clearNotices w s
  unfold Machine.writeAcknowledge
  split
  · dsimp only
    revert h1
    generalize Machine.clearNotices w s = a
    intro h1
    have h5 := h1.trans (h2 a)
    revert h5
    generalize (if (ackBerth w).getLsbD BerthNotice.supplyWarning.code
      then Machine.setSupplyFlags a.supply.live false a else a) = b
    intro h5
    have h6 := (h5.trans (.judgeAttn b)).trans (h3 _)
    revert h6
    generalize Machine.eachLine _ (Machine.judgeAttn b) = d
    intro h6
    exact h6.trans (h4 _ d)
  · exact .refl s

theorem Tame.writeCursor (w : Word) (be : ByteEnables) (s : State) : Tame s (writeCursor w be s) := by
  unfold Machine.writeCursor
  split
  · exact .withScan _ s
  · exact .refl s

theorem Tame.writeCommit (w : Word) (be : ByteEnables) (s : State) : Tame s (writeCommit w be s) := by
  unfold Machine.writeCommit
  split
  · exact .commitWord s
  · exact .refl s

/-! ### The bus path -/

theorem Tame.raiseSeq (r : RecId) (s : State) : Tame s (raiseSeq r s) := by
  unfold Machine.raiseSeq
  split
  · exact .modLine rfl (.inl rfl)
  · exact .of_same rfl id fun _ => ⟨rfl, rfl⟩

theorem Tame.grantInternal (s : State) : Tame s (grantInternal s) := by
  unfold Machine.grantInternal
  split
  · exact .withBus _ s
  · exact (Tame.raiseSeq _ s).trans (.withBus _ _ fun _ h => List.mem_of_mem_erase h)
  · exact .refl s

theorem Tame.arbitrate (s : State) : Tame s (arbitrate s) := by
  unfold Machine.arbitrate
  (repeat' split) <;> first
    | with_reducible exact .refl s
    | with_reducible exact .grantInternal s
    | exact .withBus _ s

theorem Tame.hostActivity (s : State) : Tame s (hostActivity s) :=
  ⟨rfl, by simp [Machine.hostActivity], fun _ h => h, fun _ _ _ hf => .inl ⟨hf, rfl⟩,
    fun _ _ _ h => .inl h⟩

theorem State.Phased.guarded {s : State} (h : s.Phased) {owner : State → State}
    (ho : ∀ t, t.Phased → (owner t).Phased) : (guarded owner s).Phased := by
  unfold Machine.guarded
  split
  · exact h
  · exact ho _ (h.tame (.hostActivity s))

theorem Tame.strayWrite (s : State) : Tame s (strayWrite s) := by
  unfold Machine.strayWrite
  split
  · exact .refl s
  · exact .setBerthNotice _ s

theorem Tame.lockRecord (r : RecId) (k : Fin 4) (s : State) : Tame s (lockRecord r k s) := by
  unfold Machine.lockRecord
  split
  · exact .withBus _ s
  · exact .refl s

theorem Tame.readPort (s : State) : Tame s (readPort s) := by
  unfold Machine.readPort
  dsimp only
  split
  · exact .withBus _ s
  · exact .of_same rfl id fun _ => ⟨rfl, rfl⟩

theorem State.Phased.takeWrite {s : State} (h : s.Phased) (t : Transfer) (g : Target) :
    (takeWrite t g s).Phased := by
  unfold Machine.takeWrite
  split
  · exact h.guarded fun u hu => hu.tame (.writeArgument _ _ _ u)
  · exact h.guarded fun u hu => hu.writeOrder _ _ _
  · exact h.guarded fun u hu => hu.writeGroup _ _
  · exact h.guarded fun u hu => hu.writeRequest _ _
  · exact h.guarded fun u hu => hu.tame (.writeAcknowledge _ _ u)
  · exact h.guarded fun u hu => hu.tame (.writeCursor _ _ u)
  · exact h
  · exact h.guarded fun u hu => hu.tame (.writeCommit _ _ u)
  · exact h.tame (.strayWrite s)
  · exact h.tame ((Tame.abortLoad s).trans (.withBus _ _))
  · exact h.tame (.withBus _ s)

theorem State.Phased.takeTransfer {s : State} (h : s.Phased) (t : Transfer) :
    (takeTransfer t s).Phased := by
  unfold Machine.takeTransfer
  split
  · exact h.takeWrite t _
  · unfold Machine.takeRead
    split
    · exact h.tame (.readPort s)
    · exact h.tame ((Tame.lockRecord _ _ s).trans (.withBus _ _))
    all_goals exact h.tame (.withBus _ s)

theorem State.Phased.present {s : State} (h : s.Phased) (t : Transfer) : (present t s).Phased := by
  unfold Machine.present
  split
  · exact h
  · split
    · exact h.tame (.withBus _ s)
    · exact (h.takeTransfer t).tame (.arbitrate _)

theorem State.Phased.drainHeld {s : State} (h : s.Phased) (ts : List Transfer) :
    (drainHeld ts s).Phased := by
  induction ts generalizing s with
  | nil => exact h.tame (.withBus _ s)
  | cons t ts ih =>
    unfold Machine.drainHeld
    split
    · exact h.tame (.withBus _ s)
    · exact ih ((h.takeTransfer t).tame (.arbitrate _))

theorem Tame.releaseSnap (x : HostAccess) (s : State) : Tame s (releaseSnap x s) := by
  unfold Machine.releaseSnap
  (repeat' split) <;> first | with_reducible exact .refl s | exact .withBus _ s

theorem Tame.presentData (x : HostAccess) (w : Word) (s : State) : Tame s (presentData x w s) := by
  unfold Machine.presentData
  split
  · exact .refl s
  · exact .withBus _ s

theorem Tame.freePort (s : State) : Tame s (freePort s) := .withBus _ s

theorem State.Phased.hostComplete {s : State} (h : s.Phased) (w : Word) : (hostComplete w s).Phased := by
  unfold Machine.hostComplete
  split
  · exact (h.tame ((((Tame.freePort s).trans (.releaseSnap _ _)).trans (.presentData _ w _)).trans
      (.arbitrate _))).drainHeld _
  all_goals exact h

theorem Tame.partComplete (s : State) : Tame s (partComplete s) := by
  unfold Machine.partComplete
  split <;> first | with_reducible exact .refl s | exact (Tame.freePort s).trans (.arbitrate _)

theorem Tame.deliver (f : Fetch) (v : Word) (s : State) : Tame s (deliver f v s) := by
  unfold Machine.deliver
  split
  · exact .deliverImage v s
  · exact .deliverOrderWord _ v s

theorem Tame.fetchComplete (v : Word) (s : State) : Tame s (fetchComplete v s) := by
  unfold Machine.fetchComplete
  split
  · split
    · exact (Tame.freePort s).trans (.arbitrate _)
    · exact ((Tame.freePort s).trans (.deliver _ v _)).trans (.arbitrate _)
  all_goals exact .refl s

/-! ### Events and the tick -/

theorem State.Phased.event {s : State} (h : s.Phased) {f : State → State}
    (hf : ∀ t, t.Phased → (f t).Phased) : (event f s).Phased := by
  unfold Machine.event
  split
  · exact (hf s h).tame (.arbitrate _)
  · exact h

theorem State.Phased.onTick {s : State} (h : s.Phased) {f : State → State}
    (hf : ∀ t, t.Phased → (f t).Phased) : (onTick f s).Phased := by
  have ht : ∀ (t : State) (b : Bool), Tame t { t with atTick := b } :=
    fun t b => .of_same rfl id fun _ => ⟨rfl, rfl⟩
  exact (hf _ (h.tame (ht s true))).tame (ht _ false)

theorem State.Phased.expireStall {s : State} (h : s.Phased) (n : LineId) : (expireStall n s).Phased :=
  (h.tame (.modLine (f := fun l => { l with stall := none }) rfl (.inl rfl))).stallEvent n

theorem State.Phased.expireHaul {s : State} (h : s.Phased) (n : LineId) : (expireHaul n s).Phased :=
  (h.tame (.modLine (f := fun l => { l with haul := none }) rfl (.inl rfl))).haulTimeOutEvent n

theorem State.Phased.expireSlip {s : State} (h : s.Phased) (n : LineId) : (expireSlip n s).Phased :=
  (h.tame (.modLine (f := fun l => { l with slip := none }) rfl (.inl rfl))).slipTimeOutEvent n

theorem State.Phased.expireBrake {s : State} (h : s.Phased) (n : LineId) : (expireBrake n s).Phased :=
  (h.tame (.modLine (f := fun l => { l with brakeSettle := none }) rfl (.inl rfl))).mismatchEvent n

theorem Tame.expireHold (n : LineId) (s : State) : Tame s (expireHold n s) := by
  unfold Machine.expireHold
  split
  · exact (Tame.endEntry _ _ s).trans (.askBerth _)
  · exact .refl s

theorem State.Phased.expiry {s : State} (h : s.Phased) (e : Expiry) : (e.take s).Phased := by
  cases e with
  | stall n => exact h.expireStall n
  | haul n => exact h.expireHaul n
  | slip n => exact h.expireSlip n
  | brake n => exact h.expireBrake n
  | hold n => exact h.tame (.expireHold n s)
  | silence => exact h.raiseCause _ _
  | pacing => exact h.tame (.pacingEvent s)
  | verify => exact h.verifyEvent
  | snap => exact h.tame (.withBus _ s)

theorem State.Phased.expire {s : State} (h : s.Phased) (e : Expiry) : (expire e s).Phased := by
  unfold Machine.expire
  split
  · exact h.expiry e
  · exact h

theorem State.Phased.countDown {s : State} (h : s.Phased) : (countDown s).Phased := by
  have h1 := h.tame (Tame.modLines (f := fun _ => Line.tick) (fun _ _ => rfl) (fun _ _ => rfl) s)
  unfold Machine.countDown
  refine ⟨?_, fun e => ?_, h1.still, h1.noReports, h1.berthOnly⟩
  · exact (by simp [tickTimer] : _ = _).trans h1.silence
  · simp [h1.emptyQueue e]

theorem State.Phased.takeAllDue {s : State} (h : s.Phased) : (takeAllDue s).Phased :=
  h.onTick fun t ht => foldl_keeps (P := State.Phased)
    (fun u e hu => by
      unfold takeDue
      split
      · exact (hu.expiry e).tame (.arbitrate _)
      · exact hu) _ ht

theorem State.Phased.count {s : State} (h : s.Phased) : (count s).Phased := by
  unfold Machine.count
  split
  · exact h.takeAllDue.countDown
  · exact h

theorem State.Phased.elapse {s : State} (h : s.Phased) (k : Nat) : (elapse k s).Phased := by
  induction k generalizing s with
  | zero => exact h
  | succ k ih => exact ih h.count

theorem State.Phased.tick {s : State} (h : s.Phased) : (tick s).Phased := by
  unfold Machine.tick
  split
  · exact h.count.takeAllDue
  · exact h

end Sys2Proof.Machine
end

