-- ==== Sys2Proof/Laws/Drums.lean ====
section
/-! SUPPORT. The drum inputs keep a sound state sound and what hangs on the phase. -/

namespace Sys2Proof.Machine

theorem movePayout_le (outward : Bool) {v : Nat} (h : v ≤ 65535) : movePayout outward v ≤ 65535 := by
  unfold movePayout
  split
  · exact Nat.min_le_left _ _
  · exact Nat.le_trans (Nat.sub_le _ _) h

theorem Line.moveRun_isSome (outward : Bool) (l : Line) (h : (l.moveRun outward).isSome = true) :
    l.run.isSome = true := by
  unfold Line.moveRun at h
  split at h
  · simp_all
  · exact h
  · cases h

theorem Line.moveRun_ceiling (outward : Bool) (l : Line) (h : ∀ r, l.run = some r → r.left ≤ r.ceiling) :
    ∀ r, l.moveRun outward = some r → r.left ≤ r.ceiling := by
  intro r
  unfold Line.moveRun
  split
  · rename_i r0 _ h0 _
    have := h r0 h0
    split
    · intro e
      cases e
      exact Nat.le_trans (Nat.sub_le _ _) this
    · intro e
      cases e
      exact Nat.min_le_left _ _
  · exact h r
  · intro e
    cases e

theorem Line.Sound.countPulse {l : Line} (h : l.Sound) (outward : Bool) (v : Nat) :
    (l.countPulse outward v).Sound := by
  have hp := movePayout_le outward h.payout
  unfold Line.countPulse
  dsimp only
  split
  · exact ⟨h.1, h.2, h.3, h.4, hp, h.6, h.7, fun e => h.run (Line.moveRun_isSome outward l e),
      Line.moveRun_ceiling outward l h.ceiling, fun e => h.stall (by
        revert e
        dsimp only
        split
        · simp
        · exact id), h.11, h.12, h.13⟩
  · exact ⟨h.1, h.2, h.3, h.4, hp, h.6, h.7, h.8, h.9, h.10, h.11, h.12, h.13⟩

theorem Line.countPulse_notice (l : Line) (outward : Bool) (v : Nat) :
    (l.countPulse outward v).notice = l.notice := by
  unfold Line.countPulse
  dsimp only
  split <;> rfl

theorem Line.countPulse_state (l : Line) (outward : Bool) (v : Nat) :
    (l.countPulse outward v).state = l.state ∧ (l.countPulse outward v).fitted = l.fitted := by
  unfold Line.countPulse
  dsimp only
  split <;> exact ⟨rfl, rfl⟩

theorem State.Sound.pulseEdge {s : State} (h : s.Sound) (n : LineId) (outward : Bool) (gap : Nat) :
    (pulseEdge n outward gap s).Sound := by
  have l := h.line n
  unfold Machine.pulseEdge pulseEvents
  split
  · exact h.modLine (f := fun l => { l with pulseAge := l.pulseAge + gap })
      ⟨l.1, l.2, l.3, l.4, l.5, l.6, l.7, l.8, l.9, l.10, l.11, l.12, l.13⟩ rfl
  · have h1 := h.modLine (f := Line.countPulse outward (s.ticksFor (stallTime s.image)))
      (l.countPulse _ _) (Line.countPulse_notice _ _ _)
    split
    · exact h1
    · split
      · have l1 := h1.line n
        exact (h1.modLine (f := fun l => { l with run := none })
          ⟨l1.1, l1.2, l1.3, l1.4, l1.5, l1.6, l1.7, by simp, by simp, l1.10, l1.11, l1.12, l1.13⟩
          rfl).runComplete n
      · split
        · exact h1.creepEvent n
        · exact h1

theorem State.Sound.brakeChange {s : State} (h : s.Sound) (n : LineId) (v : Bool) :
    (brakeChange n v s).Sound := by
  have l := h.line n
  unfold Machine.brakeChange
  split
  · exact h
  · refine h.modLine ⟨l.1, l.2, l.3, l.4, l.5, l.6, l.7, l.8, l.9, l.10, l.11, l.12, ?_⟩ rfl
    dsimp only
    split
    · split
      · simp
      · simp_all
    · simp

theorem State.Sound.stowMadeChange {s : State} (h : s.Sound) (n : LineId) :
    (stowMadeChange n s).Sound := by
  have l := h.line n
  unfold Machine.stowMadeChange
  split
  · exact h
  · have h1 := h.modLine (f := fun l => { l with stowMade := true, payout := 0, lengthUnknown := false })
      ⟨l.1, l.2, l.3, l.4, Nat.zero_le _, l.6, l.7, l.8, l.9, l.10, l.11, l.12, l.13⟩ rfl
    dsimp only
    split
    · exact h1.stowMadeEvent n
    · exact h1

theorem State.Sound.stowLostChange {s : State} (h : s.Sound) (n : LineId) :
    (stowLostChange n s).Sound := by
  have l := h.line n
  unfold Machine.stowLostChange
  split
  · have h1 := h.modLine (f := fun l => { l with stowMade := false })
      ⟨l.1, l.2, l.3, l.4, l.5, l.6, l.7, l.8, l.9, l.10, l.11, l.12, l.13⟩ rfl
    dsimp only
    split
    · exact h1.stowLostEvent n
    · exact h1
  · exact h

theorem Tame.countPulse (n : LineId) (outward : Bool) (v : Nat) (s : State) :
    Tame s (Machine.modLine n (Line.countPulse outward v) s) :=
  .modLine (Line.countPulse_state _ _ _).2 (.inl (Line.countPulse_state _ _ _).1)

theorem State.Phased.pulseEdge {s : State} (h : s.Phased) (n : LineId) (outward : Bool) (gap : Nat) :
    (pulseEdge n outward gap s).Phased := by
  have h1 := fun v => h.tame (.countPulse n outward v s)
  unfold Machine.pulseEdge pulseEvents
  split
  · exact h.tame (.modLine rfl (.inl rfl))
  · split
    · exact h1 _
    · split
      · exact ((h1 _).tame (.modLine rfl (.inl rfl))).runComplete n
      · split
        · exact (h1 _).creepEvent n
        · exact h1 _

theorem Tame.brakeChange (n : LineId) (v : Bool) (s : State) : Tame s (brakeChange n v s) := by
  unfold Machine.brakeChange
  split
  · exact .refl s
  · exact .modLine rfl (.inl rfl)

theorem State.Phased.stowMadeChange {s : State} (h : s.Phased) (n : LineId) :
    (stowMadeChange n s).Phased := by
  unfold Machine.stowMadeChange
  split
  · exact h
  · dsimp only
    split
    · exact (h.tame (.modLine rfl (.inl rfl))).stowMadeEvent n
    · exact h.tame (.modLine rfl (.inl rfl))

theorem State.Phased.stowLostChange {s : State} (h : s.Phased) (n : LineId) :
    (stowLostChange n s).Phased := by
  unfold Machine.stowLostChange
  split
  · dsimp only
    split
    · exact (h.tame (.modLine rfl (.inl rfl))).stowLostEvent n
    · exact h.tame (.modLine rfl (.inl rfl))
  · exact h

end Sys2Proof.Machine
end

