-- ==== Sys2Proof/Laws/Kept.lean ====
section
/-! SUPPORT. What an operation on one line leaves of another: its fields, its hold entry and its pair in the
order lane. A line without a hold entry is left so by the re-evaluation of the hold queue. -/

namespace Sys2Proof.Machine

/-- The pairs of line `m` in an order lane. -/
def laneOf (m : LineId) (lane : List LaneEntry) : List LaneEntry := lane.filter fun x => x.line == m

/-- `t` has line `m`, its entry and its pairs as `s` has them. -/
structure Kept (m : LineId) (s t : State) : Prop where
  line : t.line m = s.line m
  entry : t.entry m = s.entry m
  lane : laneOf m t.bus.orderLane = laneOf m s.bus.orderLane

variable {m n : LineId}

theorem Kept.refl (m : LineId) (s : State) : Kept m s s := ⟨rfl, rfl, rfl⟩

theorem Kept.trans {s t u : State} (h : Kept m s t) (k : Kept m t u) : Kept m s u :=
  ⟨k.1.trans h.1, k.2.trans h.2, k.3.trans h.3⟩

theorem Kept.of_same {s t : State} (hl : t.line m = s.line m) (hq : t.queue = s.queue)
    (ho : t.bus.orderLane = s.bus.orderLane) : Kept m s t :=
  ⟨hl, by unfold State.entry; rw [hq], by rw [ho]⟩

theorem Kept.modLine (h : m ≠ n) (f : Line → Line) (s : State) : Kept m s (modLine n f s) :=
  .of_same (by rw [line_modLine, if_neg h]) rfl rfl

theorem askRecord_orderLane (r : RecId) (s : State) : (askRecord r s).bus.orderLane = s.bus.orderLane := by
  unfold askRecord
  split <;> rfl

theorem Kept.askRecord (r : RecId) (s : State) : Kept m s (askRecord r s) :=
  .of_same (by simp) (by simp) (askRecord_orderLane r s)

theorem Kept.askLine (n : LineId) (s : State) : Kept m s (askLine n s) := .askRecord _ s

theorem Kept.askBerth (s : State) : Kept m s (askBerth s) := .askRecord _ s

theorem Kept.judgeAttn (s : State) : Kept m s (judgeAttn s) := .of_same rfl rfl rfl

theorem Kept.setLineNotice (h : m ≠ n) (s : State) : Kept m s (setLineNotice n s) := by
  unfold Machine.setLineNotice
  split
  · exact .refl m s
  · exact ((Kept.modLine h _ s).trans (.judgeAttn _)).trans ((Kept.askLine n _).trans (.askBerth _))

theorem Kept.setBerthNotice (k : BerthNotice) (s : State) : Kept m s (setBerthNotice k s) := by
  have h1 : ∀ r : Reporting, Kept m s { s with report := r } := fun _ => .of_same rfl rfl rfl
  unfold Machine.setBerthNotice
  split
  · exact .refl m s
  · exact (h1 { s.report with notices := s.report.notices ||| (1#8 <<< k.code) }).trans
      ((Kept.judgeAttn _).trans (.askBerth _))

theorem laneOf_placeIn {e : LaneEntry} (h : e.line ≠ m) (lane : List LaneEntry) :
    laneOf m (placeIn e lane) = laneOf m lane := by
  unfold laneOf placeIn
  split
  · induction lane with
    | nil => rfl
    | cons x l ih =>
      rename_i hany
      by_cases hl : (l.any fun x => x.line == e.line) = true
      · simp only [List.map_cons, List.filter_cons, ih hl]
        by_cases hx : x.line = e.line
        · simp [hx, h]
        · simp [hx]
      · have hmap : l.map (fun x => if x.line = e.line then e else x) = l := by
          conv_rhs => rw [← List.map_id l]
          refine List.map_congr_left fun y hy => ?_
          rw [if_neg]
          · rfl
          · intro c
            exact hl (List.any_eq_true.mpr ⟨y, hy, by simp [c]⟩)
        simp only [List.map_cons, hmap, List.filter_cons]
        by_cases hx : x.line = e.line
        · simp [hx, h]
        · simp [hx]
  · simp [List.filter_append, h]

theorem Kept.placePair {e : LaneEntry} (h : e.line ≠ m) (s : State) : Kept m s (placePair e s) :=
  ⟨rfl, rfl, laneOf_placeIn h _⟩

theorem Kept.recordHost (h : m ≠ n) (v : LastHost) (s : State) : Kept m s (recordHost n v s) :=
  (Kept.modLine h _ s).trans (.askLine n _)

theorem Kept.recordEnding (h : m ≠ n) (t : Tag) (k : OrderKind) (v : Verdict) (s : State) :
    Kept m s (recordEnding n t k v s) := .recordHost h _ s

theorem Kept.refuse (h : m ≠ n) (o : Option (Tag × OrderKind)) (r : RefusalReason) (s : State) :
    Kept m s (refuse n o r s) := (Kept.recordHost h _ s).trans (.setLineNotice h _)

theorem Kept.enterState (h : m ≠ n) (st : LineState) (s : State) : Kept m s (enterState n st s) :=
  .modLine h _ s

theorem Kept.loadRun (h : m ≠ n) (v : Nat) (s : State) : Kept m s (loadRun n v s) := .modLine h _ s

theorem Kept.loadStall (h : m ≠ n) (s : State) : Kept m s (loadStall n s) := .modLine h _ s

theorem Kept.partOrder (h : m ≠ n) (k : OrderKind) (c : PartCause) (s : State) :
    Kept m s (partOrder n k c s) := by
  have h1 := fun a => ((Kept.placePair (m := m) (e := makePair n k 0 a) (Ne.symm h) s).trans
    (.modLine h (fun l => { l with lastPart := some ⟨k, c⟩ }) _)).trans (.askLine n _)
  unfold Machine.partOrder
  dsimp only
  split
  · exact (h1 _).trans (.loadRun h _ _)
  · exact h1 _

theorem Kept.faultEntry (h : m ≠ n) (r : FaultReason) (lock : Option PartCause) (s : State) :
    Kept m s (faultEntry n r lock s) := by
  have h1 := (Kept.enterState h (.faulted r) s).trans (.setLineNotice h _)
  unfold Machine.faultEntry
  dsimp only
  split
  · exact h1.trans (.partOrder h _ _ _)
  · exact h1

theorem find_map_other {f : Entry → Entry} (hf : ∀ x, (f x).line = x.line)
    (hk : ∀ x, x.line = m → f x = x) (q : List Entry) :
    (q.map f).find? (fun e => e.line == m) = q.find? fun e => e.line == m := by
  induction q with
  | nil => rfl
  | cons x q ih =>
    by_cases hx : x.line = m
    · simp [hx, hk x hx]
    · simp [hx, hf, ih]

theorem Kept.mapQueue {f : Entry → Entry} (hf : ∀ x, (f x).line = x.line)
    (hk : ∀ x, x.line = m → f x = x) (s : State) : Kept m s { s with queue := s.queue.map f } :=
  ⟨rfl, find_map_other hf hk _, rfl⟩

theorem Kept.markBegun (h : m ≠ n) (s : State) : Kept m s (markBegun n s) :=
  .mapQueue (fun x => by split <;> rfl)
    (fun x hx => if_neg fun c => h (hx.symm.trans c.1)) s

theorem Kept.withScan (sc : Scan) (s : State) : Kept m s { s with scan := sc } := .of_same rfl rfl rfl

theorem Kept.beginProbe (h : m ≠ n) (resume : Option Nat) (s : State) :
    Kept m s (beginProbe n resume s) :=
  ((Kept.modLine h (fun l => { l with probeWaiting := false }) s).trans (.withScan _ _)).trans
    (.markBegun h _)

theorem Kept.joinProbe (h : m ≠ n) (s : State) : Kept m s (joinProbe n s) := .modLine h _ s

theorem Kept.requestProbe (h : m ≠ n) (s : State) : Kept m s (requestProbe n s) := by
  unfold Machine.requestProbe
  split
  · exact .beginProbe h _ s
  · exact .beginProbe h _ s
  · exact .joinProbe h s

theorem Kept.lockEffect (h : m ≠ n) (s : State) : Kept m s (lockEffect n s) := by
  unfold Machine.lockEffect
  dsimp only
  split
  · exact .refl m s
  · exact .enterState h _ s

theorem Kept.rewindComplete (h : m ≠ n) (s : State) : Kept m s (rewindComplete n s) := by
  unfold Machine.rewindComplete
  split
  · exact (Kept.enterState h _ s).trans (.partOrder h _ _ _)
  · exact .faultEntry h _ _ s

theorem Kept.rewindEffect (h : m ≠ n) (s : State) : Kept m s (rewindEffect n s) := by
  have h1 := Kept.enterState h .rewinding s
  unfold Machine.rewindEffect
  dsimp only
  (repeat' split) <;> first
    | with_reducible exact h1.trans (.loadStall h _)
    | with_reducible exact h1.trans (.rewindComplete h _)
    | with_reducible exact h1.trans (.loadRun h _ _)

theorem Kept.applyEffect (h : m ≠ n) (k : OrderKind) (arg : Nat) (s : State) :
    Kept m s (applyEffect n k arg s) := by
  unfold Machine.applyEffect
  split <;> first
    | with_reducible exact .lockEffect h s
    | with_reducible exact .rewindEffect h s
    | with_reducible exact .enterState h _ s
    | with_reducible exact (Kept.enterState h _ s).trans (.loadRun h _ _)
    | with_reducible exact .refl m s

theorem find_filter_other (h : m ≠ n) (q : List Entry) :
    (q.filter fun x => !(x.line == n)).find? (fun e => e.line == m) = q.find? fun e => e.line == m := by
  induction q with
  | nil => rfl
  | cons x q ih =>
    by_cases hx : x.line = m
    · simp [hx, h]
    · by_cases hn : x.line = n
      · simp only [List.filter_cons, hn, beq_self_eq_true, Bool.not_true, Bool.false_eq_true,
          if_false, ih, List.find?_cons]
        have : (n == m) = false := by simpa using Ne.symm h
        rw [this]
      · simp [hn, hx, ih]

theorem Kept.dropEntry (h : m ≠ n) (s : State) : Kept m s (dropEntry n s) :=
  ⟨rfl, find_filter_other h _, rfl⟩

theorem Kept.putEntry {e : Entry} (h : m ≠ e.line) (s : State) : Kept m s (putEntry e s) :=
  .mapQueue (fun x => by
      split
      · rename_i c; exact c.symm
      · rfl)
    (fun x hx => if_neg fun c => h (hx.symm.trans c)) s

theorem Kept.forward {e : Entry} (h : m ≠ e.line) (s : State) : Kept m s (forward e s) :=
  (((((Kept.recordEnding h e.tag e.kind.order .forwarded s).trans (.dropEntry h _)).trans
    (.askBerth _)).trans (.placePair (Ne.symm h) _)).trans (.applyEffect h e.kind.order 0 _)).trans
      (.askLine e.line _)

theorem judged_line (s : State) (e : Entry) : (judged s e).line = e.line := by
  unfold judged
  (repeat' split) <;> rfl

theorem Kept.judgeSlip {e : Entry} (h : m ≠ e.line) (s : State) : Kept m s (judgeSlip e s) := by
  have h1 := Kept.putEntry (e := judged s e) (by rw [judged_line]; exact h) s
  unfold Machine.judgeSlip
  dsimp only
  (repeat' split) <;> first
    | with_reducible exact h1
    | with_reducible exact h1.trans (.askLine _ _)
    | with_reducible exact h1.trans (.joinProbe h _)
    | with_reducible exact (h1.trans (.askLine _ _)).trans (.joinProbe h _)

/-- The entry of a line names the line. -/
theorem entry_line {s : State} {e : Entry} (h : s.entry n = some e) : e.line = n := by
  have := List.find?_some h
  simpa using this

theorem Kept.judgeEntry (h : m ≠ n) (s : State) : Kept m s (judgeEntry n s) := by
  unfold Machine.judgeEntry
  split
  · exact .refl m s
  · rename_i e he
    have hm : m ≠ e.line := by rw [entry_line he]; exact h
    (repeat' split) <;> first
      | with_reducible exact .forward hm s
      | with_reducible exact .refl m s
      | with_reducible exact .judgeSlip hm s

/-- Without an entry there is nothing to judge. -/
theorem judgeEntry_none {s : State} (h : s.entry n = none) : judgeEntry n s = s := by
  unfold judgeEntry
  rw [h]

/-- The taking of the requests leaves a line without an entry alone. -/
theorem Kept.takeProbes {s : State} (h : s.entry m = none) : Kept m s (takeProbes s) :=
  takeProbes_keeps (P := fun t => Kept m s t)
    (fun n hn => .requestProbe (fun e => by rw [← e, h] at hn; cases hn) s) (.refl m s)

/-- The re-evaluation leaves a line without an entry alone. -/
theorem Kept.reevaluate {s : State} (h : s.entry m = none) : Kept m s (reevaluate s) := by
  have hw : Kept m s (rewalk s) := rewalk_keeps (P := fun t => Kept m s t) (fun n t ht => by
    by_cases hn : m = n
    · subst hn
      rw [judgeEntry_none (ht.entry.trans h)]
      exact ht
    · exact ht.trans (.judgeEntry hn t)) (.refl m s)
  exact hw.trans (.takeProbes (hw.entry.trans h))

theorem Kept.withBerth (b : Berth) (s : State) : Kept m s { s with berth := b } := .of_same rfl rfl rfl

theorem Kept.toPhase (p : Phase) (s : State) : Kept m s (changePhase p id s) :=
  (Kept.withBerth _ s : Kept m s (silenceAt s.berth.phase { s with berth := { s.berth with phase := p } })).trans
    (.askBerth _)

theorem Kept.autoVacant (s : State) : Kept m s (autoVacant s) := by
  unfold Machine.autoVacant
  split
  · exact .toPhase _ s
  · exact .refl m s

/-- The hand-on of a change leaves a line without an entry alone. -/
theorem Kept.settle {s : State} (h : s.entry m = none) (n : LineId) : Kept m s (settle n s) :=
  ((Kept.reevaluate h).trans (.askLine n _)).trans (.autoVacant _)

theorem Kept.supersede (h : m ≠ n) (s : State) : Kept m s (supersede n s) := by
  unfold Machine.supersede
  split
  · exact .refl m s
  · exact ((Kept.dropEntry h s).trans (.setLineNotice h _)).trans (.askBerth _)

theorem Kept.askProbe {e : Entry} (h : m ≠ e.line) (s : State) : Kept m s (askProbe e s) := by
  unfold Machine.askProbe
  split
  · exact .requestProbe h s
  · exact .refl m s

theorem Kept.endEntry {e : Entry} (h : m ≠ e.line) (v : Verdict) (s : State) :
    Kept m s (endEntry v e s) :=
  ((Kept.dropEntry h s).trans (.recordEnding h _ _ _ _)).trans (.setLineNotice h _)

/-- After the drop the line has no entry. -/
theorem entry_dropEntry (s : State) : (dropEntry n s).entry n = none := by
  unfold dropEntry State.entry
  rw [List.find?_eq_none]
  intro x hx
  have := (List.mem_filter.mp hx).2
  simpa using this

theorem entry_congr {s t : State} (h : t.queue = s.queue) (n : LineId) : t.entry n = s.entry n := by
  unfold State.entry
  rw [h]

/-- After the supersession the line has no entry. -/
theorem entry_supersede (s : State) : (supersede n s).entry n = none := by
  unfold supersede
  split
  · assumption
  · rw [entry_congr (askBerth_queue _), entry_congr (setLineNotice_queue _ _)]
    exact entry_dropEntry s

/-- A placed pair stands in the lane. -/
theorem mem_placeIn (e : LaneEntry) (lane : List LaneEntry) : e ∈ placeIn e lane := by
  unfold placeIn
  split
  · rename_i h
    obtain ⟨x, hx, hl⟩ := List.any_eq_true.mp h
    exact List.mem_map.mpr ⟨x, hx, if_pos (by simpa using hl)⟩
  · exact List.mem_append_right _ (List.mem_singleton.mpr rfl)

theorem mem_laneOf {e : LaneEntry} {lane : List LaneEntry} (h : e.line = m) :
    e ∈ lane ↔ e ∈ laneOf m lane := by
  simp [laneOf, h]

/-- A pair of a line that is kept stays in the lane. -/
theorem Kept.pair {s t : State} (h : Kept m s t) {e : LaneEntry} (he : e.line = m)
    (hs : e ∈ s.bus.orderLane) : e ∈ t.bus.orderLane := by
  rw [mem_laneOf he, h.lane, ← mem_laneOf he]
  exact hs

end Sys2Proof.Machine
end

