-- ==== Sys2Proof/Laws/Notices.lean ====
section
/-! SUPPORT. Record requests and notices: what they leave of the bus path and of the lines, what they put
into the report lane, and which notices stand after them. -/

namespace Sys2Proof.Machine

variable {n : LineId}

/-! ### The bus path but for the report lane -/

/-- The bus path with the report lane put aside. -/
def Bus.bare (b : Bus) : Bus := { b with reportLane := [] }

theorem Bus.bare_orderLane {b c : Bus} (h : b.bare = c.bare) : b.orderLane = c.orderLane :=
  (congrArg Bus.orderLane h : _)

theorem Bus.bare_fetch {b c : Bus} (h : b.bare = c.bare) : b.fetch = c.fetch := (congrArg Bus.fetch h : _)

theorem Bus.bare_snap {b c : Bus} (h : b.bare = c.bare) : b.snap = c.snap := (congrArg Bus.snap h : _)

theorem Bus.bare_dport {b c : Bus} (h : b.bare = c.bare) : b.dport = c.dport := (congrArg Bus.dport h : _)

theorem Bus.bare_waiting {b c : Bus} (h : b.bare = c.bare) : b.waiting = c.waiting :=
  (congrArg Bus.waiting h : _)

@[simp] theorem askRecord_bare (r : RecId) (s : State) : (askRecord r s).bus.bare = s.bus.bare := by
  unfold askRecord
  split <;> rfl

@[simp] theorem askLine_bare (n : LineId) (s : State) : (askLine n s).bus.bare = s.bus.bare :=
  askRecord_bare _ s

@[simp] theorem askBerth_bare (s : State) : (askBerth s).bus.bare = s.bus.bare := askRecord_bare _ s

@[simp] theorem setLineNotice_bare (n : LineId) (s : State) : (setLineNotice n s).bus.bare = s.bus.bare := by
  unfold setLineNotice
  split
  · rfl
  · rw [askBerth_bare, askLine_bare]
    rfl

@[simp] theorem setBerthNotice_bare (k : BerthNotice) (s : State) :
    (setBerthNotice k s).bus.bare = s.bus.bare := by
  unfold setBerthNotice
  split
  · rfl
  · rw [askBerth_bare]
    rfl

@[simp] theorem recordHost_bare (n : LineId) (h : LastHost) (s : State) :
    (recordHost n h s).bus.bare = s.bus.bare := askLine_bare n _

@[simp] theorem recordEnding_bare (n : LineId) (t : Tag) (k : OrderKind) (v : Verdict) (s : State) :
    (recordEnding n t k v s).bus.bare = s.bus.bare := recordHost_bare n _ s

@[simp] theorem refuse_bare (n : LineId) (o : Option (Tag × OrderKind)) (r : RefusalReason) (s : State) :
    (refuse n o r s).bus.bare = s.bus.bare := by
  unfold refuse
  rw [setLineNotice_bare, recordHost_bare]

/-! ### The report lane -/

/-- A pending record stays pending. -/
theorem askRecord_mem {q r : RecId} {s : State} (h : q ∈ s.bus.reportLane) :
    q ∈ (askRecord r s).bus.reportLane := by
  unfold askRecord
  split
  · exact h
  · exact List.mem_append_left _ h

/-- A record asked for is pending, outside STARTING, and in HALTED if it is the berth record (R155, R176). -/
theorem mem_askRecord {r : RecId} {s : State} (h : s.berth.phase ≠ .starting)
    (h' : s.berth.phase = .halted → r = 12) : r ∈ (askRecord r s).bus.reportLane := by
  unfold askRecord
  split
  · rename_i c
    rcases c with c | c | c
    · exact absurd c h
    · exact absurd (h' c.1) c.2
    · exact c
  · exact List.mem_append_right _ (List.mem_singleton.mpr rfl)

theorem Phase.not_starting {p : Phase} (h : p.silent = false) : p ≠ .starting := by
  rintro rfl
  cases h

theorem Phase.not_halted {p : Phase} (h : p.silent = false) : p ≠ .halted := by
  rintro rfl
  cases h

theorem mem_askLine {s : State} (h : s.berth.phase.silent = false) :
    n.castSucc ∈ (askLine n s).bus.reportLane :=
  mem_askRecord (Phase.not_starting h) fun c => absurd c (Phase.not_halted h)

theorem mem_askBerth {s : State} (h : s.berth.phase ≠ .starting) : 12 ∈ (askBerth s).bus.reportLane :=
  mem_askRecord h fun _ => rfl

theorem setLineNotice_mem {q : RecId} {s : State} (h : q ∈ s.bus.reportLane) :
    q ∈ (setLineNotice n s).bus.reportLane := by
  unfold setLineNotice
  split
  · exact h
  · exact askRecord_mem (askRecord_mem h)

theorem setBerthNotice_mem {q : RecId} {k : BerthNotice} {s : State} (h : q ∈ s.bus.reportLane) :
    q ∈ (setBerthNotice k s).bus.reportLane := by
  unfold setBerthNotice
  split
  · exact h
  · exact askRecord_mem h

/-! ### Lines -/

@[simp] theorem lines_askRecord (r : RecId) (s : State) : (askRecord r s).lines = s.lines := by
  unfold askRecord
  split <;> rfl

@[simp] theorem lines_askLine (n : LineId) (s : State) : (askLine n s).lines = s.lines := lines_askRecord _ s

@[simp] theorem lines_askBerth (s : State) : (askBerth s).lines = s.lines := lines_askRecord _ s

@[simp] theorem lines_setBerthNotice (k : BerthNotice) (s : State) : (setBerthNotice k s).lines = s.lines := by
  unfold setBerthNotice
  split
  · rfl
  · rw [lines_askBerth]
    rfl

/-- The lines after a line notice: the notice set, the rest as it was (R171). -/
theorem line_setLineNotice (n m : LineId) (s : State) : (setLineNotice n s).line m =
    if m = n then { s.line n with notice := true } else s.line m := by
  unfold setLineNotice
  split
  · rename_i h
    split
    · rename_i e
      subst e
      rw [← h]
    · rfl
  · simp only [line_askBerth, line_askLine, line_judgeAttn, line_modLine]

theorem line_recordHost (n m : LineId) (h : LastHost) (s : State) : (recordHost n h s).line m =
    if m = n then { s.line n with lastHost := h } else s.line m := by
  unfold recordHost
  rw [line_askLine, line_modLine]

/-- The lines after a refusal (R34). -/
theorem line_refuse (n m : LineId) (o : Option (Tag × OrderKind)) (r : RefusalReason) (s : State) :
    (refuse n o r s).line m =
      if m = n then { s.line n with lastHost := ⟨o, some (.refused r), none⟩, notice := true }
      else s.line m := by
  unfold refuse
  rw [line_setLineNotice]
  split
  · rw [line_recordHost, if_pos rfl]
  · rename_i h
    rw [line_recordHost, if_neg h]

/-! ### Berth notices -/

theorem notice_congr {s t : State} (h : t.report = s.report) (k : BerthNotice) : t.notice k = s.notice k := by
  unfold State.notice
  rw [h]

theorem notice_of_notices {s t : State} (h : t.report.notices = s.report.notices) (k : BerthNotice) :
    t.notice k = s.notice k := by
  unfold State.notice
  rw [h]

@[simp] theorem notice_askRecord (r : RecId) (s : State) (k : BerthNotice) :
    (askRecord r s).notice k = s.notice k := notice_congr (askRecord_report r s) k

@[simp] theorem notice_askLine (n : LineId) (s : State) (k : BerthNotice) :
    (askLine n s).notice k = s.notice k := notice_askRecord _ s k

@[simp] theorem notice_askBerth (s : State) (k : BerthNotice) : (askBerth s).notice k = s.notice k :=
  notice_askRecord _ s k

/-- A notice asked to be set is set (R172). -/
theorem notice_setBerthNotice (k : BerthNotice) (s : State) : (setBerthNotice k s).notice k = true := by
  unfold setBerthNotice
  split
  · assumption
  · rw [notice_askBerth]
    cases k <;> simp [State.notice, judgeAttn, BerthNotice.code]

/-- A notice that is set stays set (R172). -/
theorem notice_setBerthNotice_of {j : BerthNotice} (k : BerthNotice) {s : State} (h : s.notice j = true) :
    (setBerthNotice k s).notice j = true := by
  unfold setBerthNotice
  split
  · exact h
  · rw [notice_askBerth]
    unfold State.notice at h ⊢
    simp [judgeAttn, h]

theorem BerthNotice.code_lt (k : BerthNotice) : k.code < 8 := by cases k <;> decide

/-- The other berth notices stay as they are (R172). -/
theorem notice_setBerthNotice_other {j k : BerthNotice} (h : k ≠ j) (s : State) :
    (setBerthNotice j s).notice k = s.notice k := by
  unfold setBerthNotice
  split
  · rfl
  · rw [notice_askBerth]
    cases j <;> cases k <;> first
      | exact absurd rfl h
      | simp [State.notice, judgeAttn, BerthNotice.code]

/-- A notice that is set asks nothing (R172). -/
theorem setBerthNotice_of_set {k : BerthNotice} {s : State} (h : s.notice k = true) :
    setBerthNotice k s = s := if_pos h

@[simp] theorem notice_setLineNotice (n : LineId) (s : State) (k : BerthNotice) :
    (setLineNotice n s).notice k = s.notice k := by
  unfold setLineNotice
  split
  · rfl
  · rw [notice_askBerth, notice_askLine]
    rfl

end Sys2Proof.Machine
end

