-- ==== Sys2Proof/Laws/PartOrders.lean ====
section
/-! SUPPORT. Orders of the part's own, fault entry, and the hand-on of a change of state to a line whose hold
entry, if it has one, stays held. -/

namespace Sys2Proof.Machine

variable {n : LineId}

/-! ### Drum supervision at a change of state (R116 to R118) -/

/-- A line that keeps its state keeps its brake-settle timer and its creep count. -/
theorem TakenIn.of_kept {s : State} {l l' : Line} (hs : l'.state = l.state)
    (hb : l'.brakeSettle = l.brakeSettle) (hc : l'.creep = l.creep) : TakenIn s l l' where
  brake := by rw [if_pos hs]; exact hb
  creep := by rw [if_neg fun h => h.1 hs]; exact hc

/-- Entry to another state, of a line `k` with the brake feedback and the creep count of `l`. -/
theorem TakenIn.enter {s : State} {l k : Line} {st : LineState} (hst : st ≠ l.state)
    (hb : k.brakeSet = l.brakeSet) (hc : k.creep = l.creep) :
    TakenIn s l (Line.enter s.image s.ticksFor st k) where
  brake := by
    unfold Line.enter
    dsimp only
    rw [if_neg hst, hb]
    cases st.expectedBrake with
    | none => simp
    | some b => cases b <;> cases l.brakeSet <;> simp
  creep := by
    unfold Line.enter
    dsimp only
    rw [hc]
    cases st.countsCreep <;> simp [hst]

/-- The line may take other fields after the entry. -/
theorem TakenIn.congr {s : State} {l k l' : Line} (h : TakenIn s l k) (hs : l'.state = k.state)
    (hb : l'.brakeSettle = k.brakeSettle) (hc : l'.creep = k.creep) : TakenIn s l l' where
  brake := by rw [hs, hb]; exact h.brake
  creep := by rw [hs, hc]; exact h.creep

/-! ### The line and the pair after an order of the part's own -/

/-- The line after a part order other than an EASE (R7). -/
theorem partOrder_line {k : OrderKind} (hk : k ≠ .ease) (c : PartCause) (s : State) :
    (partOrder n k c s).line n = { s.line n with lastPart := some ⟨k, c⟩ } := by
  unfold partOrder
  dsimp only
  rw [if_neg hk, if_neg hk, line_askLine, line_modLine_self, line_placePair]

/-- The line after a render step: the run counter and the stall timer are loaded (R7, R112, R114). -/
theorem partOrder_line_ease (c : PartCause) (s : State) :
    (partOrder n .ease c s).line n = { s.line n with
      lastPart := some ⟨.ease, c⟩
      run := some ⟨renderStep s.image n, renderStep s.image n⟩
      stall := some (s.ticksFor (stallTime s.image)) } := by
  unfold partOrder
  dsimp only
  rw [if_pos rfl]
  unfold loadRun
  rw [line_modLine_self, line_askLine, line_modLine_self, line_placePair]
  simp [State.ticksFor]

theorem partOrder_bare (k : OrderKind) (c : PartCause) (s : State) :
    (partOrder n k c s).bus.bare =
      (placePair (makePair n k 0 (if k = .ease then renderStep s.image n else 0)) s).bus.bare := by
  unfold partOrder
  dsimp only
  split <;> simp

/-- The pair of a part order stands in the order lane (R7). -/
theorem pair_partOrder (k : OrderKind) (c : PartCause) (s : State) :
    makePair n k 0 (if k = .ease then renderStep s.image n else 0) ∈ (partOrder n k c s).bus.orderLane := by
  rw [Bus.bare_orderLane (partOrder_bare k c s)]
  exact mem_placeIn _ _

/-- The line after fault entry with its LOCK (R4). -/
theorem faultEntry_line (r : FaultReason) (c : PartCause) (s : State) :
    (faultEntry n r (some c) s).line n = { Line.enter s.image s.ticksFor (.faulted r) (s.line n) with
      notice := true
      lastPart := some ⟨.lock, c⟩ } := by
  unfold faultEntry
  dsimp only
  rw [partOrder_line (by simp), line_setLineNotice, if_pos rfl]
  unfold enterState
  rw [line_modLine_self]

/-- The line after fault entry without a LOCK (R4). -/
theorem faultEntry_line_none (r : FaultReason) (s : State) : (faultEntry n r none s).line n =
    { Line.enter s.image s.ticksFor (.faulted r) (s.line n) with notice := true } := by
  unfold faultEntry
  dsimp only
  rw [line_setLineNotice, if_pos rfl]
  unfold enterState
  rw [line_modLine_self]

theorem pair_faultEntry (r : FaultReason) (c : PartCause) (s : State) :
    makePair n .lock 0 0 ∈ (faultEntry n r (some c) s).bus.orderLane := by
  unfold faultEntry
  exact pair_partOrder .lock c _

/-! ### A line whose entry stays held -/

/-- `t` has line `n`, but for its probe request, and its pairs as `s` has them. -/
structure Held (n : LineId) (s t : State) : Prop where
  line : t.line n = { s.line n with probeWaiting := (t.line n).probeWaiting }
  lane : laneOf n t.bus.orderLane = laneOf n s.bus.orderLane

theorem Held.of_line {s t : State} (h : t.line n = s.line n)
    (hl : laneOf n t.bus.orderLane = laneOf n s.bus.orderLane) : Held n s t := ⟨by rw [h], hl⟩

theorem Held.refl (n : LineId) (s : State) : Held n s s := ⟨rfl, rfl⟩

theorem Held.trans {s t u : State} (h : Held n s t) (k : Held n t u) : Held n s u :=
  ⟨k.1.trans (by rw [h.1]), k.2.trans h.2⟩

theorem Kept.held {s t : State} (h : Kept n s t) : Held n s t := .of_line h.line h.lane

theorem Held.pair {s t : State} (h : Held n s t) {e : LaneEntry} (he : e.line = n)
    (hs : e ∈ s.bus.orderLane) : e ∈ t.bus.orderLane := by
  rw [mem_laneOf he, h.lane, ← mem_laneOf he]
  exact hs

/-- A state in which no entry of the line is forwarded or probed (R62). -/
def LineState.holdsBack : LineState → Bool
  | .locked | .tending | .standing | .slack => false
  | .adopting | .parked | .paying _ | .hauling _ | .rendering _ _ | .slipping | .rewinding
  | .faulted _ => true

theorem lineReady_of_holdsBack {s : State} (h : (s.line n).state.holdsBack = true) :
    lineReady s n = false := by
  unfold lineReady
  revert h
  generalize (s.line n).state = st
  intro h
  cases st <;> first | rfl | cases h

theorem gatesOpen_of_holdsBack {s : State} (h : (s.line n).state.holdsBack = true) :
    gatesOpen s n = false := by
  unfold gatesOpen
  rw [lineReady_of_holdsBack h]
  rfl

/-- An entry whose line holds it back goes to WAITING (R67). -/
theorem judged_of_holdsBack {e : Entry} (he : e.line = n) {s : State}
    (h : (s.line n).state.holdsBack = true) : judged s e =
      { e with closed := slipGates s e.line, stage := .waiting, failed := false, probeBegun := false } := by
  unfold judged
  rw [if_neg]
  rw [he, gatesOpen_of_holdsBack h]
  simp

/-- The judgement of an entry whose line holds it back leaves the line (R67). -/
theorem Held.judgeSlip {e : Entry} (he : e.line = n) {s : State}
    (h : (s.line n).state.holdsBack = true) : Held n s (judgeSlip e s) := by
  unfold Machine.judgeSlip
  rw [judged_of_holdsBack he h]
  dsimp only
  have hc : ¬ (e.stage = .waiting ∧ HoldStage.waiting = .probing) := fun c => by cases c.2
  rw [if_neg hc]
  split
  · exact .of_line (line_putEntry _ _ _) (by rw [putEntry_bus])
  · exact .of_line (by rw [line_askLine, line_putEntry]) (by rw [Bus.bare_orderLane (askLine_bare _ _), putEntry_bus])

theorem Held.judgeEntry {s : State} (h : (s.line n).state.holdsBack = true) (m : LineId) :
    Held n s (judgeEntry m s) := by
  by_cases hm : n = m
  · subst hm
    unfold Machine.judgeEntry
    split
    · exact .refl n s
    · rename_i e he
      split
      · rw [if_neg]
        · exact .refl n s
        · intro c
          rw [c] at h
          cases h
      · exact .judgeSlip (entry_line he) h
  · exact (Kept.judgeEntry hm s).held

/-- A probe request moves the probe set alone (R96 to R98). -/
theorem Held.requestProbe (m : LineId) (s : State) : Held n s (requestProbe m s) := by
  by_cases hm : n = m
  · subst hm
    unfold Machine.requestProbe
    split
    · exact ⟨by rw [line_beginProbe], rfl⟩
    · exact ⟨by rw [line_beginProbe], rfl⟩
    · exact ⟨by rw [line_joinProbe], rfl⟩
  · exact (Kept.requestProbe hm s).held

/-- The re-evaluation leaves a line that holds its entry back. -/
theorem Held.reevaluate {s : State} (h : (s.line n).state.holdsBack = true) : Held n s (reevaluate s) :=
  reevaluate_keeps (P := fun t => Held n s t)
    (fun m t ht => ht.trans (.judgeEntry (by rw [ht.line]; exact h) m))
    (fun m t ht => ht.trans (.requestProbe m t)) (.refl n s)

/-- The hand-on leaves a line that holds its entry back. -/
theorem Held.settle {s : State} (h : (s.line n).state.holdsBack = true) (m : LineId) :
    Held n s (settle m s) :=
  ((Held.reevaluate h).trans (Kept.askLine m _).held).trans (Kept.autoVacant _).held

/-- A fitted line that is not PARKED keeps the automatic change away (R127). -/
theorem autoVacant_of_line {s : State} (hf : (s.line n).fitted = true) (hp : (s.line n).state ≠ .parked) :
    autoVacant s = s := by
  unfold autoVacant
  rw [if_neg]
  rintro ⟨_, h⟩
  have := List.all_eq_true.mp h n (mem_allLines n)
  simp [hf, hp] at this

/-- The hand-on leaves the berth where a fitted line that holds its entry back is not PARKED. -/
theorem settle_berth_of_held {s : State} (h : (s.line n).state.holdsBack = true)
    (hf : (s.line n).fitted = true) (hp : (s.line n).state ≠ .parked) (m : LineId) :
    (settle m s).berth = s.berth := by
  have k := (Held.reevaluate h).trans (Kept.askLine m (reevaluate s)).held
  unfold settle
  rw [autoVacant_of_line (n := n) (by rw [k.line]; exact hf) (by rw [k.line]; exact hp)]
  simp

/-- The hand-on leaves the berth where a fitted line without an entry is not PARKED. -/
theorem settle_berth_of_line {s : State} (he : s.entry n = none) (hf : (s.line n).fitted = true)
    (hp : (s.line n).state ≠ .parked) (m : LineId) : (settle m s).berth = s.berth := by
  have k := (Kept.reevaluate he).trans (.askLine m (reevaluate s))
  unfold settle
  rw [autoVacant_of_line (n := n) (by rw [k.line]; exact hf) (by rw [k.line]; exact hp)]
  simp

/-! ### Fault entry, handed on -/

/-- Fault entry with its LOCK of a fitted line, said once (R4, R5, R7). -/
theorem faultedBy_faultLine {r : FaultReason} {c : PartCause} {s : State}
    (hf : (s.line n).fitted = true) : FaultedBy s (faultLine n r (some c) s) n r c := by
  have hl := faultEntry_line (n := n) r c s
  have hb : ((faultEntry n r (some c) s).line n).state.holdsBack = true := by rw [hl]; rfl
  have h := Held.settle hb n
  have h' : Held n (faultEntry n r (some c) s) (faultLine n r (some c) s) := by
    unfold faultLine
    exact h
  obtain ⟨p, e⟩ : ∃ p, (faultLine n r (some c) s).line n =
      { Line.enter s.image s.ticksFor (.faulted r) (s.line n) with
        notice := true, lastPart := some ⟨.lock, c⟩, probeWaiting := p } := by
    have k := h'.line
    rw [hl] at k
    exact ⟨_, k⟩
  have hlast : (faultLine n r (some c) s).profile = s.profile ∧
      (faultLine n r (some c) s).supply = s.supply := by
    unfold faultLine
    exact ⟨by simp, by simp⟩
  refine ⟨by rw [e]; rfl, by rw [e], by rw [e], h'.pair rfl (pair_faultEntry r c s),
    by rw [e]; exact ⟨⟨rfl, rfl, rfl, rfl⟩, rfl⟩, by rw [e]; exact ⟨rfl, rfl⟩, ?_, fun m hm he => ?_, ?_,
    by simp [faultLine]⟩
  · rw [e]
    exact ⟨⟨rfl, rfl, rfl⟩, ⟨rfl, rfl, rfl, rfl, rfl⟩, ⟨rfl, rfl⟩, ⟨rfl, rfl, rfl⟩, rfl⟩
  · have k := Kept.faultEntry hm r (some c) s
    exact ((k.trans (.settle (k.entry.trans he) n))).line
  · refine ⟨?_, hlast⟩
    unfold faultLine
    rw [settle_berth_of_held hb (by rw [hl]; exact hf) (by rw [hl]; simp [Line.enter])]
    simp

end Sys2Proof.Machine
end

