-- ==== Sys2Proof/Laws/Entering.lean ====
section
/-! SUPPORT. Changes of the berth phase and lockdown entry, said once: the fields after a change of phase, the
lines after the flush, and all that lockdown entry leaves. -/

namespace Sys2Proof.Machine

variable {n : LineId}

/-! ### Changes of phase (R122, R128) -/

/-- The berth block after a change of phase without actions. -/
theorem changePhase_berth (p : Phase) (s : State) : (changePhase p id s).berth = { s.berth with
    phase := p
    silence := if p.runsSilence then
        (if s.berth.phase.runsSilence then s.berth.silence else some (s.ticksFor (hostSilenceTime s.image)))
      else none } := by
  unfold changePhase
  rw [askBerth_berth]
  rfl

/-- A change of phase without actions leaves everything but the berth block. -/
theorem changePhase_fields (p : Phase) (s : State) :
    (changePhase p id s).lines = s.lines ∧ (changePhase p id s).queue = s.queue ∧
    (changePhase p id s).bus.bare = s.bus.bare ∧ (changePhase p id s).scan = s.scan ∧
    (changePhase p id s).profile = s.profile ∧ (changePhase p id s).supply = s.supply ∧
    (changePhase p id s).report = s.report := by
  unfold changePhase
  refine ⟨by rw [lines_askBerth]; rfl, by simp, by rw [askBerth_bare]; rfl, by simp, by simp, by simp, by simp⟩

/-- A change of phase asks for the berth record. -/
theorem changePhase_mem {p : Phase} (h : p ≠ .starting) (f : State → State) {s : State}
    (hf : ∀ t, (f t).berth.phase = t.berth.phase) : 12 ∈ (changePhase p f s).bus.reportLane := by
  unfold changePhase
  apply mem_askBerth
  show (f _).berth.phase ≠ _
  rw [hf]
  exact h

/-! ### An operation on each line that touches its own line alone -/

/-- The lines after a run of operations each of which touches its own line, under an invariant. -/
theorem line_foldl_own {I : State → Prop} {f : LineId → State → State} {g : LineId → Line → Line}
    (h : ∀ n t, I t → I (f n t) ∧ (f n t).line n = g n (t.line n) ∧ ∀ m, m ≠ n → (f n t).line m = t.line m)
    (l : List LineId) (hl : l.Nodup) {s : State} (hs : I s) (m : LineId) :
    (l.foldl (fun t n => f n t) s).line m = if m ∈ l then g m (s.line m) else s.line m := by
  induction l generalizing s with
  | nil => simp
  | cons n l ih =>
    obtain ⟨hn, hl⟩ := List.nodup_cons.mp hl
    obtain ⟨h1, h2, h3⟩ := h n s hs
    rw [List.foldl_cons, ih hl h1]
    by_cases e : m = n
    · subst e
      simp [hn, h2]
    · simp [e, h3 m e]

theorem line_eachLine_own {I : State → Prop} {f : LineId → State → State} {g : LineId → Line → Line}
    (h : ∀ n t, I t → I (f n t) ∧ (f n t).line n = g n (t.line n) ∧ ∀ m, m ≠ n → (f n t).line m = t.line m)
    {s : State} (hs : I s) (m : LineId) : (eachLine f s).line m = g m (s.line m) := by
  unfold eachLine
  rw [line_foldl_own h allLines (by decide) hs m, if_pos (mem_allLines m)]

/-- A pair that the operation on line `n` places, and that the operations on the others leave, stands in the
lane after the run. -/
theorem pair_eachLine {I : State → Prop} {P : Line → Prop} {f : LineId → State → State} {e : LaneEntry}
    {s : State} (hs : I s) (hP : P (s.line n)) (hi : ∀ m t, I t → I (f m t))
    (hplace : ∀ t, I t → P (t.line n) → e ∈ (f n t).bus.orderLane)
    (hother : ∀ m t, I t → n ≠ m → (f m t).line n = t.line n ∧
      (e ∈ t.bus.orderLane → e ∈ (f m t).bus.orderLane)) : e ∈ (eachLine f s).bus.orderLane := by
  have stays : ∀ (l : List LineId) (t : State), I t → n ∉ l → e ∈ t.bus.orderLane →
      e ∈ (l.foldl (fun t m => f m t) t).bus.orderLane := by
    intro l
    induction l with
    | nil => exact fun _ _ _ h => h
    | cons m l ih =>
      intro t ht hm he
      rw [List.mem_cons, not_or] at hm
      exact ih _ (hi m t ht) hm.2 ((hother m t ht hm.1).2 he)
  have placed : ∀ (l : List LineId) (t : State), I t → l.Nodup → n ∈ l → P (t.line n) →
      e ∈ (l.foldl (fun t m => f m t) t).bus.orderLane := by
    intro l
    induction l with
    | nil => intro t _ _ h; cases h
    | cons m l ih =>
      intro t ht hnd hm hp
      obtain ⟨hn, hnd⟩ := List.nodup_cons.mp hnd
      by_cases c : n = m
      · subst c
        exact stays l _ (hi _ t ht) hn (hplace t ht hp)
      · refine ih _ (hi m t ht) hnd ((List.mem_cons.mp hm).resolve_left c) ?_
        rw [(hother m t ht c).1]
        exact hp
  exact placed allLines s hs (by decide) (mem_allLines _) hP

/-! ### The flush (R78) -/

/-- A line whose entry is flushed. -/
def Line.flushed (o : Option Entry) (l : Line) : Line :=
  match o with
  | none => l
  | some e => { l with
      lastHost := ⟨some (e.tag, e.kind.order), some .flushed, l.lastHost.superseded⟩
      notice := true }

theorem line_endEntry (v : Verdict) (e : Entry) (s : State) (m : LineId) : (endEntry v e s).line m =
    if m = e.line then { s.line m with
      lastHost := ⟨some (e.tag, e.kind.order), some v, (s.line m).lastHost.superseded⟩
      notice := true } else s.line m := by
  unfold endEntry recordEnding
  rw [line_setLineNotice]
  split
  · rename_i h
    subst h
    rw [line_recordHost, if_pos rfl]
    rfl
  · rename_i h
    rw [line_recordHost, if_neg h]
    rfl

theorem line_foldl_endEntry (q : List Entry) (hq : (q.map (·.line)).Nodup) (s : State) (m : LineId) :
    (q.foldl (fun t e => endEntry .flushed e t) s).line m =
      (s.line m).flushed (q.find? fun e => e.line == m) := by
  induction q generalizing s with
  | nil => rfl
  | cons e q ih =>
    obtain ⟨h1, h2⟩ := List.nodup_cons.mp hq
    rw [List.foldl_cons, ih h2, line_endEntry]
    by_cases c : m = e.line
    · subst c
      have : q.find? (fun x => x.line == e.line) = none := by
        rw [List.find?_eq_none]
        intro x hx
        simp only [beq_iff_eq]
        exact fun hl => h1 (List.mem_map.mpr ⟨x, hx, hl⟩)
      rw [this, List.find?_cons_of_pos (by simp), if_pos rfl]
      rfl
    · rw [if_neg c, List.find?_cons_of_neg (by simpa using Ne.symm c)]

/-- The lines after the flush: every entry's line has its verdict and its notice (R78). -/
theorem line_flush {s : State} (h : (s.queue.map (·.line)).Nodup) (m : LineId) :
    (flush s).line m = (s.line m).flushed (s.entry m) := by
  unfold flush
  split
  · rename_i h
    unfold State.entry
    rw [h]
    rfl
  · rw [line_askBerth]
    exact line_foldl_endEntry s.queue h s m

theorem endEntry_bare (v : Verdict) (e : Entry) (s : State) : (endEntry v e s).bus.bare = s.bus.bare := by
  unfold endEntry
  rw [setLineNotice_bare, recordEnding_bare, dropEntry_bus]

/-- The flush leaves the bus path but for the report lane. -/
theorem flush_bare (s : State) : (flush s).bus.bare = s.bus.bare :=
  flush_keeps (P := fun t => t.bus.bare = s.bus.bare) (fun e t h => (endEntry_bare _ e t).trans h)
    (fun t h => (askBerth_bare t).trans h) rfl

/-! ### Lockdown entry (R132) -/

/-- The state of a part in LOCKDOWN with an empty queue, on the way through lockdown entry from `s`. -/
structure Locking (s t : State) : Prop where
  phase : t.berth.phase = .lockdown
  queue : t.queue = []
  image : t.image = s.image
  ticks : t.ticksFor = s.ticksFor

/-- The line that lockdown entry leaves, before its latch is emptied. -/
def Line.lockedDown (img : List Word) (f : Nat → Nat) (c : LockdownCause) (l : Line) : Line :=
  if l.fitted ∧ l.state.inMotion then
    { Line.enter img f (lockState l.state l.cls) l with lastPart := some ⟨.lock, .lockdown c⟩ }
  else l

/-- A line in motion does not keep its state in a lockdown LOCK (R48, R132). -/
theorem lockState_ne {st : LineState} (h : st.inMotion = true) (c : Classification) :
    lockState st c ≠ st := by
  cases st <;> simp only [LineState.inMotion, Bool.false_eq_true] at h <;> cases c <;>
    simp [lockState, restState]

/-- What drum supervision does in a lockdown LOCK. -/
theorem TakenIn.lockedDown {s : State} {l k : Line} (c : LockdownCause) (hs : k.state = l.state)
    (hk : k.brakeSettle = l.brakeSettle ∧ k.creep = l.creep ∧ k.brakeSet = l.brakeSet) :
    TakenIn s l (k.lockedDown s.image s.ticksFor c) := by
  unfold Line.lockedDown
  split
  · rename_i h
    exact (TakenIn.enter (hs ▸ lockState_ne h.2 k.cls) hk.2.2 hk.2.1).congr rfl rfl rfl
  · exact .of_kept hs hk.1 hk.2.1

theorem settle_locking {t : State} (hq : t.queue = []) (hp : t.berth.phase = .lockdown) (n : LineId) :
    settle n t = askLine n t := by
  unfold settle
  rw [reevaluate_of_empty hq]
  unfold autoVacant
  rw [if_neg]
  rintro ⟨h, _⟩
  rw [askLine_berth, hp] at h
  cases h

/-- A lockdown LOCK without a hold queue and outside DEPARTURE. -/
theorem lockdownLock_eq {c : LockdownCause} {t : State} (hq : t.queue = []) (hp : t.berth.phase = .lockdown)
    (n : LineId) : lockdownLock c n t =
      if (t.line n).fitted ∧ (t.line n).state.inMotion then
        askLine n (partOrder n .lock (.lockdown c)
          (enterState n (lockState (t.line n).state (t.line n).cls) t))
      else t := by
  unfold lockdownLock transition
  dsimp only
  rw [settle_locking (by simp [hq]) (by simp [hp])]

theorem lockdownLock_own {s : State} {c : LockdownCause} (n : LineId) (t : State) (h : Locking s t) :
    Locking s (lockdownLock c n t) ∧
      (lockdownLock c n t).line n = (t.line n).lockedDown s.image s.ticksFor c ∧
      ∀ m, m ≠ n → Kept m t (lockdownLock c n t) := by
  rw [lockdownLock_eq h.queue h.phase]
  unfold Line.lockedDown
  split
  · refine ⟨⟨by simp [h.phase], by simp [h.queue], by simp [h.image], ?_⟩, ?_, fun m hm => ?_⟩
    · rw [← h.ticks]
      funext ms
      simp [State.ticksFor]
    · rw [line_askLine, partOrder_line (by simp)]
      unfold enterState
      rw [line_modLine_self, h.image, h.ticks]
    · exact ((Kept.enterState hm _ t).trans (.partOrder hm _ _ _)).trans (.askLine n _)
  · exact ⟨h, rfl, fun m _ => .refl m t⟩

/-- The lines after the lockdown LOCKs. -/
theorem line_lockdownLocks {s t : State} (c : LockdownCause) (h : Locking s t) (m : LineId) :
    (eachLine (lockdownLock c) t).line m = (t.line m).lockedDown s.image s.ticksFor c :=
  line_eachLine_own (I := Locking s) (g := fun _ => Line.lockedDown s.image s.ticksFor c)
    (fun n t ht => ⟨(lockdownLock_own n t ht).1, (lockdownLock_own n t ht).2.1,
      fun m hm => ((lockdownLock_own n t ht).2.2 m hm).line⟩) h m

theorem locking_lockdownLocks {s t : State} (c : LockdownCause) (h : Locking s t) :
    Locking s (eachLine (lockdownLock c) t) :=
  eachLine_keeps (P := Locking s) (fun n t ht => (lockdownLock_own n t ht).1) h

/-- The LOCK of a fitted line in motion stands in the lane. -/
theorem pair_lockdownLocks {s t : State} (c : LockdownCause) (h : Locking s t)
    (hm : (t.line n).fitted = true ∧ (t.line n).state.inMotion = true) :
    makePair n .lock 0 0 ∈ (eachLine (lockdownLock c) t).bus.orderLane := by
  refine pair_eachLine (n := n) (I := Locking s)
    (P := fun l => l.fitted = true ∧ l.state.inMotion = true) h hm
    (fun m t ht => (lockdownLock_own m t ht).1) (fun t ht hp => ?_)
    fun m t ht hne => ⟨((lockdownLock_own m t ht).2.2 n hne).line,
      ((lockdownLock_own m t ht).2.2 n hne).pair rfl⟩
  rw [lockdownLock_eq ht.queue ht.phase, if_pos hp, Bus.bare_orderLane (askLine_bare _ _)]
  exact pair_partOrder .lock (.lockdown c) _

/-- A pair of a line that is not in motion stays in the lane through the lockdown LOCKs. -/
theorem mem_lockdownLocks {s t : State} {e : LaneEntry} (c : LockdownCause) (h : Locking s t)
    (hm : ¬ ((t.line e.line).fitted = true ∧ (t.line e.line).state.inMotion = true))
    (he : e ∈ t.bus.orderLane) : e ∈ (eachLine (lockdownLock c) t).bus.orderLane := by
  refine (eachLine_keeps (P := fun u => Locking s u ∧ u.line e.line = t.line e.line ∧
    e ∈ u.bus.orderLane) (fun n u hu => ?_) ⟨h, rfl, he⟩).2.2
  obtain ⟨h1, _, h3⟩ := lockdownLock_own (c := c) n u hu.1
  by_cases hn : e.line = n
  · have : lockdownLock c n u = u := by
      rw [lockdownLock_eq hu.1.queue hu.1.phase, if_neg]
      rw [← hn, hu.2.1]
      exact hm
    rw [this]
    exact hu
  · exact ⟨h1, (h3 _ hn).line.trans hu.2.1, (h3 _ hn).pair rfl hu.2.2⟩

/-- A pair that stays carries tag 0 or kind LOCK (R154). -/
theorem stays_iff (e : LaneEntry) : e.stays = true ↔ tagField e.order = 0 ∨ codeField e.order = 1 := by
  unfold LaneEntry.stays
  rw [Bool.or_eq_true, beq_iff_eq, beq_iff_eq]
  rfl

/-- A LOCK of the part's own stays in the lane (R154). -/
theorem lockPair_stays (n : LineId) : (makePair n .lock 0 0).stays = true := by
  show (tagField (composeOrder .lock 0) == 0 || codeField (composeOrder .lock 0) == OrderKind.lock.code) = true
  decide

/-- All that lockdown entry leaves (R122, R132); the cause has been added before. -/
theorem enteredLockdown_enterLockdown {c : LockdownCause} {s z : State} (hz : z.lines = s.lines)
    (hq : z.queue = s.queue) (hn : (s.queue.map (·.line)).Nodup) (hp : z.profile = s.profile)
    (hc : z.berth.causes = s.berth.causes ||| c.bit) (ho : z.bus.orderLane = s.bus.orderLane)
    (ht : z.atTick = s.atTick) : EnteredLockdown c s (enterLockdown c z) := by
  have hl : ∀ m, z.line m = s.line m := fun m => by unfold State.line; rw [hz]
  have he : ∀ m, z.entry m = s.entry m := entry_congr hq
  -- the flush
  generalize hx : flush { z with berth := { z.berth with phase := .lockdown } } = x
  have xl : ∀ m, x.line m = (s.line m).flushed (s.entry m) := fun m => by
    rw [← hx, line_flush (by rw [show State.queue _ = z.queue from rfl, hq]; exact hn), ← hl, ← he]
    rfl
  have xb : x.berth = { z.berth with phase := .lockdown } := by rw [← hx, flush_berth]
  have xq : x.queue = [] := by rw [← hx]; exact flush_queue_empty _
  have xp : x.profile = s.profile := by rw [← hx, flush_profile, ← hp]
  have xi : x.image = s.image := congrArg Profile.active xp
  have xt : x.ticksFor = s.ticksFor := by
    funext ms
    unfold State.ticksFor
    rw [← hx, flush_atTick, ← ht]
  have xo : x.bus.orderLane = s.bus.orderLane := by
    rw [← hx, Bus.bare_orderLane (flush_bare _), ← ho]
  have start : Locking x x := ⟨by rw [xb], xq, rfl, rfl⟩
  -- the LOCKs
  have yl := line_lockdownLocks c start
  have yk := locking_lockdownLocks c start
  have yp := fun n => pair_lockdownLocks (n := n) c start
  have ym := fun e => mem_lockdownLocks (e := e) c start
  have yb : (eachLine (lockdownLock c) x).berth = x.berth := by
    refine (eachLine_keeps (P := fun t => Locking x t ∧ t.berth = x.berth) (fun n t ht => ?_)
      ⟨start, rfl⟩).2
    refine ⟨(lockdownLock_own n t ht.1).1, ?_⟩
    rw [lockdownLock_eq ht.1.queue ht.1.phase]
    split
    · simp [ht.2]
    · exact ht.2
  have yf : (eachLine (lockdownLock c) x).profile = x.profile := by
    refine (eachLine_keeps (P := fun t => Locking x t ∧ t.profile = x.profile) (fun n t ht => ?_)
      ⟨start, rfl⟩).2
    refine ⟨(lockdownLock_own n t ht.1).1, ?_⟩
    rw [lockdownLock_eq ht.1.queue ht.1.phase]
    split
    · simp [ht.2]
    · exact ht.2
  have main : enterLockdown c z = askBerth (silenceAt z.berth.phase (setBerthNotice .lockdownEntered
      (emptyLatches (withdrawPairs (eachLine (lockdownLock c) x))))) := by
    unfold enterLockdown changePhase entryActions
    rw [hx]
  generalize eachLine (lockdownLock c) x = y at *
  -- the latches and the rest
  have wl : ∀ m, (emptyLatches (withdrawPairs y)).line m = { y.line m with latch := none } := fun m =>
    (line_eachLine_modLine (fun _ l => { l with latch := none }) m (withdrawPairs y)).trans
      (by rw [line_withdrawPairs])
  have wb : (emptyLatches (withdrawPairs y)).berth = y.berth :=
    (eachLine_modLine_berth (fun _ l => { l with latch := none }) (withdrawPairs y)).trans (by simp)
  have wq : (emptyLatches (withdrawPairs y)).queue = y.queue :=
    (eachLine_modLine_queue (fun _ l => { l with latch := none }) (withdrawPairs y)).trans (by simp)
  have wf : (emptyLatches (withdrawPairs y)).profile = y.profile :=
    (eachLine_modLine_profile (fun _ l => { l with latch := none }) (withdrawPairs y)).trans (by simp)
  have wo : (emptyLatches (withdrawPairs y)).bus.orderLane = y.bus.orderLane.filter LaneEntry.stays :=
    congrArg Bus.orderLane
      (eachLine_modLine_bus (fun _ l => { l with latch := none }) (withdrawPairs y))
  generalize emptyLatches (withdrawPairs y) = w at *
  have ul : ∀ m, (enterLockdown c z).line m = w.line m := fun m => by rw [main]; simp
  have ub : (enterLockdown c z).berth = { w.berth with silence := none } := by
    rw [main, askBerth_berth]
    unfold silenceAt
    rw [setBerthNotice_berth, wb, yb, xb]
    rfl
  have uo : (enterLockdown c z).bus.orderLane = w.bus.orderLane := by
    rw [main, Bus.bare_orderLane (askBerth_bare _), silenceAt_bus,
      Bus.bare_orderLane (setBerthNotice_bare _ _)]
  have line : ∀ m, (enterLockdown c z).line m =
      { (((s.line m).flushed (s.entry m)).lockedDown x.image x.ticksFor c) with latch := none } :=
    fun m => by rw [ul, wl, yl, xl]
  have flushed : ∀ m, ((s.line m).flushed (s.entry m)).fitted = (s.line m).fitted ∧
      ((s.line m).flushed (s.entry m)).state = (s.line m).state ∧
      ((s.line m).flushed (s.entry m)).cls = (s.line m).cls ∧
      ((s.line m).flushed (s.entry m)).lastPart = (s.line m).lastPart ∧
      ((s.line m).flushed (s.entry m)).payout = (s.line m).payout ∧
      ((s.line m).flushed (s.entry m)).lengthUnknown = (s.line m).lengthUnknown ∧
      ((s.line m).flushed (s.entry m)).brakeSettle = (s.line m).brakeSettle ∧
      ((s.line m).flushed (s.entry m)).creep = (s.line m).creep ∧
      ((s.line m).flushed (s.entry m)).brakeSet = (s.line m).brakeSet := fun m => by
    unfold Line.flushed
    split <;> exact ⟨rfl, rfl, rfl, rfl, rfl, rfl, rfl, rfl, rfl⟩
  have locked : ∀ l : Line, (l.lockedDown x.image x.ticksFor c).lastHost = l.lastHost ∧
      (l.lockedDown x.image x.ticksFor c).notice = l.notice ∧
      (l.lockedDown x.image x.ticksFor c).payout = l.payout ∧
      (l.lockedDown x.image x.ticksFor c).lengthUnknown = l.lengthUnknown := fun l => by
    unfold Line.lockedDown
    split <;> exact ⟨rfl, rfl, rfl, rfl⟩
  refine ⟨by rw [ub, wb, yb, xb], by rw [ub, wb, yb, xb]; exact hc, by rw [ub], ?_, fun m e hm => ?_,
    fun m hf hm => ?_, fun m => ?_, fun m hm => ?_, fun m => by rw [line], fun e h => ?_,
    fun e h hst hm => ?_, ?_, ?_, fun m => ?_, ?_⟩
  · rw [main, askBerth_queue, silenceAt_queue, setBerthNotice_queue, wq]
    exact yk.queue
  · rw [line]
    refine ⟨(locked _).1.trans ?_, (locked _).2.1.trans ?_⟩ <;> rw [hm] <;> rfl
  · obtain ⟨f1, f2, f3, _⟩ := flushed m
    have hin : ((s.line m).flushed (s.entry m)).fitted = true ∧
        ((s.line m).flushed (s.entry m)).state.inMotion = true := by rw [f1, f2]; exact ⟨hf, hm⟩
    rw [line]
    unfold Line.lockedDown
    rw [if_pos hin, f2, f3]
    refine ⟨rfl, rfl, ?_⟩
    rw [uo, wo]
    exact List.mem_filter.mpr ⟨yp m (by rw [xl]; exact hin), lockPair_stays m⟩
  · obtain ⟨_, f2, _, _, _, _, f7⟩ := flushed m
    rw [line, xi, xt]
    exact (TakenIn.lockedDown c f2 f7).congr rfl rfl rfl
  · obtain ⟨f1, f2, f3, f4, _⟩ := flushed m
    rw [line]
    unfold Line.lockedDown
    rw [if_neg (by rw [f1, f2]; exact hm)]
    exact ⟨f2, f4⟩
  · rw [uo, wo] at h
    exact (stays_iff e).mp (List.mem_filter.mp h).2
  · rw [uo, wo]
    obtain ⟨f1, f2, _⟩ := flushed e.line
    refine List.mem_filter.mpr ⟨ym e ?_ (by rw [xo]; exact h), (stays_iff e).mpr hst⟩
    rw [xl, f1, f2]
    exact hm
  · rw [main, notice_askBerth]
    show (setBerthNotice _ _).notice _ = true
    exact notice_setBerthNotice _ _
  · have up : (enterLockdown c z).berth.phase = .lockdown := by rw [ub, wb, yb, xb]
    rw [main, askBerth_berth] at up
    rw [main]
    exact mem_askBerth (by rw [up]; decide)
  · rw [line]
    obtain ⟨_, _, _, _, f5, f6, _⟩ := flushed m
    exact ⟨(locked _).2.2.1.trans f5, (locked _).2.2.2.trans f6⟩
  · rw [main, askBerth_profile, silenceAt_profile, setBerthNotice_profile, wf, yf, xp]

/-- Lockdown entry leaves the still-present set and the supply block. -/
theorem enterLockdown_rest (c : LockdownCause) (s : State) :
    (enterLockdown c s).berth.present = s.berth.present ∧ (enterLockdown c s).supply = s.supply := by
  have h : ∀ t : State, (entryActions c t).berth.present = t.berth.present ∧
      (entryActions c t).supply = t.supply := fun t => by
    have h1 : (eachLine (lockdownLock c) (flush t)).berth.present = t.berth.present ∧
        (eachLine (lockdownLock c) (flush t)).supply = t.supply := by
      refine eachLine_keeps (P := fun u => u.berth.present = t.berth.present ∧ u.supply = t.supply)
        (fun n u hu => ?_) ⟨by simp, by simp⟩
      unfold lockdownLock transition
      dsimp only
      split
      · refine ⟨?_, by simp [hu.2]⟩
        unfold settle autoVacant
        split
        · rw [changePhase_berth]
          simp [hu.1]
        · simp [hu.1]
      · exact hu
    unfold entryActions
    rw [setBerthNotice_berth, setBerthNotice_supply]
    generalize eachLine (lockdownLock c) (flush t) = u at *
    exact ⟨(congrArg Berth.present (eachLine_modLine_berth
        (fun _ l => { l with latch := none }) (withdrawPairs u))).trans (by simp [h1.1]),
      (eachLine_modLine_supply (fun _ l => { l with latch := none }) (withdrawPairs u)).trans
        (by simp [h1.2])⟩
  unfold enterLockdown changePhase
  rw [askBerth_berth, askBerth_supply, silenceAt_supply]
  exact ⟨(h _).1, (h _).2⟩

theorem notice_modLine (m : LineId) (f : Line → Line) (s : State) (k : BerthNotice) :
    (modLine m f s).notice k = s.notice k := rfl

theorem notice_endEntry (v : Verdict) (e : Entry) (s : State) (k : BerthNotice) :
    (endEntry v e s).notice k = s.notice k := by
  unfold endEntry recordEnding recordHost
  rw [notice_setLineNotice, notice_askLine]
  rfl

theorem notice_partOrder (m : LineId) (o : OrderKind) (c : PartCause) (s : State) (k : BerthNotice) :
    (partOrder m o c s).notice k = s.notice k := notice_congr (partOrder_report m o c s) k

/-- A berth notice that is set stays set through lockdown entry (R172). -/
theorem notice_enterLockdown {k : BerthNotice} {s : State} (c : LockdownCause) (h : s.notice k = true) :
    (enterLockdown c s).notice k = true := by
  have h1 : (flush { s with berth := { s.berth with phase := .lockdown } }).notice k = true :=
    flush_keeps (P := fun t => t.notice k = true)
      (fun e t ht => (notice_endEntry _ e t k).trans ht) (fun t ht => (notice_askBerth t k).trans ht) h
  have h2 : (flush { s with berth := { s.berth with phase := .lockdown } }).berth.phase = .lockdown := by
    rw [flush_berth]
  have h3 := flush_queue_empty { s with berth := { s.berth with phase := .lockdown } }
  unfold enterLockdown changePhase entryActions
  generalize flush { s with berth := { s.berth with phase := .lockdown } } = x at *
  have h4 : (eachLine (lockdownLock c) x).notice k = true := by
    refine (eachLine_keeps (P := fun t => Locking x t ∧ t.notice k = true) (fun n t ht => ?_)
      ⟨⟨h2, h3, rfl, rfl⟩, h1⟩).2
    refine ⟨(lockdownLock_own n t ht.1).1, ?_⟩
    rw [lockdownLock_eq ht.1.queue ht.1.phase]
    split
    · rw [notice_askLine, notice_partOrder]
      exact ht.2
    · exact ht.2
  rw [notice_askBerth]
  show (setBerthNotice _ _).notice k = true
  apply notice_setBerthNotice_of
  generalize eachLine (lockdownLock c) x = y at *
  exact (notice_congr
    (eachLine_modLine_report (fun _ l => { l with latch := none }) (withdrawPairs y)) k).trans h4

/-- The cause set and the still-present set take their values, and the rest stays (R130). -/
theorem setCauses_fields (c p : CauseSet) (s : State) :
    (setCauses c p s).berth = { s.berth with causes := c, present := p } ∧
    (setCauses c p s).lines = s.lines ∧ (setCauses c p s).queue = s.queue ∧
    (setCauses c p s).bus.bare = s.bus.bare ∧ (setCauses c p s).scan = s.scan ∧
    (setCauses c p s).profile = s.profile ∧ (setCauses c p s).supply = s.supply ∧
    (setCauses c p s).report = s.report ∧ (setCauses c p s).atTick = s.atTick := by
  unfold setCauses
  split
  · rename_i h
    rw [h.1, h.2]
    exact ⟨rfl, rfl, rfl, rfl, rfl, rfl, rfl, rfl, rfl⟩
  · exact ⟨by simp, by rw [lines_askBerth], by simp, by rw [askBerth_bare], by simp, by simp, by simp,
      by simp, by simp⟩

/-- A cause raised outside STARTING, HALTED and LOCKDOWN enters LOCKDOWN (R131). -/
theorem enteredLockdown_raiseCause {s z : State} {c : LockdownCause} {p : Bool}
    (hn : (s.queue.map (·.line)).Nodup) (hp : z.berth.phase = .vacant ∨ z.berth.phase = .arrival ∨
      z.berth.phase = .secured ∨ z.berth.phase = .departure)
    (h1 : z.lines = s.lines) (h2 : z.queue = s.queue) (h3 : z.profile = s.profile)
    (h4 : z.berth.causes = s.berth.causes) (h5 : z.bus.orderLane = s.bus.orderLane)
    (h6 : z.atTick = s.atTick) :
    EnteredLockdown c s (raiseCause c p z) ∧
      (raiseCause c p z).berth.present =
        (if p then z.berth.present ||| c.bit else z.berth.present) ∧
      (raiseCause c p z).supply = z.supply ∧
      ∀ k, z.notice k = true → (raiseCause c p z).notice k = true := by
  obtain ⟨a1, a2, a3, a4, _, a6, a7, a8, a9⟩ := setCauses_fields (z.berth.causes ||| c.bit)
    (if p then z.berth.present ||| c.bit else z.berth.present) z
  have hr : raiseCause c p z = enterLockdown c (addCause c p z) := by
    have : (addCause c p z).berth.phase = z.berth.phase := by unfold addCause; rw [a1]
    unfold raiseCause
    dsimp only
    rw [this]
    rcases hp with e | e | e | e <;> rw [e]
  obtain ⟨b1, b2⟩ := enterLockdown_rest c (addCause c p z)
  rw [hr]
  unfold addCause at *
  refine ⟨enteredLockdown_enterLockdown (a2.trans h1) (a3.trans h2) hn (a6.trans h3)
    (by rw [a1, ← h4]) ((Bus.bare_orderLane a4).trans h5) (a9.trans h6), by rw [b1, a1], b2.trans a7, fun k hk => ?_⟩
  exact notice_enterLockdown c ((notice_congr a8 k).trans hk)

end Sys2Proof.Machine
end

