-- ==== Sys2Proof/Laws/Passing.lean ====
section
/-! SUPPORT. Screening's three endings said once, a refusal, a pass, the hold step; and the berth after a
hand-on. -/

namespace Sys2Proof.Machine

variable {n : LineId}

/-! ### Updates that change nothing -/

/-- A line changed into itself leaves the state. -/
theorem modLine_id {f : Line → Line} {s : State} (h : f (s.line n) = s.line n) : modLine n f s = s := by
  unfold modLine
  have e : s.lines.set n.val (f (s.line n)) n.isLt = s.lines := by
    rw [h]
    ext i hi
    rw [Vector.getElem_set]
    split
    · rename_i e
      subst e
      rfl
    · rfl
  rw [e]

theorem modLine_latch (n : LineId) (s : State) :
    modLine n (fun l => { l with latch := (s.line n).latch }) s = s := modLine_id rfl

/-- The latch after the kind check (R44): emptied by HAUL and EASE, kept by every other kind. -/
theorem useLatch_eq (n : LineId) (k : OrderKind) (s : State) : useLatch n k s =
    modLine n (fun l => { l with latch := if k = .haul ∨ k = .ease then none else (s.line n).latch }) s := by
  unfold useLatch
  cases k <;> simp [OrderKind.takesArgument] <;> exact (modLine_latch n s).symm

/-! ### Refusals -/

/-- A refusal after host activity and the latch's use is a refusal of the order (R34). -/
theorem refusedOrder_refuse {s v : State} {o : Option (Tag × OrderKind)} {r : RefusalReason}
    {latch : Option Latch} (hs : s.takesWords)
    (hv : v = modLine n (fun l => { l with latch := latch }) (hostActivity s)) :
    RefusedOrder s (refuse n o r v) n o r latch := by
  have hb : (refuse n o r v).berth = (hostActivity s).berth := by rw [refuse_berth, hv]; rfl
  refine ⟨?_, fun m hm => ?_, ?_, ?_, ⟨?_, ?_, hb, ?_, ?_⟩, ?_⟩
  · rw [line_refuse, if_pos rfl, hv]; simp
  · rw [line_refuse, if_neg hm, hv]; simp [hm]
  · rw [Bus.bare_orderLane (refuse_bare n o r v), hv]; rfl
  · unfold refuse
    apply setLineNotice_mem
    unfold recordHost
    apply mem_askLine
    rw [hv]
    exact hs.2.2
  · rw [refuse_queue, hv]; rfl
  · rw [refuse_scan, hv]; rfl
  · rw [refuse_profile, hv]; rfl
  · rw [refuse_supply, hv]; rfl
  · rw [refuse_notices, hv]; rfl

/-! ### Passes -/

/-- The line after the supersession (R74). -/
theorem line_supersede (s : State) : (supersede n s).line n =
    { s.line n with notice := (s.line n).notice || (s.entry n).isSome } := by
  unfold supersede
  split
  · rename_i h
    rw [h]
    simp
  · rename_i h
    rw [h, line_askBerth, line_setLineNotice, if_pos rfl, line_dropEntry]
    simp

/-- The part with the verdict recorded, the entry superseded and the pair placed (R46). -/
def beforeEffect (n : LineId) (k : OrderKind) (t : Tag) (arg : Nat) (s : State) : State :=
  placePair (makePair n k t arg)
    (supersede n (recordHost n ⟨some (t, k), some .passed, displacedTag s n⟩ s))

theorem passOrder_eq (n : LineId) (k : OrderKind) (t : Tag) (arg : Nat) (s : State) :
    passOrder n k t arg s =
      if ((applyEffect n k arg (beforeEffect n k t arg s)).line n).state
          = ((beforeEffect n k t arg s).line n).state then applyEffect n k arg (beforeEffect n k t arg s)
      else settle n (applyEffect n k arg (beforeEffect n k t arg s)) := rfl

theorem line_beforeEffect (n : LineId) (k : OrderKind) (t : Tag) (arg : Nat) (s : State) :
    (beforeEffect n k t arg s).line n = { s.line n with
      lastHost := ⟨some (t, k), some .passed, (s.entry n).map (·.tag)⟩
      notice := (s.line n).notice || (s.entry n).isSome } := by
  have he : (recordHost n ⟨some (t, k), some .passed, displacedTag s n⟩ s).entry n = s.entry n :=
    entry_congr (recordHost_queue _ _ _) n
  unfold beforeEffect
  rw [line_placePair, line_supersede, he, line_recordHost, if_pos rfl]
  rfl

theorem entry_beforeEffect (n : LineId) (k : OrderKind) (t : Tag) (arg : Nat) (s : State) :
    (beforeEffect n k t arg s).entry n = none := by
  unfold beforeEffect
  rw [entry_congr (placePair_queue _ _)]
  exact entry_supersede _

theorem pair_beforeEffect (n : LineId) (k : OrderKind) (t : Tag) (arg : Nat) (s : State) :
    makePair n k t arg ∈ (beforeEffect n k t arg s).bus.orderLane := mem_placeIn _ _

theorem Kept.beforeEffect {m : LineId} (h : m ≠ n) (k : OrderKind) (t : Tag) (arg : Nat) (s : State) :
    Kept m s (beforeEffect n k t arg s) :=
  ((Kept.recordHost h _ s).trans (.supersede h _)).trans (.placePair (Ne.symm h) _)

theorem beforeEffect_berth (n : LineId) (k : OrderKind) (t : Tag) (arg : Nat) (s : State) :
    (beforeEffect n k t arg s).berth = s.berth := by
  unfold beforeEffect
  simp

theorem beforeEffect_image (n : LineId) (k : OrderKind) (t : Tag) (arg : Nat) (s : State) :
    (beforeEffect n k t arg s).image = s.image := by
  unfold beforeEffect
  simp

theorem beforeEffect_ticksFor (n : LineId) (k : OrderKind) (t : Tag) (arg ms : Nat) (s : State) :
    (beforeEffect n k t arg s).ticksFor ms = s.ticksFor ms := by
  unfold beforeEffect State.ticksFor
  simp

/-- The line that passes an order is what the effect makes of it, and so are its pairs: the hand-on leaves
them. -/
theorem Kept.passOrder_own (n : LineId) (k : OrderKind) (t : Tag) (arg : Nat) (s : State) :
    Kept n (Machine.applyEffect n k arg (Machine.beforeEffect n k t arg s)) (passOrder n k t arg s) := by
  rw [passOrder_eq]
  split
  · exact .refl n _
  · refine .settle ?_ n
    rw [entry_congr (applyEffect_queue _ _ _ _)]
    exact entry_beforeEffect n k t arg s

/-- A pass leaves every other line without an entry. -/
theorem Kept.passOrder_other {m : LineId} (h : m ≠ n) {s : State} (he : s.entry m = none) (k : OrderKind)
    (t : Tag) (arg : Nat) : Kept m s (passOrder n k t arg s) := by
  have h1 := (Kept.beforeEffect h k t arg s).trans (.applyEffect h k arg _)
  rw [passOrder_eq]
  split
  · exact h1
  · exact h1.trans (.settle (h1.entry.trans he) n)

/-- The berth after a pass that leaves its line not PARKED. -/
theorem passOrder_berth {k : OrderKind} {t : Tag} {arg : Nat} {s : State}
    (hf : ((applyEffect n k arg (beforeEffect n k t arg s)).line n).fitted = true)
    (hp : ((applyEffect n k arg (beforeEffect n k t arg s)).line n).state ≠ .parked) :
    (passOrder n k t arg s).berth = s.berth := by
  rw [passOrder_eq]
  split
  · rw [applyEffect_berth, beforeEffect_berth]
  · rw [settle_berth_of_line ?_ hf hp, applyEffect_berth, beforeEffect_berth]
    rw [entry_congr (applyEffect_queue _ _ _ _)]
    exact entry_beforeEffect n k t arg s

theorem passOrder_profile (n : LineId) (k : OrderKind) (t : Tag) (arg : Nat) (s : State) :
    (passOrder n k t arg s).profile = s.profile := by
  unfold passOrder
  dsimp only
  split <;> simp

theorem passOrder_notices (n : LineId) (k : OrderKind) (t : Tag) (arg : Nat) (s : State) :
    (passOrder n k t arg s).report.notices = s.report.notices := by
  unfold passOrder
  dsimp only
  split <;> simp

theorem passOrder_supply (n : LineId) (k : OrderKind) (t : Tag) (arg : Nat) (s : State) :
    (passOrder n k t arg s).supply = s.supply := by
  unfold passOrder
  dsimp only
  split <;> simp

/-- The effect of a kind other than REWIND leaves the order lane. -/
theorem applyEffect_bus {k : OrderKind} (h : k ≠ .rewind) (n : LineId) (arg : Nat) (s : State) :
    (applyEffect n k arg s).bus = s.bus := by
  unfold applyEffect
  cases k <;> simp at h ⊢

/-- A pass, from what the effect makes of the line `l` that stands before it. -/
theorem passedOrder_passOrder {s v : State} {k : OrderKind} {t : Tag} {arg : Nat} {l : Line}
    (hv : v = modLine n (fun l => { l with
      latch := if k = .haul ∨ k = .ease then none else (s.line n).latch }) (hostActivity s))
    (hl : (applyEffect n k arg (beforeEffect n k t arg v)).line n = l)
    (hh : l.lastHost = ⟨some (t, k), some .passed, (s.entry n).map (·.tag)⟩)
    (hlatch : l.latch = if k = .haul ∨ k = .ease then none else (s.line n).latch)
    (hpart : l.lastPart = (s.line n).lastPart)
    (hnotice : l.notice = ((s.line n).notice || (s.entry n).isSome))
    (hown : (s.line n).KeptByOrder l) (hdrum : TakenIn s (s.line n) l)
    (hpair : makePair n k t arg ∈ (applyEffect n k arg (beforeEffect n k t arg v)).bus.orderLane) :
    PassedOrder s (passOrder n k t arg v) n k t arg := by
  have own := Kept.passOrder_own n k t arg v
  have hk : ∀ m, m ≠ n → v.line m = s.line m ∧ v.entry m = s.entry m := fun m hm => by
    rw [hv, line_modLine, if_neg hm]
    exact ⟨rfl, rfl⟩
  refine ⟨?_, ?_, own.pair rfl hpair, ?_, ?_, ?_, ?_, ?_, fun m hm he => ?_, ⟨?_, ?_⟩, ?_⟩
  · rw [own.line, hl, hh]
  · rw [own.entry, entry_congr (applyEffect_queue _ _ _ _)]
    exact entry_beforeEffect n k t arg v
  · rw [own.line, hl, hlatch]
  · rw [own.line, hl, hpart]
  · rw [own.line, hl, hnotice]
  · rw [own.line, hl]
    exact hown
  · rw [own.line, hl]
    exact hdrum
  · rw [(Kept.passOrder_other hm ((hk m hm).2.trans he) k t arg).line, (hk m hm).1]
  · rw [passOrder_profile, hv]; rfl
  · rw [passOrder_supply, hv]; rfl
  · rw [passOrder_notices, hv]; rfl

/-! ### From screening to its endings -/

/-- The screening of an order that the fitted check, repeat detection, the fallback restriction and phase
allowance let go on (R39 to R43). -/
theorem screen_allowed {k : OrderKind} {t : Tag} {o : Origin} {s : State} (hf : (s.line n).fitted = true)
    (hr : (s.line n).lastHost.order ≠ some (t, k))
    (hp : s.profile.source = .loaded ∨ k.needsLoaded = false)
    (ha : phaseAllows k s.berth.phase = true) :
    screen n k t o s =
      match stateAllows k s.berth.phase (s.line n).stowed (s.line n).state with
      | .no r => refuse n (some (t, k)) r (useLatch n k s)
      | .hold => completeOrder n k t o (s.line n).latch true (useLatch n k s)
      | .pass => completeOrder n k t o (s.line n).latch false (useLatch n k s) := by
  rw [screen_new hf hr, useLatch_eq]
  unfold judgeOrder
  rw [if_neg, if_neg (by simp [ha])]
  · simp only [line_modLine_self, Line.stowed, modLine_berth] <;>
      (generalize stateAllows k s.berth.phase ((s.line n).payout == 0 && (s.line n).stowMade)
        (s.line n).state = a
       cases a <;> rfl)
  · rintro ⟨h1, h2⟩
    rcases hp with h | h
    · rw [show (modLine n _ s).profile = s.profile from rfl, h] at h1
      cases h1
    · rw [h] at h2
      cases h2

/-- The latch is fresh (R30). -/
theorem freshValue_of {s : State} {x : Latch} {latch : Option Latch} (h : latch = some x)
    (ha : x.age ≤ argumentFreshness s.image) : freshValue s latch = some x.value := by
  unfold freshValue
  rw [h]
  exact if_pos ha

/-- The part after host activity and the use of the latch, before an order passes. -/
def taken (n : LineId) (k : OrderKind) (s : State) : State :=
  modLine n (fun l => { l with latch := if k = .haul ∨ k = .ease then none else (s.line n).latch })
    (hostActivity s)

/-- The line when its order has passed and its effect has not been taken. -/
def Line.passed (k : OrderKind) (t : Tag) (e : Option Entry) (l : Line) : Line :=
  { l with
    lastHost := ⟨some (t, k), some .passed, e.map (·.tag)⟩
    notice := l.notice || e.isSome
    latch := if k = .haul ∨ k = .ease then none else l.latch }

/-- An order brought to a line that allows it passes (R46). -/
theorem exec_pass {i : Instr} {k : OrderKind} {t : Tag} {o : Origin} {s : State} (arg : Nat)
    (h : Carries i n k t o) (hs : s.takesWords) (hf : (s.line n).fitted = true)
    (hr : (s.line n).lastHost.order ≠ some (t, k))
    (hp : s.profile.source = .loaded ∨ k.needsLoaded = false)
    (ha : phaseAllows k s.berth.phase = true)
    (hst : stateAllows k s.berth.phase (s.line n).stowed (s.line n).state = .pass)
    (hc : completeOrder n k t o (s.line n).latch false (taken n k s) = passOrder n k t arg (taken n k s)) :
    exec i s = .next (arbitrate (passOrder n k t arg (taken n k s))) := by
  have e := exec_carries h hs
  rw [screen_allowed (s := hostActivity s) hf hr hp ha, hostActivity_line, hostActivity_phase, hst] at e
  dsimp only at e
  rw [e, useLatch_eq]
  exact congrArg (fun u => Host.Outcome.next (arbitrate u)) hc

theorem line_beforeEffect_taken (n : LineId) (k : OrderKind) (t : Tag) (arg : Nat) (s : State) :
    (beforeEffect n k t arg (taken n k s)).line n = (s.line n).passed k t (s.entry n) := by
  rw [line_beforeEffect, show (taken n k s).entry n = s.entry n from rfl]
  simp [Line.passed, taken]

/-- The line that enters state `st` with the order's effect. -/
theorem enterState_beforeEffect (n : LineId) (k : OrderKind) (t : Tag) (arg : Nat) (s : State)
    (st : LineState) : (enterState n st (beforeEffect n k t arg (taken n k s))).line n =
      Line.enter s.image s.ticksFor st ((s.line n).passed k t (s.entry n)) := by
  have ht : (beforeEffect n k t arg (taken n k s)).ticksFor = s.ticksFor := by
    funext ms
    rw [beforeEffect_ticksFor]
    rfl
  unfold enterState
  rw [line_modLine_self, line_beforeEffect_taken, beforeEffect_image, ht]
  rfl

theorem Line.KeptByOrder.passed_enter (k : OrderKind) (t : Tag) (e : Option Entry) (img : List Word)
    (f : Nat → Nat) (st : LineState) (l : Line) : l.KeptByOrder (Line.enter img f st (l.passed k t e)) :=
  ⟨⟨rfl, rfl, rfl⟩, ⟨rfl, rfl, rfl, rfl, rfl⟩, ⟨rfl, rfl⟩, ⟨rfl, rfl, rfl⟩, rfl⟩

/-- A pass whose effect is to enter another state: the pass, and the line after it. -/
theorem passed_enterState {k : OrderKind} {t : Tag} {arg : Nat} {s : State} {st : LineState}
    (hk : k ≠ .rewind) (hst : st ≠ (s.line n).state)
    (he : applyEffect n k arg (beforeEffect n k t arg (taken n k s)) =
      enterState n st (beforeEffect n k t arg (taken n k s))) :
    PassedOrder s (passOrder n k t arg (taken n k s)) n k t arg ∧
      (passOrder n k t arg (taken n k s)).line n =
        Line.enter s.image s.ticksFor st ((s.line n).passed k t (s.entry n)) := by
  have hl := enterState_beforeEffect n k t arg s st
  rw [← he] at hl
  refine ⟨passedOrder_passOrder rfl hl rfl rfl rfl rfl (.passed_enter ..) (.enter hst rfl rfl) ?_, ?_⟩
  · rw [applyEffect_bus hk]
    exact pair_beforeEffect n k t arg _
  · rw [(Kept.passOrder_own n k t arg _).line, hl]

/-- Every fitted line is PARKED, said line by line (R125). -/
theorem allParked_iff (s : State) :
    s.allParked = true ↔ ∀ n, (s.line n).fitted = true → (s.line n).state = .parked := by
  unfold State.allParked
  rw [List.all_eq_true]
  constructor
  · intro h n hf
    have := h n (mem_allLines n)
    simpa [hf] using this
  · intro h n _
    by_cases hf : (s.line n).fitted = true
    · simp [hf, h n hf]
    · simp [Bool.eq_false_iff.mpr hf]

/-- The berth after the hand-on of a change of a line's state (R5, R127). -/
theorem vacatesBy_settle (n : LineId) (s : State) : VacatesBy s (settle n s) s.berth := by
  have hl : ∀ m, (settle n s).line m = (askLine n (reevaluate s)).line m := fun m => line_autoVacant m _
  have hb : (askLine n (reevaluate s)).berth = s.berth := by simp
  unfold VacatesBy
  simp only [hl]
  unfold settle autoVacant
  generalize askLine n (reevaluate s) = t at *
  refine ⟨fun h => ?_, fun h => ⟨fun hp => ?_, fun ⟨m, hf, hm⟩ => ?_⟩⟩
  · rw [if_neg fun c => h (hb ▸ c.1), hb]
  · rw [if_pos ⟨hb ▸ h, (allParked_iff t).mpr hp⟩]
    unfold changePhase
    rw [askBerth_berth, ← hb]
    rfl
  · rw [if_neg fun c => hm ((allParked_iff t).mp c.2 m hf), hb]

end Sys2Proof.Machine
end

