-- ==== Sys2Proof/Laws/Wired.lean ====
section
/-! SUPPORT. What the owners' operations leave alone: the queue of commands, the supply level, the host's
transfers at the D-port and outside it. -/

namespace Sys2Proof.Machine

/-- The transfer in progress is the host's. -/
def hostAtPort : Option DTransfer → Bool
  | some (.host _) => true
  | some (.pair _ _ _) | some (.record _ _ _ _ _) | some (.fetch _ _) | none => false

/-- `t` has the commands, the supply level and the host transfers of `s`, and the D-port is taken in `t`
as in `s`. -/
structure Wired (s t : State) : Prop where
  pending : t.pending = s.pending
  powered : t.supply.powered = s.supply.powered
  held : t.bus.held = s.bus.held
  waiting : t.bus.waiting = s.bus.waiting
  host : hostAtPort t.bus.dport = hostAtPort s.bus.dport
  taken : t.bus.dport.isSome = s.bus.dport.isSome

theorem Wired.refl (s : State) : Wired s s := ⟨rfl, rfl, rfl, rfl, rfl, rfl⟩

theorem Wired.trans {s t u : State} (h : Wired s t) (k : Wired t u) : Wired s u :=
  ⟨k.1.trans h.1, k.2.trans h.2, k.3.trans h.3, k.4.trans h.4, k.5.trans h.5, k.6.trans h.6⟩

/-- UWAIT stands as it was. -/
theorem Wired.uwait {s t : State} (h : Wired s t) : t.uwait = s.uwait := by
  have e : ∀ u : State, u.uwait = (u.bus.waiting.isSome || hostAtPort u.bus.dport) := fun u => by
    unfold State.uwait hostAtPort
    rcases u.bus.dport with _ | _ | _ | _ | _ <;> rfl
  rw [e, e, h.waiting, h.host]

/-- An operation that leaves commands, bus path and supply alone is wired. -/
theorem Wired.of_same {s t : State} (hp : t.pending = s.pending) (hb : t.bus = s.bus)
    (hs : t.supply.powered = s.supply.powered) : Wired s t :=
  ⟨hp, hs, by rw [hb], by rw [hb], by rw [hb], by rw [hb]⟩

/-- A wired operation on each line, then on every line. -/
theorem Wired.eachLine {f : LineId → State → State} (h : ∀ n t, Wired t (f n t)) (s : State) :
    Wired s (eachLine f s) :=
  eachLine_keeps (P := fun t => Wired s t) (fun n t ht => ht.trans (h n t)) (Wired.refl s)

/-- A wired operation for a list, one after the other. -/
theorem Wired.foldl {α : Type} {f : State → α → State} (h : ∀ t a, Wired t (f t a)) (l : List α)
    (s : State) : Wired s (l.foldl f s) :=
  foldl_keeps (P := fun t => Wired s t) (fun t a ht => ht.trans (h t a)) l (Wired.refl s)

/-! ### Ops -/

theorem Wired.modLine (n : LineId) (f : Line → Line) (s : State) : Wired s (modLine n f s) :=
  .of_same rfl rfl rfl

theorem Wired.modLines (f : LineId → Line → Line) (s : State) :
    Wired s (Machine.eachLine (fun n => Machine.modLine n (f n)) s) := .eachLine (fun n t => .modLine n _ t) s

theorem Wired.askRecord (r : RecId) (s : State) : Wired s (askRecord r s) := by
  unfold Machine.askRecord
  split
  · exact .refl s
  · exact ⟨rfl, rfl, rfl, rfl, rfl, rfl⟩

theorem Wired.askLine (n : LineId) (s : State) : Wired s (askLine n s) := .askRecord _ s

theorem Wired.askBerth (s : State) : Wired s (askBerth s) := .askRecord _ s

theorem Wired.withReport (r : Reporting) (s : State) : Wired s { s with report := r } :=
  .of_same rfl rfl rfl

theorem Wired.withQueue (q : List Entry) (s : State) : Wired s { s with queue := q } :=
  .of_same rfl rfl rfl

theorem Wired.withScan (sc : Scan) (s : State) : Wired s { s with scan := sc } := .of_same rfl rfl rfl

theorem Wired.withBerth (b : Berth) (s : State) : Wired s { s with berth := b } := .of_same rfl rfl rfl

theorem Wired.withProfile (p : Profile) (s : State) : Wired s { s with profile := p } :=
  .of_same rfl rfl rfl

theorem Wired.withSupply {v : Supply} {s : State} (h : v.powered = s.supply.powered) :
    Wired s { s with supply := v } := .of_same rfl rfl h

theorem Wired.judgeAttn (s : State) : Wired s (judgeAttn s) := .withReport _ s

theorem Wired.setLineNotice (n : LineId) (s : State) : Wired s (setLineNotice n s) := by
  unfold Machine.setLineNotice
  split
  · exact .refl s
  · exact ((Wired.modLine n _ s).trans (.judgeAttn _)).trans ((Wired.askLine n _).trans (.askBerth _))

theorem Wired.setBerthNotice (k : BerthNotice) (s : State) : Wired s (setBerthNotice k s) := by
  unfold Machine.setBerthNotice
  split
  · exact .refl s
  · exact (Wired.withReport { s.report with notices := s.report.notices ||| (1#8 <<< k.code) } s).trans
      ((Wired.judgeAttn _).trans (.askBerth _))

theorem Wired.placePair (e : LaneEntry) (s : State) : Wired s (placePair e s) :=
  ⟨rfl, rfl, rfl, rfl, rfl, rfl⟩

theorem Wired.withdrawPairs (s : State) : Wired s (withdrawPairs s) := ⟨rfl, rfl, rfl, rfl, rfl, rfl⟩

theorem Wired.recordHost (n : LineId) (h : LastHost) (s : State) : Wired s (recordHost n h s) :=
  (Wired.modLine n _ s).trans (.askLine n _)

theorem Wired.recordEnding (n : LineId) (t : Tag) (k : OrderKind) (v : Verdict) (s : State) :
    Wired s (recordEnding n t k v s) := .recordHost n _ s

theorem Wired.refuse (n : LineId) (o : Option (Tag × OrderKind)) (r : RefusalReason) (s : State) :
    Wired s (refuse n o r s) := (Wired.recordHost n _ s).trans (.setLineNotice n _)

theorem Wired.enterState (n : LineId) (st : LineState) (s : State) : Wired s (enterState n st s) :=
  .modLine n _ s

theorem Wired.loadRun (n : LineId) (v : Nat) (s : State) : Wired s (loadRun n v s) := .modLine n _ s

theorem Wired.loadStall (n : LineId) (s : State) : Wired s (loadStall n s) := .modLine n _ s

theorem Wired.partOrder (n : LineId) (k : OrderKind) (c : PartCause) (s : State) :
    Wired s (partOrder n k c s) := by
  have h1 := fun a => ((Wired.placePair (makePair n k 0 a) s).trans
    (.modLine n (fun l => { l with lastPart := some ⟨k, c⟩ }) _)).trans (.askLine n _)
  unfold Machine.partOrder
  dsimp only
  split
  · exact (h1 _).trans (.loadRun n _ _)
  · exact h1 _

theorem Wired.faultEntry (n : LineId) (r : FaultReason) (lock : Option PartCause) (s : State) :
    Wired s (faultEntry n r lock s) := by
  have h1 := (Wired.enterState n (.faulted r) s).trans (.setLineNotice n _)
  unfold Machine.faultEntry
  dsimp only
  split
  · exact h1.trans (.partOrder n _ _ _)
  · exact h1

theorem Wired.beginProbe (n : LineId) (resume : Option Nat) (s : State) :
    Wired s (beginProbe n resume s) :=
  ((Wired.modLine n (fun l => { l with probeWaiting := false }) s).trans (.withScan _ _)).trans
    (.withQueue _ _)

theorem Wired.joinProbe (n : LineId) (s : State) : Wired s (joinProbe n s) := .modLine n _ s

theorem Wired.requestProbe (n : LineId) (s : State) : Wired s (requestProbe n s) := by
  unfold Machine.requestProbe
  split
  · exact .beginProbe n _ s
  · exact .beginProbe n _ s
  · exact .joinProbe n s

/-! ### Effects and the hold queue -/

theorem Wired.lockEffect (n : LineId) (s : State) : Wired s (lockEffect n s) := by
  unfold Machine.lockEffect
  dsimp only
  split
  · exact .refl s
  · exact .enterState n _ s

theorem Wired.rewindComplete (n : LineId) (s : State) : Wired s (rewindComplete n s) := by
  unfold Machine.rewindComplete
  split
  · exact (Wired.enterState n _ s).trans (.partOrder n _ _ _)
  · exact .faultEntry n _ _ s

theorem Wired.rewindEffect (n : LineId) (s : State) : Wired s (rewindEffect n s) := by
  have h1 := Wired.enterState n .rewinding s
  unfold Machine.rewindEffect
  dsimp only
  (repeat' split) <;> first
    | with_reducible exact h1.trans (.loadStall n _)
    | with_reducible exact h1.trans (.rewindComplete n _)
    | with_reducible exact h1.trans (.loadRun n _ _)

theorem Wired.applyEffect (n : LineId) (k : OrderKind) (arg : Nat) (s : State) :
    Wired s (applyEffect n k arg s) := by
  unfold Machine.applyEffect
  split <;> first
    | with_reducible exact .lockEffect n s
    | with_reducible exact .rewindEffect n s
    | with_reducible exact .enterState n _ s
    | with_reducible exact (Wired.enterState n _ s).trans (.loadRun n _ _)
    | with_reducible exact .refl s

theorem Wired.forward (e : Entry) (s : State) : Wired s (forward e s) :=
  (((((Wired.recordEnding e.line e.tag e.kind.order .forwarded s).trans (.withQueue _ _)).trans
    (.askBerth _)).trans (.placePair _ _)).trans (.applyEffect e.line e.kind.order 0 _)).trans
      (.askLine e.line _)

theorem Wired.judgeSlip (e : Entry) (s : State) : Wired s (judgeSlip e s) := by
  have h1 := Wired.withQueue (s.queue.map fun x => if x.line = (judged s e).line then judged s e else x) s
  unfold Machine.judgeSlip putEntry
  dsimp only
  (repeat' split) <;> first
    | with_reducible exact h1
    | with_reducible exact h1.trans (.askLine _ _)
    | with_reducible exact h1.trans (.joinProbe _ _)
    | with_reducible exact (h1.trans (.askLine _ _)).trans (.joinProbe _ _)

theorem Wired.judgeEntry (n : LineId) (s : State) : Wired s (judgeEntry n s) := by
  unfold Machine.judgeEntry
  (repeat' split) <;> first
    | with_reducible exact .refl s
    | with_reducible exact .forward _ s
    | with_reducible exact .judgeSlip _ s

theorem Wired.takeProbes (s : State) : Wired s (takeProbes s) :=
  takeProbes_keeps (P := fun t => Wired s t) (fun m _ => .requestProbe m s) (.refl s)

theorem Wired.reevaluate (s : State) : Wired s (reevaluate s) :=
  reevaluate_keeps (P := fun t => Wired s t) (fun n t ht => ht.trans (.judgeEntry n t))
    (fun n t ht => ht.trans (.requestProbe n t)) (.refl s)

theorem Wired.silenceAt (p : Phase) (s : State) : Wired s (silenceAt p s) := .withBerth _ s

theorem Wired.changePhase (p : Phase) {f : State → State} (hf : ∀ t, Wired t (f t)) (s : State) :
    Wired s (changePhase p f s) :=
  (((Wired.withBerth { s.berth with phase := p } s).trans (hf _)).trans (.silenceAt _ _)).trans
    (.askBerth _)

theorem Wired.toPhase (p : Phase) (s : State) : Wired s (Machine.changePhase p id s) :=
  .changePhase p (fun t => .refl t) s

theorem Wired.autoVacant (s : State) : Wired s (autoVacant s) := by
  unfold Machine.autoVacant
  split
  · exact .toPhase _ s
  · exact .refl s

theorem Wired.settle (n : LineId) (s : State) : Wired s (settle n s) :=
  ((Wired.reevaluate s).trans (.askLine n _)).trans (.autoVacant _)

theorem Wired.askProbe (e : Entry) (s : State) : Wired s (askProbe e s) := by
  unfold Machine.askProbe
  split
  · exact .requestProbe _ s
  · exact .refl s

theorem Wired.holdOrder (n : LineId) (k : HeldKind) (t : Tag) (o : Origin) (s : State) :
    Wired s (holdOrder n k t o s) := by
  unfold Machine.holdOrder
  dsimp only
  split
  · exact (((Wired.recordHost n _ s).trans (.withQueue _ _)).trans (.setLineNotice n _)).trans
      (.askProbe _ _)
  · split
    · exact .refuse n _ _ s
    · exact (((Wired.recordHost n _ s).trans (.withQueue _ _)).trans (.askBerth _)).trans (.askProbe _ _)

theorem Wired.supersede (n : LineId) (s : State) : Wired s (supersede n s) := by
  unfold Machine.supersede
  split
  · exact .refl s
  · exact ((Wired.withQueue _ s).trans (.setLineNotice n _)).trans (.askBerth _)

theorem Wired.endEntry (v : Verdict) (e : Entry) (s : State) : Wired s (endEntry v e s) :=
  ((Wired.withQueue _ s).trans (.recordEnding _ _ _ _ _)).trans (.setLineNotice _ _)

theorem Wired.flush (s : State) : Wired s (flush s) :=
  flush_keeps (P := fun t => Wired s t) (fun e t ht => ht.trans (.endEntry _ e t))
    (fun t ht => ht.trans (.askBerth t)) (.refl s)

theorem Wired.sampleEntry (n : LineId) (probe : Bool) (s : State) : Wired s (sampleEntry n probe s) := by
  unfold Machine.sampleEntry
  (repeat' split) <;> first
    | with_reducible exact .refl s
    | with_reducible exact ((Wired.forward _ s).trans (.reevaluate _)).trans (.autoVacant _)
    | with_reducible exact .judgeSlip _ s
    | with_reducible exact (Wired.judgeSlip _ s).trans (.takeProbes _)
    | exact (Wired.withQueue _ s).trans (.askLine _ _)

/-! ### Lockdown and the line table -/

theorem Wired.transition (n : LineId) (st : LineState) (o : Option (OrderKind × PartCause)) (s : State) :
    Wired s (transition n st o s) := by
  unfold Machine.transition
  dsimp only
  split
  · exact ((Wired.enterState n st s).trans (.partOrder n _ _ _)).trans (.settle n _)
  · exact (Wired.enterState n st s).trans (.settle n _)

theorem Wired.faultLine (n : LineId) (r : FaultReason) (lock : Option PartCause) (s : State) :
    Wired s (faultLine n r lock s) := (Wired.faultEntry n r lock s).trans (.settle n _)

theorem Wired.setCauses (c p : CauseSet) (s : State) : Wired s (setCauses c p s) := by
  unfold Machine.setCauses
  split
  · exact .refl s
  · exact (Wired.withBerth { s.berth with causes := c, present := p } s).trans (.askBerth _)

theorem Wired.lockdownLock (c : LockdownCause) (n : LineId) (s : State) :
    Wired s (lockdownLock c n s) := by
  unfold Machine.lockdownLock
  split
  · exact .transition n _ _ s
  · exact .refl s

theorem Wired.entryActions (c : LockdownCause) (s : State) : Wired s (entryActions c s) :=
  ((((Wired.flush s).trans (.eachLine (fun n t => .lockdownLock c n t) _)).trans
    (.withdrawPairs _)).trans (.modLines _ _)).trans (.setBerthNotice _ _)

theorem Wired.enterLockdown (c : LockdownCause) (s : State) : Wired s (enterLockdown c s) :=
  .changePhase _ (fun t => .entryActions c t) s

theorem Wired.raiseCause (c : LockdownCause) (p : Bool) (s : State) : Wired s (raiseCause c p s) := by
  have h1 : Wired s (addCause c p s) := .setCauses _ _ s
  unfold Machine.raiseCause
  dsimp only
  (repeat' split) <;> first
    | with_reducible exact h1.trans (.enterLockdown _ _)
    | with_reducible exact h1
    | with_reducible exact h1.trans (.setBerthNotice _ _)

theorem Wired.leaveStarting (s : State) : Wired s (leaveStarting s) := by
  unfold Machine.leaveStarting
  split
  · exact .toPhase _ s
  · split
    · exact .enterLockdown _ s
    · exact (Wired.setCauses _ _ s : Wired s (addCause .adoption false s)).trans (.enterLockdown _ _)

theorem Wired.deriveLine (n : LineId) (s : State) : Wired s (deriveLine n s) := by
  have h1 : Wired s (if (s.line n).brakeSet then s else Machine.partOrder n .lock .derivation s) := by
    split
    · exact .refl s
    · exact .partOrder n _ _ s
  have h2 : ∀ t : State, Wired t (if (t.line n).stowMade then
      Machine.modLine n (fun l => { l with payout := 0 }) t else t) := fun t => by
    split
    · exact .modLine n _ t
    · exact .refl t
  exact (h1.trans (h2 _)).trans (.enterState n _ _)

theorem Wired.renderReturn (n : LineId) (r : RenderReturn) (s : State) : Wired s (renderReturn n r s) := by
  unfold Machine.renderReturn
  split <;> exact .transition n _ _ s

theorem Wired.renderEntry (n : LineId) (r : RenderReturn) (s : State) : Wired s (renderEntry n r s) :=
  (((Wired.enterState n _ s).trans (.partOrder n _ _ _)).trans (.setLineNotice n _)).trans (.settle n _)

theorem Wired.sampleEvent (n : LineId) (s : State) : Wired s (sampleEvent n s) := by
  unfold Machine.sampleEvent
  (repeat' split) <;> first
    | with_reducible exact .transition n _ _ s
    | with_reducible exact .faultLine n _ _ s
    | with_reducible exact .renderEntry n _ s
    | with_reducible exact .renderReturn n _ s
    | with_reducible exact .refl s
    | with_reducible exact (Wired.deriveLine n s).trans (.settle n _)

theorem Wired.renderStepOn (n : LineId) (r : RenderReturn) (used : Nat) (s : State) :
    Wired s (renderStepOn n r used s) :=
  ((Wired.modLine n (fun l => { l with state := .rendering r (used + 1) }) s).trans
    (.partOrder n .ease .renderStep _)).trans (.askLine n _)

theorem Wired.runComplete (n : LineId) (s : State) : Wired s (runComplete n s) := by
  unfold Machine.runComplete
  split
  · exact .transition n _ _ s
  · split
    · exact .renderStepOn n _ _ s
    · exact (Wired.faultLine n _ _ s).trans (.raiseCause _ _ _)
  · exact (Wired.rewindComplete n s).trans (.settle n _)
  all_goals exact .refl s

theorem Wired.stallEvent (n : LineId) (s : State) : Wired s (stallEvent n s) := by
  unfold Machine.stallEvent
  split <;> first | with_reducible exact .faultLine n _ _ s | with_reducible exact .refl s

theorem Wired.haulTimeOutEvent (n : LineId) (s : State) : Wired s (haulTimeOutEvent n s) := by
  unfold Machine.haulTimeOutEvent
  split <;> first | with_reducible exact .faultLine n _ _ s | with_reducible exact .refl s

theorem Wired.slipTimeOutEvent (n : LineId) (s : State) : Wired s (slipTimeOutEvent n s) := by
  unfold Machine.slipTimeOutEvent
  split <;> first | with_reducible exact .faultLine n _ _ s | with_reducible exact .refl s

theorem Wired.creepEvent (n : LineId) (s : State) : Wired s (creepEvent n s) := by
  unfold Machine.creepEvent
  split <;> first | with_reducible exact .faultLine n _ _ s | with_reducible exact .refl s

theorem Wired.mismatchEvent (n : LineId) (s : State) : Wired s (mismatchEvent n s) := by
  unfold Machine.mismatchEvent
  split <;> first | with_reducible exact .faultLine n _ _ s | with_reducible exact .refl s

theorem Wired.stowMadeEvent (n : LineId) (s : State) : Wired s (stowMadeEvent n s) := by
  unfold Machine.stowMadeEvent
  split <;> first | with_reducible exact .transition n _ _ s | with_reducible exact .refl s

theorem Wired.stowLostEvent (n : LineId) (s : State) : Wired s (stowLostEvent n s) := by
  unfold Machine.stowLostEvent
  split <;> first | with_reducible exact .faultLine n _ _ s | with_reducible exact .refl s

/-! ### The scan -/

theorem Wired.storeSample (n : LineId) (raw : Nat) (s : State) : Wired s (storeSample n raw s) := by
  unfold Machine.storeSample
  dsimp only
  split <;> exact .modLine n _ s

theorem Wired.lineSample (n : LineId) (probe : Bool) (raw : Nat) (s : State) :
    Wired s (lineSample n probe raw s) := by
  have h1 := Wired.storeSample n raw s
  unfold Machine.lineSample
  dsimp only
  split
  · exact (h1.trans (.sampleEvent n _)).trans (.sampleEntry n probe _)
  · exact h1.trans (.sampleEntry n probe _)

theorem Wired.setPass (p : Pass) (s : State) : Wired s (setPass p s) := .withScan _ s

theorem Wired.setRef (r : RefState) (c : Nat) (s : State) : Wired s (setRef r c s) := .withScan _ s

theorem Wired.lineConversion (raw : Nat) (s : State) : Wired s (lineConversion raw s) := by
  unfold Machine.lineConversion
  (repeat' split) <;> first
    | with_reducible exact .refl s
    | with_reducible exact (Wired.setPass _ s).trans (.lineSample _ _ _ _)

theorem Wired.nextProbe (resume : Option Nat) (s : State) : Wired s (nextProbe resume s) := by
  unfold Machine.nextProbe
  (repeat' split) <;> first
    | with_reducible exact .beginProbe _ _ s
    | with_reducible exact .setPass _ s

theorem Wired.probeConversion (raw : Nat) (s : State) : Wired s (probeConversion raw s) := by
  unfold Machine.probeConversion
  (repeat' split) <;> first
    | with_reducible exact .refl s
    | with_reducible exact (Wired.lineSample _ _ _ s).trans (.nextProbe _ _)

theorem Wired.pacingEvent (s : State) : Wired s (pacingEvent s) := by
  have h1 := Wired.withScan { s.scan with pacing := some (s.ticksFor (pacingPeriod s.image)) } s
  unfold Machine.pacingEvent
  dsimp only
  (repeat' split) <;> first
    | with_reducible exact h1.trans (.setPass _ _)
    | with_reducible exact h1.trans (.setBerthNotice _ _)

theorem Wired.askFitted (s : State) : Wired s (askFitted s) :=
  .eachLine (fun n t => by
    split
    · exact .askLine n t
    · exact .refl t) s

theorem Wired.enterRefFault (s : State) : Wired s (enterRefFault s) :=
  (((Wired.setRef .fault 0 s).trans (.modLines _ _)).trans (.raiseCause _ _ _)).trans (.askFitted _)

theorem Wired.endCause (c : LockdownCause) (s : State) : Wired s (endCause c s) := .setCauses _ _ s

theorem Wired.clearRefFault (s : State) : Wired s (clearRefFault s) :=
  ((((Wired.setRef .ok 0 s).trans (.modLines _ _)).trans (.endCause _ _)).trans (.askFitted _)).trans
    (.askBerth _)

theorem Wired.judgeReference (raw : Nat) (s : State) : Wired s (judgeReference raw s) := by
  unfold Machine.judgeReference
  (repeat' split) <;> first
    | with_reducible exact .setRef _ _ s
    | with_reducible exact .enterRefFault s
    | with_reducible exact .clearRefFault s

theorem Wired.setStage (g : Stage) (s : State) : Wired s (setStage g s) := .of_same rfl rfl rfl

theorem Wired.setDivider (d : Nat) (s : State) : Wired s (setDivider d s) := .withReport _ s

theorem Wired.deriveAll (s : State) : Wired s (deriveAll s) :=
  .eachLine (fun n t => by
    split
    · exact (Wired.deriveLine n t).trans (.settle n _)
    · exact .refl t) s

theorem Wired.finishStartUp (s : State) : Wired s (finishStartUp s) :=
  ((((((Wired.setStage .derive s).trans (.deriveAll _)).trans (.setStage .done _)).trans
    (.leaveStarting _)).trans (.setBerthNotice _ _)).trans (.eachLine (fun n t => .askLine n t) _)).trans
      (.askBerth _)

theorem Wired.refresh (s : State) : Wired s (refresh s) := by
  unfold Machine.refresh
  split
  · exact (Wired.setDivider 0 s).trans (.askFitted _)
  · exact .setDivider _ s

theorem Wired.passComplete (s : State) : Wired s (passComplete s) := by
  unfold Machine.passComplete
  (repeat' split) <;> first
    | with_reducible exact .finishStartUp s
    | with_reducible exact .refl s
    | with_reducible exact .refresh s

theorem Wired.referenceConversion (raw : Nat) (s : State) : Wired s (referenceConversion raw s) := by
  unfold Machine.referenceConversion
  dsimp only
  (repeat' split) <;> first
    | with_reducible exact .refl s
    | with_reducible exact ((Wired.judgeReference raw s).trans (.passComplete _)).trans (.setPass _ _)

theorem Wired.clearRecords (s : State) : Wired s (clearRecords s) :=
  .modLines (fun _ l => l.stale.emptyRing) s

theorem Wired.takePlan (s : State) : Wired s (takePlan s) := .withScan _ s

theorem Wired.startPacing (s : State) : Wired s (startPacing s) := .withScan _ s

theorem Wired.returnProbe (s : State) : Wired s (returnProbe s) := by
  unfold Machine.returnProbe
  split <;> first
    | with_reducible exact .modLine _ _ s
    | with_reducible exact .refl s

theorem Wired.dropProbes (s : State) : Wired s (dropProbes s) := .modLines _ s

theorem Wired.restartScan (s : State) : Wired s (restartScan s) :=
  (((((Wired.returnProbe s).trans (.dropProbes _)).trans (.clearRecords _)).trans
    (.takePlan _)).trans (.startPacing _)).trans (.nextProbe _ _)

theorem Wired.prepareScan (s : State) : Wired s (prepareScan s) :=
  ((Wired.clearRecords s).trans (.takePlan _)).trans (.withScan _ _)

theorem Wired.startFirstPass (s : State) : Wired s (startFirstPass s) :=
  ((Wired.setStage .firstPass s).trans (.setPass _ _)).trans (.startPacing _)

/-! ### The profile block -/

theorem Wired.applyProfile (s : State) : Wired s (applyProfile s) := .modLines _ s

theorem Wired.askChanged (old s : State) : Wired s (askChanged old s) :=
  .eachLine (fun n t => by
    split
    · exact .refl t
    · exact .askLine n t) s

theorem Wired.recordOutcome (o : ProfileOutcome) (s : State) : Wired s (recordOutcome o s) :=
  ((Wired.withProfile { s.profile with outcome := o } s).trans (.setBerthNotice _ _)).trans (.askBerth _)

theorem Wired.setActive (img : List Word) (src : ProfileSource) (s : State) :
    Wired s (setActive img src s) := .withProfile _ s

theorem Wired.clearLoad (s : State) : Wired s (clearLoad s) := .withProfile _ s

theorem Wired.activate (img : List Word) (s : State) : Wired s (activate img s) :=
  ((((((Wired.setActive img .loaded s).trans (.applyProfile _)).trans (.restartScan _)).trans
    (.setDivider 0 _)).trans (.endCause _ _)).trans (.recordOutcome _ _)).trans (.askChanged _ _)

theorem Wired.askFetch (f : Fetch) (s : State) : Wired s (askFetch f s) := ⟨rfl, rfl, rfl, rfl, rfl, rfl⟩

theorem Wired.adoptFrom (k : Nat) (s : State) : Wired s (adoptFrom k s) := by
  unfold Machine.adoptFrom
  split
  · exact .askFetch _ s
  · exact .startFirstPass s

theorem Wired.endStartUpLoad (img : List Word) (src : ProfileSource) (o : ProfileOutcome) (s : State) :
    Wired s (endStartUpLoad img src o s) := by
  have h1 := (((Wired.setActive img src s).trans (.applyProfile _)).trans (.prepareScan _)).trans
    (.setDivider 0 _)
  have h2 := fun t => ((Wired.recordOutcome o t).trans (.setStage .adoptRead _)).trans (.adoptFrom 0 _)
  unfold Machine.endStartUpLoad
  dsimp only
  split
  · exact (h1.trans (.endCause _ _)).trans (h2 _)
  · exact h1.trans (h2 _)

theorem Wired.discardFetch (s : State) : Wired s (discardFetch s) := by
  unfold Machine.discardFetch
  split
  · rename_i h
    exact ⟨rfl, rfl, rfl, rfl, by rw [h]; rfl, by rw [h]; rfl⟩
  all_goals exact ⟨rfl, rfl, rfl, rfl, rfl, rfl⟩

theorem Wired.startLoad (s : State) : Wired s (startLoad s) :=
  (Wired.withProfile { s.profile with load := .loading 0, buffer := [], sum := 0 } s).trans (.askFetch _ _)

theorem Wired.commitWord (s : State) : Wired s (commitWord s) := by
  unfold Machine.commitWord
  (repeat' split) <;> first
    | with_reducible exact (Wired.startLoad s).trans (.askBerth _)
    | with_reducible exact (Wired.discardFetch s).trans (.startLoad _)
    | with_reducible exact .recordOutcome _ s

theorem Wired.endLoad (img : List Word) (sum : Word) (s : State) : Wired s (endLoad img sum s) := by
  have h1 := (Wired.clearLoad s).trans (.askBerth _)
  unfold Machine.endLoad
  dsimp only
  (repeat' split) <;> first
    | with_reducible exact h1.trans (.endStartUpLoad _ _ _ _)
    | with_reducible exact h1.trans (.recordOutcome _ _)
    | with_reducible exact h1.trans (.activate _ _)

theorem Wired.deliverImage (v : Word) (s : State) : Wired s (deliverImage v s) := by
  unfold Machine.deliverImage
  dsimp only
  (repeat' split) <;> first
    | with_reducible exact .refl s
    | with_reducible exact (Wired.withProfile _ s).trans (.askFetch _ _)
    | with_reducible exact .endLoad _ _ s

theorem Wired.deliver (f : Fetch) (v : Word) (s : State) : Wired s (deliver f v s) := by
  unfold Machine.deliver
  split
  · exact .deliverImage v s
  · exact (Wired.recordHost _ _ s).trans (.adoptFrom _ _)

theorem Wired.abortLoad (s : State) : Wired s (abortLoad s) := by
  have h1 := ((Wired.discardFetch s).trans (.clearLoad _)).trans (.askBerth _)
  unfold Machine.abortLoad
  dsimp only
  (repeat' split) <;> first
    | with_reducible exact .refl s
    | with_reducible exact h1.trans (.endStartUpLoad _ _ _ _)
    | with_reducible exact h1.trans (.recordOutcome _ _)

theorem Wired.clampSteps (s : State) : Wired s (clampSteps s) :=
  Wired.eachLine (fun n t => by
    unfold Machine.clampLine
    dsimp only
    split
    · exact .refl t
    · exact (Wired.modLine n _ t).trans (.askLine n _)) s

theorem Wired.reevaluateChanged (old s : State) : Wired s (reevaluateChanged old s) :=
  reevaluateChanged_keeps (P := fun t => Wired s t) (fun t ht => ht.trans (.reevaluate t)) (.refl s)

theorem Wired.mismatch (s : State) : Wired s (mismatch s) := by
  have h1 := (((Wired.setActive fallbackImage .fallback s).trans (.applyProfile _)).trans
    (.reevaluateChanged s _)).trans (.clampSteps _)
  have h2 : ∀ t : State, Wired t (Machine.askChanged s (Machine.askBerth (Machine.raiseCause
      .profileFault true (Machine.recordOutcome .verifyFailed (Machine.setDivider 0 t))))) :=
    fun t => ((((Wired.setDivider 0 t).trans (.recordOutcome _ _)).trans (.raiseCause _ _ _)).trans
      (.askBerth _)).trans (.askChanged _ _)
  unfold Machine.mismatch
  dsimp only
  split
  · exact (h1.trans (.prepareScan _)).trans (h2 _)
  · exact (h1.trans (.restartScan _)).trans (h2 _)

theorem Wired.verifyEvent (s : State) : Wired s (verifyEvent s) := by
  have h1 := Wired.withProfile { s.profile with verify := some (s.ticksFor Config.verifyMs) } s
  unfold Machine.verifyEvent
  dsimp only
  split
  · exact h1
  · exact h1.trans (.mismatch _)

/-! ### Resets and supply -/

/-- A reset that leaves the supply up keeps the host's transfers (R161). -/
theorem Wired.takeReset {c : ResetCause} (h : c.clearsRetained = false) (s : State) :
    Wired s (takeReset c s) := by
  have h1 := Wired.modLines (fun _ => Line.afterReset c) s
  have hd : ∀ d : Option DTransfer, hostAtPort (d.map DTransfer.afterReset) = hostAtPort d := fun d => by
    rcases d with _ | _ | _ | _ | _ <;> rfl
  refine h1.trans ?_
  unfold Machine.takeReset Bus.afterReset
  simp only [h]
  exact ⟨rfl, rfl, rfl, rfl, hd _, by simp⟩

theorem Wired.sampleStraps (s : State) : Wired s (sampleStraps s) := ⟨rfl, rfl, rfl, rfl, rfl, rfl⟩

theorem Wired.setStraps (v : BitVec 6) (s : State) : Wired s (setStraps v s) := .of_same rfl rfl rfl

theorem Wired.commandReset (s : State) : Wired s (commandReset s) :=
  ((Wired.takeReset rfl s).trans (.sampleStraps _)).trans (.setStage .selfTest _)

theorem Wired.pinResetEvent (straps : BitVec 6) (s : State) : Wired s (pinResetEvent straps s) := by
  unfold Machine.pinResetEvent
  split
  · exact (((Wired.setStraps straps s).trans (.takeReset rfl _)).trans (.sampleStraps _)).trans
      (.withSupply (v := { (Machine.sampleStraps (Machine.takeReset .pin (Machine.setStraps straps
        s))).supply with pinHeld := true, pinTaken := true }) rfl)
  · exact .refl s

theorem Wired.selfTestEvent (pass : Bool) (s : State) : Wired s (selfTestEvent pass s) := by
  unfold Machine.selfTestEvent
  (repeat' split) <;> first
    | with_reducible exact .refl s
    | with_reducible exact (Wired.setStage _ s).trans (.startLoad _)
    | with_reducible exact (Wired.toPhase _ s).trans (.recordOutcome _ _)

theorem Wired.setSupplyFlags (a b : Bool) (s : State) : Wired s (setSupplyFlags a b s) :=
  .of_same rfl rfl rfl

theorem Wired.supplyWarningEvent (s : State) : Wired s (supplyWarningEvent s) := by
  unfold Machine.supplyWarningEvent
  split
  · exact .refl s
  · exact (((Wired.setSupplyFlags _ _ s).trans (.setBerthNotice _ _)).trans (.raiseCause _ _ _)).trans
      (.askBerth _)

theorem Wired.supplyRecoveryEvent (s : State) : Wired s (supplyRecoveryEvent s) := by
  unfold Machine.supplyRecoveryEvent
  split
  · exact ((Wired.setSupplyFlags _ _ s).trans (.endCause _ _)).trans (.askBerth _)
  · exact .refl s

/-! ### Screening, requests, acknowledge -/

theorem Wired.useLatch (n : LineId) (k : OrderKind) (s : State) : Wired s (useLatch n k s) := by
  unfold Machine.useLatch
  split
  · exact .modLine n _ s
  · exact .refl s

theorem Wired.passOrder (n : LineId) (k : OrderKind) (t : Tag) (arg : Nat) (s : State) :
    Wired s (passOrder n k t arg s) := by
  have h1 := (((Wired.recordHost n ⟨some (t, k), some .passed, displacedTag s n⟩ s).trans
    (.supersede n _)).trans (.placePair (makePair n k t arg) _)).trans (.applyEffect n k arg _)
  unfold Machine.passOrder
  dsimp only
  split
  · exact h1
  · exact h1.trans (.settle n _)

theorem Wired.passRestate (n : LineId) (t : Tag) (s : State) : Wired s (passRestate n t s) :=
  (((Wired.recordHost n _ s).trans (.supersede n _)).trans (.deriveLine n _)).trans (.settle n _)

theorem Wired.completeOrder (n : LineId) (k : OrderKind) (t : Tag) (o : Origin) (latch : Option Latch)
    (hold : Bool) (s : State) : Wired s (completeOrder n k t o latch hold s) := by
  unfold Machine.completeOrder
  (repeat' split) <;> first
    | with_reducible exact .refuse n _ _ s
    | with_reducible exact .passOrder n _ t _ s
    | with_reducible exact .holdOrder n _ t o s
    | with_reducible exact .passRestate n t s

theorem Wired.judgeOrder (n : LineId) (k : OrderKind) (t : Tag) (o : Origin) (latch : Option Latch)
    (s : State) : Wired s (judgeOrder n k t o latch s) := by
  unfold Machine.judgeOrder
  (repeat' split) <;> first
    | with_reducible exact .refuse n _ _ s
    | with_reducible exact .completeOrder n k t o latch _ s

theorem Wired.screen (n : LineId) (k : OrderKind) (t : Tag) (o : Origin) (s : State) :
    Wired s (screen n k t o s) := by
  have h1 := Wired.useLatch n k s
  unfold Machine.screen
  (repeat' split) <;> first
    | with_reducible exact h1.trans (.refuse n _ _ _)
    | with_reducible exact .refl s
    | with_reducible exact h1.trans (.judgeOrder n k t o _ _)

theorem Wired.writeOrder (n : LineId) (w : Word) (be : ByteEnables) (s : State) :
    Wired s (writeOrder n w be s) := by
  unfold Machine.writeOrder
  (repeat' split) <;> first
    | with_reducible exact .refuse n _ _ s
    | with_reducible exact .screen n _ _ _ s

theorem Wired.writeGroup (w : Word) (be : ByteEnables) (s : State) : Wired s (writeGroup w be s) := by
  unfold Machine.writeGroup
  split
  · exact .setBerthNotice _ s
  · exact .eachLine (fun n t => by
      split
      · exact .screen n _ _ _ t
      · exact .refl t) s

theorem Wired.refuseRequest (r : RequestRefusal) (s : State) : Wired s (refuseRequest r s) :=
  ((Wired.withBerth { s.berth with refusal := some r } s).trans (.setBerthNotice _ _)).trans (.askBerth _)

theorem Wired.resumeBerth (s : State) : Wired s (resumeBerth s) :=
  (Wired.setCauses 0 0 s).trans (.toPhase _ _)

theorem Wired.ruling (q : Request) (s : State) : ∀ c t, ruling q s = .when c t → Wired s t := by
  intro c t
  unfold Machine.ruling
  split <;> intro e <;> first
    | cases e; with_reducible exact .raiseCause _ _ s
    | cases e; with_reducible exact .resumeBerth s
    | cases e; with_reducible exact .commandReset s
    | cases e; with_reducible exact .toPhase _ s
    | cases e; with_reducible exact .changePhase _ Wired.flush s
    | cases e

theorem Wired.writeRequest (w : Word) (be : ByteEnables) (s : State) : Wired s (writeRequest w be s) := by
  unfold Machine.writeRequest
  split
  · exact .refuseRequest _ s
  · split
    · exact .refuseRequest _ s
    · rename_i hr
      split
      · exact .ruling _ s _ _ hr
      · exact .refuseRequest _ s

theorem Wired.clearNotices (w : Word) (s : State) : Wired s (clearNotices w s) :=
  (Wired.modLines (fun n l => { l with notice := l.notice && !ackNames w n }) s).trans (.withReport _ _)

theorem Wired.writeAcknowledge (w : Word) (be : ByteEnables) (s : State) :
    Wired s (writeAcknowledge w be s) := by
  have h2 : ∀ t : State, Wired t (if (ackBerth w).getLsbD BerthNotice.supplyWarning.code
      then Machine.setSupplyFlags t.supply.live false t else t) := fun t => by
    split
    · exact .setSupplyFlags _ _ t
    · exact .refl t
  have h3 : ∀ t : State, Wired t (Machine.eachLine (fun n u =>
      if (s.line n).notice && ackNames w n then Machine.askLine n u else u) t) := fun t =>
    Wired.eachLine (fun n u => by
      split
      · exact .askLine n u
      · exact .refl u) t
  have h4 : ∀ (c : Prop) [Decidable c] (t : State), Wired t (if c then Machine.askBerth t else t) :=
    fun c _ t => by
      split
      · exact .askBerth t
      · exact .refl t
  have h1 := Wired.clearNotices w s
  unfold Machine.writeAcknowledge
  split
  · dsimp only
    revert h1
    generalize Machine.clearNotices w s = a
    intro h1
    have h5 := h1.trans (h2 a)
    revert h5
    generalize (if (ackBerth w).getLsbD BerthNotice.supplyWarning.code
      then Machine.setSupplyFlags a.supply.live false a else a) = b
    intro h5
    have h6 := (h5.trans (.judgeAttn b)).trans (h3 _)
    revert h6
    generalize Machine.eachLine _ (Machine.judgeAttn b) = d
    intro h6
    exact h6.trans (h4 _ d)
  · exact .refl s

theorem Wired.writeCursor (w : Word) (be : ByteEnables) (s : State) : Wired s (writeCursor w be s) := by
  unfold Machine.writeCursor
  split
  · exact .withScan _ s
  · exact .refl s

theorem Wired.writeCommit (w : Word) (be : ByteEnables) (s : State) : Wired s (writeCommit w be s) := by
  unfold Machine.writeCommit
  split
  · exact .commitWord s
  · exact .refl s

theorem Wired.guarded {owner : State → State} (ho : ∀ t, Wired t (owner t)) (s : State) :
    Wired s (guarded owner s) := by
  unfold Machine.guarded
  split
  · exact .refl s
  · exact (Wired.withBerth _ s : Wired s (hostActivity s)).trans (ho _)

theorem Wired.strayWrite (s : State) : Wired s (strayWrite s) := by
  unfold Machine.strayWrite
  split
  · exact .refl s
  · exact .setBerthNotice _ s

/-! ### Expiries -/

theorem Wired.expiry (e : Expiry) (s : State) : Wired s (e.take s) := by
  cases e with
  | stall n => exact (Wired.modLine n _ s).trans (.stallEvent n _)
  | haul n => exact (Wired.modLine n _ s).trans (.haulTimeOutEvent n _)
  | slip n => exact (Wired.modLine n _ s).trans (.slipTimeOutEvent n _)
  | brake n => exact (Wired.modLine n _ s).trans (.mismatchEvent n _)
  | hold n =>
    simp only [Expiry.take, expireHold]
    split
    · exact (Wired.endEntry _ _ s).trans (.askBerth _)
    · exact .refl s
  | silence => exact .raiseCause _ _ s
  | pacing => exact .pacingEvent s
  | verify => exact .verifyEvent s
  | snap => exact ⟨rfl, rfl, rfl, rfl, rfl, rfl⟩

theorem Wired.expire (e : Expiry) (s : State) : Wired s (expire e s) := by
  unfold Machine.expire
  split
  · exact .expiry e s
  · exact .refl s

/-! ### Drum inputs -/

theorem Wired.pulseEdge (n : LineId) (outward : Bool) (gap : Nat) (s : State) :
    Wired s (pulseEdge n outward gap s) := by
  unfold Machine.pulseEdge pulseEvents
  (repeat' split) <;> first
    | with_reducible exact .modLine n _ s
    | with_reducible exact ((Wired.modLine n _ s).trans (.modLine n _ _)).trans (.runComplete n _)
    | with_reducible exact (Wired.modLine n _ s).trans (.creepEvent n _)

theorem Wired.stowMadeChange (n : LineId) (s : State) : Wired s (stowMadeChange n s) := by
  unfold Machine.stowMadeChange
  dsimp only
  (repeat' split) <;> first
    | with_reducible exact .refl s
    | with_reducible exact .modLine n _ s
    | with_reducible exact (Wired.modLine n _ s).trans (.stowMadeEvent n _)

theorem Wired.stowLostChange (n : LineId) (s : State) : Wired s (stowLostChange n s) := by
  unfold Machine.stowLostChange
  dsimp only
  (repeat' split) <;> first
    | with_reducible exact .refl s
    | with_reducible exact .modLine n _ s
    | with_reducible exact (Wired.modLine n _ s).trans (.stowLostEvent n _)

theorem Wired.onTick {f : State → State} (hf : ∀ t, Wired t (f t)) (s : State) : Wired s (onTick f s) :=
  ((Wired.of_same rfl rfl rfl : Wired s { s with atTick := true }).trans (hf _)).trans
    (.of_same rfl rfl rfl)

end Sys2Proof.Machine
end

