-- ==== Sys2Proof/Laws/Ported.lean ====
section
/-! SUPPORT. The arbiter serves every claim that stands, and what State.Ported says is kept by every
operation that ends with it. -/

namespace Sys2Proof.Machine

/-! ### The arbiter -/

theorem raiseSeq_bus (r : RecId) (s : State) : (raiseSeq r s).bus = s.bus := by
  unfold raiseSeq
  split <;> rfl

theorem raiseSeq_supply (r : RecId) (s : State) : (raiseSeq r s).supply = s.supply := by
  unfold raiseSeq
  split <;> rfl

theorem raiseSeq_pending (r : RecId) (s : State) : (raiseSeq r s).pending = s.pending := by
  unfold raiseSeq
  split <;> rfl

/-- What the arbiter leaves: commands, supply and the transfers outside as they were, UWAIT as it was,
and the D-port taken if it was. -/
structure Served (s t : State) : Prop where
  pending : t.pending = s.pending
  powered : t.supply.powered = s.supply.powered
  held : t.bus.held = s.bus.held
  uwait : t.uwait = s.uwait
  taken : s.bus.dport.isSome = true → t.bus.dport = s.bus.dport

theorem Served.refl (s : State) : Served s s := ⟨rfl, rfl, rfl, rfl, fun _ => rfl⟩

theorem recordWords_hostAtPort (r : RecId) (s : State) : hostAtPort (some (recordWords r s)) = false := by
  unfold recordWords
  split <;> rfl

theorem uwait_eq (u : State) : u.uwait = (u.bus.waiting.isSome || hostAtPort u.bus.dport) := by
  unfold State.uwait hostAtPort
  rcases u.bus.dport with _ | _ | _ | _ | _ <;> rfl

theorem Served.grantInternal {s : State} (h : s.bus.dport = none) : Served s (grantInternal s) := by
  unfold Machine.grantInternal
  split
  · refine ⟨rfl, rfl, rfl, ?_, fun e => by simp [h] at e⟩
    rw [uwait_eq, uwait_eq, h]
    rfl
  · refine ⟨raiseSeq_pending _ _, congrArg Supply.powered (raiseSeq_supply _ _),
      by simp only [grantRecord, raiseSeq_bus], ?_, fun e => by simp [h] at e⟩
    rw [uwait_eq, uwait_eq, h]
    simp only [grantRecord, recordWords_hostAtPort, raiseSeq_bus]
    rfl
  · exact .refl s

/-- The arbiter leaves what Served names (R151). -/
theorem Served.arbitrate (s : State) : Served s (arbitrate s) := by
  unfold Machine.arbitrate
  split
  · rename_i hf
    have h : s.bus.dport = none := by
      simp only [dportFree, Bool.and_eq_true, Option.isNone_iff_eq_none] at hf
      exact hf.2
    split
    · rename_i ho
      refine ⟨rfl, rfl, rfl, ?_, fun e => by simp [h] at e⟩
      rw [uwait_eq, uwait_eq, h]
      rfl
    · rename_i hw
      split
      · exact .grantInternal h
      · refine ⟨rfl, rfl, rfl, ?_, fun e => by simp [h] at e⟩
        rw [uwait_eq, uwait_eq, h, hw]
        rfl
    · exact .grantInternal h
  · exact .refl s

/-- With the supply up, the arbiter leaves the D-port idle only where nothing waits (R150). -/
theorem arbitrate_idle {s : State} (hp : s.supply.powered = true) (hd : (arbitrate s).bus.dport = none) :
    arbitrate s = s ∧ s.bus.orderLane = [] ∧ s.bus.waiting = none ∧ s.bus.fetch = none ∧
      eligibleRecord s = none := by
  have hin : ∀ (t : State), (grantInternal t).bus.dport = none →
      grantInternal t = t ∧ t.bus.fetch = none ∧ eligibleRecord t = none := by
    intro t ht
    unfold grantInternal at ht ⊢
    split at ht
    · cases ht
    · cases ht
    · rename_i h1 h2
      simp [h1, h2]
  unfold arbitrate at hd ⊢
  split at hd
  · rename_i hf
    rw [if_pos hf]
    split at hd
    · cases hd
    · split at hd
      · rename_i hi _ hc
        obtain ⟨_, h1, h2⟩ := hin s hd
        simp [internalWaits, h1, h2] at hc
      · cases hd
    · rename_i h1 h2
      obtain ⟨h3, h4, h5⟩ := hin s hd
      exact ⟨h3, h1, h2, h4, h5⟩
  · rename_i hf
    simp [dportFree, hp, hd] at hf

/-! ### What State.Ported says is kept -/

/-- After the arbiter, with the supply up and the transfers outside only under UWAIT. -/
theorem State.Ported.arbitrated {s : State} (hp : s.supply.powered = true)
    (hh : s.uwait = false → s.bus.held = []) : (arbitrate s).Ported where
  idle hd := by
    obtain ⟨h1, h2, h3, h4, h5⟩ := arbitrate_idle hp hd
    rw [h1]
    exact ⟨h2, h3, h4, h5⟩
  held hu := by
    have h := Served.arbitrate s
    rw [h.held]
    exact hh (h.uwait ▸ hu)
  down h := by
    rw [(Served.arbitrate s).powered, hp] at h
    cases h

/-- An owner's operation that the arbiter follows. -/
theorem State.Ported.wired {s t : State} (h : s.Ported) (hp : s.supply.powered = true) (hw : Wired s t) :
    (arbitrate t).Ported :=
  .arbitrated (hw.powered.trans hp) fun hu => hw.held.trans (h.held (hw.uwait ▸ hu))

theorem State.Ported.event {s : State} (h : s.Ported) {f : State → State} (hf : Wired s (f s)) :
    (event f s).Ported := by
  unfold Machine.event
  split
  · rename_i hp
    exact h.wired hp hf
  · exact h

theorem eligibleRecord_eq (s : State) : eligibleRecord s = s.bus.reportLane.find? fun r =>
    !(match s.bus.snap with | some l => l.record == r | none => false) := rfl

/-- What leaves bus path and supply level alone keeps it. -/
theorem State.Ported.of_same {s t : State} (h : s.Ported) (hb : t.bus = s.bus)
    (hs : t.supply.powered = s.supply.powered) : t.Ported where
  idle hd := by
    have := h.idle (hb ▸ hd)
    rw [eligibleRecord_eq] at this ⊢
    rw [hb]
    exact this
  held hu := by
    rw [hb]
    refine h.held ?_
    rw [uwait_eq, hb, ← uwait_eq] at hu
    exact hu
  down hp := by rw [hb]; exact h.down (hs ▸ hp)

/-- A transfer taken leaves commands, supply and the transfers outside as they were. -/
theorem takeTransfer_spec (t : Transfer) (s : State) : (takeTransfer t s).pending = s.pending ∧
    (takeTransfer t s).supply.powered = s.supply.powered ∧ (takeTransfer t s).bus.held = s.bus.held := by
  have hw : ∀ u, Wired s u → u.pending = s.pending ∧ u.supply.powered = s.supply.powered ∧
      u.bus.held = s.bus.held := fun u h => ⟨h.pending, h.powered, h.held⟩
  have hp : ∀ u, Wired s u → ∀ w, (passTransfer t w u).pending = s.pending ∧
      (passTransfer t w u).supply.powered = s.supply.powered ∧
      (passTransfer t w u).bus.held = s.bus.held := fun u h w => hw u h
  unfold takeTransfer
  split
  · unfold takeWrite
    split
    · exact hw _ (.guarded (fun u => .modLine _ _ u) s)
    · exact hw _ (.guarded (fun u => .writeOrder _ _ _ u) s)
    · exact hw _ (.guarded (fun u => .writeGroup _ _ u) s)
    · exact hw _ (.guarded (fun u => .writeRequest _ _ u) s)
    · exact hw _ (.guarded (fun u => .writeAcknowledge _ _ u) s)
    · exact hw _ (.guarded (fun u => .writeCursor _ _ u) s)
    · exact hw _ (.refl s)
    · exact hw _ (.guarded (fun u => .writeCommit _ _ u) s)
    · exact hw _ (.strayWrite s)
    · exact hp _ (.abortLoad s) _
    · exact hp _ (.refl s) _
  · unfold takeRead
    split
    · unfold readPort
      dsimp only
      split <;> exact ⟨rfl, rfl, rfl⟩
    · unfold lockRecord
      split <;> exact ⟨rfl, rfl, rfl⟩
    all_goals exact ⟨rfl, rfl, rfl⟩

theorem State.Ported.present {s : State} (h : s.Ported) (t : Transfer) : (present t s).Ported := by
  unfold Machine.present
  split
  · exact h
  · rename_i hp
    have hp : s.supply.powered = true := by simpa using hp
    split
    · rename_i hu
      refine ⟨fun hd => ?_, fun e => ?_, fun e => ?_⟩
      · obtain ⟨_, hw, _⟩ := h.idle hd
        rw [uwait_eq, hw, show s.bus.dport = none from hd] at hu
        cases hu
      · rw [uwait_eq] at hu e
        rw [hu] at e
        cases e
      · rw [hp] at e
        cases e
    · rename_i hu
      obtain ⟨_, h2, h3⟩ := takeTransfer_spec t s
      exact .arbitrated (h2.trans hp) fun _ => h3.trans (h.held (by simpa using hu))

theorem State.Ported.withHeld {s : State} (h : s.Ported) {ts : List Transfer}
    (ht : s.uwait = false → ts = []) : ({ s with bus := { s.bus with held := ts } } : State).Ported :=
  ⟨h.idle, ht, h.down⟩

/-- The transfers outside are taken until one waits (R149, log 5). -/
theorem State.Ported.drainHeld (ts : List Transfer) {s : State} (hp : s.supply.powered = true)
    (h : ({ s with bus := { s.bus with held := [] } } : State).Ported) : (drainHeld ts s).Ported := by
  induction ts generalizing s with
  | nil => exact h
  | cons t ts ih =>
    unfold Machine.drainHeld
    split
    · rename_i hu
      refine ⟨h.idle, fun e => ?_, h.down⟩
      rw [uwait_eq] at hu e
      rw [hu] at e
      cases e
    · obtain ⟨_, h2, _⟩ := takeTransfer_spec t s
      have h4 := Served.arbitrate (takeTransfer t s)
      refine ih (h4.powered.trans (h2.trans hp)) ⟨fun hd => ?_, fun _ => rfl, fun e => ?_⟩
      · obtain ⟨h5, h6⟩ := arbitrate_idle (h2.trans hp) hd
        rw [h5]
        exact h6
      · have e' : (Machine.arbitrate (takeTransfer t s)).supply.powered = false := e
        rw [h4.powered, h2, hp] at e'
        cases e'

theorem drainHeld_pending (ts : List Transfer) (s : State) : (drainHeld ts s).pending = s.pending := by
  induction ts generalizing s with
  | nil => rfl
  | cons t ts ih =>
    unfold drainHeld
    split
    · rfl
    · rw [ih, (Served.arbitrate _).pending, (takeTransfer_spec t s).1]

theorem releaseSnap_same (x : HostAccess) (s : State) : (releaseSnap x s).pending = s.pending ∧
    (releaseSnap x s).supply = s.supply := by
  unfold releaseSnap
  (repeat' split) <;> exact ⟨rfl, rfl⟩

theorem presentData_same (x : HostAccess) (w : Word) (s : State) :
    (presentData x w s).pending = s.pending ∧ (presentData x w s).supply = s.supply := by
  unfold presentData
  split <;> exact ⟨rfl, rfl⟩

theorem State.Ported.hostComplete {s : State} (h : s.Ported) (w : Word) : (hostComplete w s).Ported := by
  unfold Machine.hostComplete
  split
  · rename_i x hd
    have hp : s.supply.powered = true := by
      by_contra e
      rw [h.down (by simpa using e)] at hd
      cases hd
    have hp' : (presentData x w (releaseSnap x (freePort s))).supply.powered = true := by
      rw [(presentData_same _ _ _).2, (releaseSnap_same _ _).2]
      exact hp
    have h4 := Served.arbitrate (presentData x w (releaseSnap x (freePort s)))
    refine .drainHeld _ (h4.powered.trans hp') ⟨fun hd => ?_, fun _ => rfl, fun e => ?_⟩
    · obtain ⟨h5, h6⟩ := arbitrate_idle hp' hd
      rw [h5]
      exact h6
    · have e' : (Machine.arbitrate (presentData x w (releaseSnap x (freePort s)))).supply.powered = false := e
      rw [h4.powered, hp'] at e'
      cases e'
  all_goals exact h

theorem State.Ported.partComplete {s : State} (h : s.Ported) : (partComplete s).Ported := by
  have key : ∀ d, s.bus.dport = some d → hostAtPort (some d) = false → (arbitrate (freePort s)).Ported := by
    intro d hd hn
    have hp : s.supply.powered = true := by
      by_contra e
      rw [h.down (by simpa using e)] at hd
      cases hd
    refine .arbitrated hp fun hu => h.held ?_
    rw [uwait_eq] at hu ⊢
    rw [hd, hn]
    exact hu
  unfold Machine.partComplete
  split
  · rename_i e
    exact key _ e rfl
  · rename_i e
    exact key _ e rfl
  all_goals exact h

theorem State.Ported.fetchComplete {s : State} (h : s.Ported) (v : Word) : (fetchComplete v s).Ported := by
  unfold Machine.fetchComplete
  split
  · rename_i f discard hd
    have hp : s.supply.powered = true := by
      by_contra e
      rw [h.down (by simpa using e)] at hd
      cases hd
    have hh : (freePort s).uwait = false → (freePort s).bus.held = [] := fun hu => h.held (by
      rw [uwait_eq] at hu ⊢
      rw [hd]
      exact hu)
    split
    · exact .arbitrated hp hh
    · have hw := Wired.deliver f v (freePort s)
      exact .arbitrated (hw.powered.trans hp) fun hu => hw.held.trans (hh (hw.uwait ▸ hu))
  all_goals exact h

/-! ### Resets and the supply -/

/-- With the supply down and a reset taken, the bus path is empty (R161, R162). -/
theorem State.Ported.downReset {c : ResetCause} (hc : c.clearsRetained = true) (s : State) (v : Supply) :
    ({ takeReset c s with supply := v } : State).Ported := by
  have e : ({ takeReset c s with supply := v } : State).bus =
      { Bus.reset with base := s.bus.base, readData := s.bus.readData } := by
    unfold takeReset Bus.afterReset
    simp only [hc, if_true, eachLine_modLine_bus]
  refine ⟨fun _ => ?_, fun _ => by rw [e]; rfl, fun _ => by rw [e]; rfl⟩
  rw [eligibleRecord_eq, e]
  exact ⟨rfl, rfl, rfl, rfl⟩

theorem State.Ported.powerOnEvent (s : State) : (powerOnEvent s).Ported := .downReset rfl s _

theorem State.Ported.brownOutEvent {s : State} (h : s.Ported) : (brownOutEvent s).Ported := by
  unfold Machine.brownOutEvent
  split
  · exact .downReset rfl s _
  · exact h

theorem supplyRiseEvent_bus (straps : BitVec 6) (stow : BitVec 12) (s : State)
    (h : s.supply.powered = false) : (supplyRiseEvent straps stow s).bus = { s.bus with base := straps } ∧
      (supplyRiseEvent straps stow s).supply.powered = true ∧
      (supplyRiseEvent straps stow s).pending = s.pending := by
  have hb := eachLine_modLine_bus (fun n => Line.startDomain (stow.getLsbD n.val))
    (sampleStraps (setStraps straps s))
  have hp := eachLine_modLine_pending (fun n => Line.startDomain (stow.getLsbD n.val))
    (sampleStraps (setStraps straps s))
  unfold Machine.supplyRiseEvent
  rw [if_neg (by simp [h])]
  dsimp only
  revert hb hp
  generalize eachLine (fun n => modLine n (Line.startDomain (stow.getLsbD n.val)))
    (sampleStraps (setStraps straps s)) = u
  intro hb hp
  split
  · exact ⟨hb, rfl, hp⟩
  · exact ⟨hb, rfl, hp⟩

theorem State.Ported.supplyRiseEvent {s : State} (h : s.Ported) (straps : BitVec 6) (stow : BitVec 12) :
    (supplyRiseEvent straps stow s).Ported := by
  by_cases hp : s.supply.powered = true
  · unfold Machine.supplyRiseEvent
    rw [if_pos hp]
    exact h
  · have hp : s.supply.powered = false := by simpa using hp
    obtain ⟨e, e2, _⟩ := supplyRiseEvent_bus straps stow s hp
    have hd := h.down hp
    obtain ⟨h1, h2, h3, h4⟩ := h.idle hd
    refine ⟨fun _ => ?_, fun _ => ?_, fun c => ?_⟩
    · rw [eligibleRecord_eq, e]
      exact ⟨h1, h2, h3, h4⟩
    · rw [e]
      exact h.held (by rw [uwait_eq, h2, hd]; rfl)
    · rw [e2] at c
      cases c

theorem State.Ported.pinResetEvent {s : State} (h : s.Ported) (straps : BitVec 6) :
    (pinResetEvent straps s).Ported := by
  have hw := Wired.pinResetEvent straps s
  by_cases hp : (s.supply.powered && !s.supply.pinTaken) = true
  · have e : (Machine.pinResetEvent straps s).bus = { s.bus.afterReset .pin with base := straps } := by
      unfold Machine.pinResetEvent
      rw [if_pos hp]
      simp only [sampleStraps, takeReset, eachLine_modLine_bus, eachLine_modLine_supply, setStraps]
    refine ⟨fun hd => ?_, fun hu => hw.held.trans (h.held (hw.uwait ▸ hu)), fun c => ?_⟩
    · have hdn : s.bus.dport = none := by
        rw [e] at hd
        simpa [Bus.afterReset, ResetCause.clearsRetained] using hd
      rw [eligibleRecord_eq, hw.waiting, e]
      exact ⟨rfl, (h.idle hdn).2.1, rfl, rfl⟩
    · rw [hw.powered] at c
      simp [c] at hp
  · unfold Machine.pinResetEvent
    rw [if_neg hp]
    exact h

theorem State.Ported.resetnReleaseEvent {s : State} (h : s.Ported) : (resetnReleaseEvent s).Ported := by
  unfold Machine.resetnReleaseEvent
  dsimp only
  split <;> exact h.of_same rfl rfl

/-! ### The tick -/

/-- The count keeps the ports but for the lock's timer, which it neither sets nor clears. -/
theorem State.Ported.countDown {s : State} (h : s.Ported) (hp : s.supply.powered = true) :
    (countDown s).Ported ∧ (countDown s).supply.powered = true := by
  have hb := eachLine_modLine_bus (fun _ => Line.tick) s
  have hs := eachLine_modLine_supply (fun _ => Line.tick) s
  have e : (Machine.countDown s).bus =
      { s.bus with snap := s.bus.snap.map fun l => ⟨l.record, l.timer - 1⟩ } := by
    unfold Machine.countDown
    simp only [hb]
  have es : (Machine.countDown s).supply = s.supply := by
    unfold Machine.countDown
    simp only [hs]
  refine ⟨⟨fun hd => ?_, fun hu => ?_, fun c => ?_⟩, by rw [es]; exact hp⟩
  · rw [e] at hd
    obtain ⟨h1, h2, h3, h4⟩ := h.idle hd
    rw [eligibleRecord_eq] at h4 ⊢
    rw [e]
    refine ⟨h1, h2, h3, ?_⟩
    rw [← h4]
    cases s.bus.snap <;> rfl
  · rw [uwait_eq, e] at hu
    rw [e]
    exact h.held (by rw [uwait_eq]; exact hu)
  · rw [es, hp] at c
    cases c

theorem State.Ported.takeAllDue {s : State} (h : s.Ported) (hp : s.supply.powered = true) :
    (takeAllDue s).Ported ∧ (takeAllDue s).supply.powered = true := by
  have key : ∀ (es : List Expiry) (u : State), u.Ported ∧ u.supply.powered = true →
      (es.foldl takeDue u).Ported ∧ (es.foldl takeDue u).supply.powered = true := fun es u hu =>
    foldl_keeps (P := fun u => u.Ported ∧ u.supply.powered = true) (fun u x hu => by
      unfold takeDue
      split
      · have hw := Wired.expiry x u
        exact ⟨hu.1.wired hu.2 hw, (Served.arbitrate _).powered.trans (hw.powered.trans hu.2)⟩
      · exact hu) es hu
  have h1 := key (tickOrder s.ticks (dueNow { s with atTick := true })) { s with atTick := true }
    ⟨h.of_same rfl rfl, hp⟩
  unfold Machine.takeAllDue Machine.onTick
  dsimp only
  revert h1
  generalize List.foldl takeDue { s with atTick := true } _ = d
  intro h1
  exact ⟨h1.1.of_same rfl rfl, h1.2⟩

theorem State.Ported.count {s : State} (h : s.Ported) (hp : s.supply.powered = true) :
    (count s).Ported ∧ (count s).supply.powered = true := by
  unfold Machine.count
  rw [if_pos hp]
  have h1 := h.takeAllDue hp
  exact h1.1.countDown h1.2

theorem State.Ported.elapse {s : State} (h : s.Ported) (k : Nat) : (elapse k s).Ported := by
  by_cases hp : s.supply.powered = true
  · induction k generalizing s with
    | zero => exact h
    | succ k ih =>
      have h1 := h.count hp
      exact ih h1.1 h1.2
  · induction k with
    | zero => exact h
    | succ k ih =>
      have e : Machine.count s = s := by
        unfold Machine.count
        rw [if_neg hp]
      rw [Machine.elapse, e]
      exact ih

theorem State.Ported.tick {s : State} (h : s.Ported) : (tick s).Ported := by
  unfold Machine.tick
  split
  · rename_i hp
    have h1 := h.count hp
    exact (h1.1.takeAllDue h1.2).1
  · exact h

end Sys2Proof.Machine
end

