-- ==== Sys2Proof/Laws/Readings.lean ====
section
/-! SUPPORT. The readings of Safety.lean and the operations that compute them: one lemma for each. -/

namespace Sys2Proof.Machine

/-! ### What came together with a stow made -/

theorem stowComing_iff (s : State) (n : LineId) : s.stowComing n = true ↔ s.StowComes n := by
  unfold State.stowComing State.StowComes
  rw [List.any_eq_true]
  constructor
  · rintro ⟨⟨c, i⟩, hc, h⟩
    have hi := List.mem_zipIdx_iff_getElem?.mp hc
    dsimp only at h hi
    split at h
    · rename_i m back
      rw [Bool.and_eq_true, beq_iff_eq, decide_eq_true_iff] at h
      exact ⟨i, back, by rw [hi, h.1], h.2⟩
    · cases h
  · rintro ⟨i, back, hi, h⟩
    exact ⟨(.stowMade n back, i), List.mem_zipIdx_iff_getElem?.mpr hi, by simpa using h⟩

/-! ### The gates (R62 to R65) -/

theorem lineReady_iff (s : State) (n : LineId) : lineReady s n = true ↔ s.Ready n := by
  simp [lineReady, State.Ready, or_assoc]

theorem released_iff (st : LineState) :
    st.released = true ↔ st = .slack ∨ st = .rewinding ∨ st = .parked := by
  cases st <;> simp [LineState.released]

theorem rankOrder_iff (s : State) (n : LineId) : rankOrder s n = true ↔ s.Ranked n := by
  unfold rankOrder State.Ranked
  rw [List.all_eq_true]
  constructor
  · intro h m hf hr
    have := h m (mem_allLines m)
    rw [hf, decide_eq_true hr] at this
    exact (released_iff _).mp (by simpa using this)
  · intro h m _
    by_cases hf : (s.line m).fitted = true
    · by_cases hr : (s.line m).rank < (s.line n).rank
      · simp [(released_iff _).mpr (h m hf hr)]
      · simp [hr]
    · simp [Bool.eq_false_iff.mpr hf]

theorem foldl_max_spec (l : List Nat) (a : Nat) : a ≤ l.foldl max a ∧ (∀ x ∈ l, x ≤ l.foldl max a) ∧
    (l.foldl max a = a ∨ l.foldl max a ∈ l) := by
  induction l generalizing a with
  | nil => simp
  | cons y l ih =>
    obtain ⟨h1, h2, h3⟩ := ih (max a y)
    refine ⟨(le_max_left a y).trans h1, fun x hx => ?_, ?_⟩
    · rcases List.mem_cons.mp hx with rfl | hx
      · exact (le_max_right a x).trans h1
      · exact h2 x hx
    · rw [List.foldl_cons]
      rcases h3 with h3 | h3
      · rw [h3]
        rcases max_choice a y with c | c <;> rw [c] <;> simp
      · exact .inr (List.mem_cons_of_mem _ h3)

theorem foldl_min_spec (l : List Nat) (a : Nat) : l.foldl min a ≤ a ∧ (∀ x ∈ l, l.foldl min a ≤ x) ∧
    (l.foldl min a = a ∨ l.foldl min a ∈ l) := by
  induction l generalizing a with
  | nil => simp
  | cons y l ih =>
    obtain ⟨h1, h2, h3⟩ := ih (min a y)
    refine ⟨h1.trans (min_le_left a y), fun x hx => ?_, ?_⟩
    · rcases List.mem_cons.mp hx with rfl | hx
      · exact h1.trans (min_le_right a x)
      · exact h2 x hx
    · rw [List.foldl_cons]
      rcases h3 with h3 | h3
      · rw [h3]
        rcases min_choice a y with c | c <;> rw [c] <;> simp
      · exact .inr (List.mem_cons_of_mem _ h3)

theorem surgeSettled_iff (s : State) (n : LineId) : surgeSettled s n = true ↔ s.Settled n := by
  unfold surgeSettled State.Settled Line.span
  dsimp only
  by_cases h : (s.line n).ring.length = Config.ringDepth
  · rw [if_pos h]
    dsimp only
    rw [decide_eq_true_iff]
    generalize (s.line n).ring = r at h ⊢
    generalize surgeLimit s.image n = k
    obtain ⟨-, a2, a3⟩ := foldl_max_spec (r.map (·.tension)) 0
    generalize (r.map (·.tension)).foldl max 0 = top at a2 a3 ⊢
    obtain ⟨b1, b2, b3⟩ := foldl_min_spec (r.map (·.tension)) top
    generalize (r.map (·.tension)).foldl min top = bottom at b1 b2 b3 ⊢
    have up : ∀ x ∈ r, x.tension ≤ top := fun x hx => a2 _ (List.mem_map_of_mem hx)
    have down : ∀ x ∈ r, bottom ≤ x.tension := fun x hx => b2 _ (List.mem_map_of_mem hx)
    refine ⟨fun hk => ⟨h, fun x hx y hy => ?_⟩, fun ⟨_, hk⟩ => ?_⟩
    · have := up x hx
      have := down y hy
      omega
    · rcases a3 with a3 | a3
      · omega
      · obtain ⟨x, hx, ex⟩ := List.mem_map.mp a3
        rcases b3 with b3 | b3
        · omega
        · obtain ⟨y, hy, ey⟩ := List.mem_map.mp b3
          have := hk x hx y hy
          omega
  · rw [if_neg h]
    refine ⟨fun c => (by cases c), fun c => absurd c.1 h⟩

theorem gatesOpen_iff (s : State) (n : LineId) : gatesOpen s n = true ↔ s.Open n := by
  unfold gatesOpen State.Open
  rw [Bool.and_eq_true, Bool.and_eq_true, lineReady_iff, rankOrder_iff, surgeSettled_iff, and_assoc]

theorem closed_slipGates (s : State) (n : LineId) : s.Closed n (slipGates s n) := by
  refine ⟨?_, ?_, ?_, rfl, rfl⟩ <;> unfold slipGates <;> dsimp only <;>
    rw [Bool.not_eq_true', ← Bool.not_eq_true]
  · rw [lineReady_iff]
  · rw [rankOrder_iff]
  · rw [surgeSettled_iff]

/-- The closed-gate set is the one that names the closed gates (R61). -/
theorem closed_unique {s : State} {n : LineId} {g : Gates} (h : s.Closed n g) : g = slipGates s n := by
  obtain ⟨a, b, c, d, e⟩ := h
  obtain ⟨a', b', c', d', e'⟩ := closed_slipGates s n
  generalize slipGates s n = k at *
  rcases g with ⟨g1, g2, g3, g4, g5⟩
  rcases k with ⟨h1, h2, h3, h4, h5⟩
  dsimp only at *
  rw [Gates.mk.injEq]
  exact ⟨Bool.eq_iff_iff.mpr (a.trans a'.symm), Bool.eq_iff_iff.mpr (b.trans b'.symm),
    Bool.eq_iff_iff.mpr (c.trans c'.symm), d.trans d'.symm, e.trans e'.symm⟩

theorem tensionFree_iff (s : State) (n : LineId) : tensionFree s n = true ↔ s.Free n := by
  unfold tensionFree State.Free
  cases (s.line n).tension with
  | none => simp
  | some v => simp

/-! ### Probe requests -/

/-- The line whose request is taken is the lowest of those that ask (R96). -/
theorem lowestAsked_lt {s : State} {m : LineId} (h : lowestAsked s = some m) (k : LineId) (hk : k < m) :
    ¬ s.Asks k := by
  have key : ∀ p : LineId → Bool, allLines.find? p = some m → p k = false := by
    intro p hp
    obtain ⟨_, l, r, e, hl⟩ := List.find?_eq_some_iff_append.mp hp
    have hs : allLines.Pairwise (· < ·) := by decide
    have hm := mem_allLines k
    rw [e] at hm hs
    rcases List.mem_append.mp hm with h1 | h1
    · simpa using hl k h1
    · rcases List.mem_cons.mp h1 with h2 | h2
      · exact absurd hk (by rw [h2]; exact lt_irrefl _)
      · have := (List.pairwise_cons.mp (List.pairwise_append.mp hs).2.1).1 k h2
        exact absurd hk (not_lt.mpr (le_of_lt this))
  have := key _ h
  intro ⟨h1, h2⟩
  simp [h1, h2] at this

theorem lowestAsked_none {s : State} (h : lowestAsked s = none) (m : LineId) : ¬ s.Asks m := by
  have := List.find?_eq_none.mp h m (mem_allLines m)
  intro ⟨h1, h2⟩
  simp [h1, h2] at this

/-- A line that already waits joins without effect (R96). -/
theorem joinProbe_of_waiting {s : State} {n : LineId} (h : (s.line n).probeWaiting = true) :
    joinProbe n s = s := by
  have hl : ({ s.line n with probeWaiting := true } : Line) = s.line n := by rw [← h]
  unfold joinProbe modLine
  dsimp only
  rw [hl]
  have : s.lines.set n.val (s.line n) n.isLt = s.lines := Vector.set_getElem_self n.isLt
  rw [this]

theorem probesTaken_takeProbes (s : State) : ProbesTaken s (takeProbes s) := by
  unfold takeProbes
  split
  · rename_i m hm
    have ha : s.Asks m := lowestAsked_some hm
    refine ⟨fun h => ?_, fun k hk hlow hp => ?_⟩
    · rcases h with ⟨n, r, h⟩ | h
      · unfold requestProbe
        rw [h]
        exact joinProbe_of_waiting ha.1
      · exact absurd ha (h m)
    · have : k = m := le_antisymm (not_lt.mp fun c => hlow m c ha)
        (not_lt.mp fun c => lowestAsked_lt hm k c hk)
      subst this
      unfold requestProbe
      split
      · rename_i e
        rw [e]
        exact ⟨rfl, line_beginProbe .., fun j hj => (Kept.beginProbe hj _ s).line⟩
      · rename_i e
        rw [e]
        exact ⟨rfl, line_beginProbe .., fun j hj => (Kept.beginProbe hj _ s).line⟩
      · rename_i e
        exact absurd e (hp _ _)
  · rename_i h
    exact ⟨fun _ => rfl, fun m hm => absurd hm (lowestAsked_none h m)⟩

/-! ### Time -/

theorem due_iff (e : Expiry) (s : State) : e.due s = true ↔ e.StandsDue s := by
  cases e <;> simp [Expiry.due, Expiry.StandsDue, Option.any_eq_true]

theorem counted_countDown (s : State) : Counted s (countDown s) where
  lines n := line_eachLine_modLine (fun _ => Line.tick) n s
  rest := by
    have h : eachLine (fun n => modLine n Line.tick) s =
        { s with lines := (eachLine (fun n => modLine n Line.tick) s).lines } :=
      eachLine_keeps (P := fun u => u = { s with lines := u.lines }) (fun n u hu => by rw [hu]; rfl) rfl
    unfold countDown tickTimer
    rw [h]

end Sys2Proof.Machine
end

