-- ==== Sys2Proof/Laws/Resets.lean ====
section
/-! SUPPORT. What a reset leaves: the fields of the state after takeReset, and the values of every line. -/

namespace Sys2Proof.Machine

/-- Every line after a reset. -/
theorem line_takeReset (c : ResetCause) (s : State) (n : LineId) :
    (takeReset c s).line n = Line.afterReset c (s.line n) := by
  have h := line_eachLine_modLine (fun _ => Line.afterReset c) n s
  unfold takeReset
  dsimp only
  rw [line_mk, lines_get]
  exact h

/-- The rest of the state after a reset. -/
theorem takeReset_fields (c : ResetCause) (s : State) :
    (takeReset c s).queue = [] ∧ (takeReset c s).scan = Scan.reset ∧ (takeReset c s).berth = Berth.reset ∧
    (takeReset c s).profile = Profile.reset ∧ (takeReset c s).report = Reporting.reset ∧
    (takeReset c s).supply =
      { s.supply with stage := .reset, cause := c, live := false, latched := false } ∧
    (takeReset c s).bus = s.bus.afterReset c := by
  have h1 := eachLine_modLine_bus (fun _ => Line.afterReset c) s
  have h2 := eachLine_modLine_supply (fun _ => Line.afterReset c) s
  unfold takeReset
  dsimp only
  rw [h1, h2]
  exact ⟨rfl, rfl, rfl, rfl, rfl, rfl, rfl⟩

/-- Every reset leaves the values after reset. -/
theorem afterReset_takeReset (c : ResetCause) (s : State) : AfterReset c (takeReset c s) := by
  have hl := line_takeReset c s
  obtain ⟨f1, f2, f3, f4, f5, f6, f7⟩ := takeReset_fields c s
  generalize takeReset c s = t at *
  refine ⟨fun n => ?_, fun n => ?_, fun n => ?_, fun n => ?_, fun n => ?_, f1, f2, f3, f4, ?_, f5,
    by rw [f6]; exact ⟨rfl, rfl, rfl⟩⟩
  · rw [hl]; cases c <;> exact ⟨rfl, rfl, rfl, rfl⟩
  · rw [hl]; cases c <;> exact ⟨rfl, rfl, rfl⟩
  · rw [hl]; cases c <;> exact ⟨rfl, rfl, rfl, rfl, rfl, rfl⟩
  · rw [hl]; cases c <;> exact ⟨⟨rfl, rfl, rfl, rfl⟩, rfl, rfl⟩
  · rw [hl]; cases c <;> exact ⟨rfl, rfl⟩
  · rw [f7]; cases c <;> exact ⟨rfl, rfl, rfl, rfl, rfl⟩

/-- The values after reset do not hang on the rest of the supply block. -/
theorem AfterReset.withSupply {c : ResetCause} {t : State} (h : AfterReset c t) {v : Supply}
    (hv : v.cause = c ∧ v.live = false ∧ v.latched = false) : AfterReset c { t with supply := v } :=
  ⟨h.1, h.2, h.3, h.4, h.5, h.6, h.7, h.8, h.9, h.10, h.11, hv⟩

/-- The values after reset do not hang on the mailbox base. -/
theorem AfterReset.sampleStraps {c : ResetCause} {t : State} (h : AfterReset c t) :
    AfterReset c (sampleStraps t) :=
  ⟨h.1, h.2, h.3, h.4, h.5, h.6, h.7, h.8, h.9, h.10, h.11, h.12⟩

/-- A pin or command reset keeps the retained domain (R120). -/
theorem retainedKept_takeReset {c : ResetCause} (hc : c.clearsRetained = false) (s : State) :
    RetainedKept s (takeReset c s) := by
  intro n
  rw [line_takeReset]
  unfold Line.afterReset
  rw [if_neg (by simp [hc])]
  exact ⟨rfl, rfl, rfl, rfl, rfl⟩

end Sys2Proof.Machine
end

