-- ==== Sys2Proof/WellFormed.lean ====
section
/-! DEFINITION. Which commands are well formed: the word a row carries is of the row's kind, or of a
kind no row names (such a word may ride any row of its guarded word, log 6). -/

namespace Sys2Proof

open Sys2Proof.Machine (codeField)

/-- An order word of the row with kind code `c`: code `c`, or none of 1 to 8 (R38). -/
def orderRow (c : Nat) (w : Word) : Bool :=
  codeField w = c || codeField w = 0 || 8 < codeField w

/-- A group word of the row with kind code `c`: code `c`, or none of 1, 3, 5, 6 (R56). -/
def groupRow (c : Nat) (w : Word) : Bool :=
  codeField w = c || !([1, 3, 5, 6].contains (codeField w))

/-- A berth request word of the row with code `c`: code `c`, or none of 1 to 7 (R123). -/
def requestRow (c : Nat) (w : Word) : Bool :=
  codeField w = c || codeField w = 0 || 7 < codeField w

/-- The well-formed commands. -/
def WellFormed (i : Instr) : Bool :=
  match i with
  | .lock _ w _ => orderRow 1 w
  | .haul _ w _ => orderRow 2 w
  | .tend _ w _ => orderRow 3 w
  | .ease _ w _ => orderRow 4 w
  | .slip _ w _ => orderRow 5 w
  | .rewind _ w _ => orderRow 6 w
  | .park _ w _ => orderRow 7 w
  | .restate _ w _ => orderRow 8 w
  | .groupLock w _ => groupRow 1 w
  | .groupTend w _ => groupRow 3 w
  | .groupSlip w _ => groupRow 5 w
  | .groupRewind w _ => groupRow 6 w
  | .vacantRequest w _ => requestRow 1 w
  | .arrivalRequest w _ => requestRow 2 w
  | .securedRequest w _ => requestRow 3 w
  | .departureRequest w _ => requestRow 4 w
  | .lockdownRequest w _ => requestRow 5 w
  | .resume w _ => requestRow 6 w
  | .resetRequest w _ _ => requestRow 7 w
  | .argumentWordWrite _ _ _ | .acknowledgeWordWrite _ _ | .cursorWordWrite _ _
  | .samplePortRead _ | .commit _ _ | .strayWrite _ _ _ | .profileWindowWrite _ _ _
  | .statusRecordRead _ _ _ | .passedWrite _ _ _ | .hostTransferComplete _ | .partWriteComplete
  | .fetchComplete _ | .pulse _ _ _ | .brakeFeedbackChange _ _ | .stowMade _ _ | .stowLost _
  | .stall _ _ | .haulTimeOut _ _ | .slipTimeOut _ _ | .brakeMismatch _ _
  | .holdDeadlineExpiry _ _ | .pacingExpiry _ | .lineConversionComplete _ | .referenceConversionComplete _
  | .probeConversionComplete _ | .hostSilenceExpiry _ | .verification _ _
  | .snapshotLockTimerExpiry _ | .supplyWarning | .supplyRecovery | .powerOnReset
  | .brownOutReset | .supplyRise _ _ | .pinReset _ | .resetnRelease | .selfTestEnd _
  | .hostReadPassed _ _ => true

end Sys2Proof
end

