-- ==== Sys2Proof/Tests/Slice0.lean ====
section
/-! SUPPORT. The model's own tests: ill-formed commands, words and numbers worked out by hand from the
manual, and for every statement with hypotheses a state and operands that meet them. -/

namespace Sys2Proof.Tests

-- One theorem at a time: in parallel their threads outgrow the memory limit.
set_option Elab.async false

open Sys2Proof.Machine

/-! ### Helpers -/

/-- A fitted line in state `st`. -/
def lineIn (st : LineState) : Line := { Line.reset with fitted := true, state := st }

/-- Every line `l`, phase `p`, a loaded profile in force with the fallback's values, supply up. -/
def service (p : Phase) (l : Line) : State := { State.reset with
  lines := Vector.replicate 12 l
  berth := ⟨p, 0, 0, none, none⟩
  profile := { Profile.reset with source := .loaded }
  supply := { Supply.reset with stage := .done, powered := true } }

/-- The order word of a kind and a tag as a host composes it: check good, screen mark clear. -/
def hostWord (k : OrderKind) (t : Tag) : Word :=
  let b : Word := BitVec.ofNat 32 (k.code * 256 + t.toNat * 4096)
  b + (0xC3#8 - byteSum b).setWidth 32

/-- The row of a kind. -/
def rowOf (k : OrderKind) (n : LineId) (w : Word) : Instr :=
  match k with
  | .lock => .lock n w 15
  | .haul => .haul n w 15
  | .tend => .tend n w 15
  | .ease => .ease n w 15
  | .slip => .slip n w 15
  | .rewind => .rewind n w 15
  | .park => .park n w 15
  | .restate => .restate n w 15

/-- The group word of a code and a tag for line `n` alone. -/
def groupWord (code : Nat) (t : Tag) (n : LineId) : Word :=
  let b : Word := BitVec.ofNat 32 (code * 256 + t.toNat * 4096 + 2 ^ (20 + n.val))
  b + (0xC3#8 - byteSum b).setWidth 32

/-- The berth request word of a code. -/
def requestWord (code : Nat) : Word :=
  let b : Word := BitVec.ofNat 32 (code * 256 + (15 - code) * 4096)
  b + (0xC3#8 - byteSum b).setWidth 32

/-- Every row carries an order of its kind, to the lowest and the highest line, under either end of the
tags. -/
theorem carries (k : OrderKind) (n : LineId) (t : Tag) (h : (n = 0 ∧ t = 1) ∨ (n = 11 ∧ t = 255)) :
    Carries (rowOf k n (hostWord k t)) n k t .hostWord := by
  refine ⟨hostWord k t, ?_, ?_, ?_⟩
  · cases k <;> simp [OrderRow, rowOf]
  · rcases h with ⟨rfl, rfl⟩ | ⟨rfl, rfl⟩ <;> cases k <;> decide +kernel
  · rcases h with ⟨rfl, rfl⟩ | ⟨rfl, rfl⟩ <;> cases k <;> decide +kernel

/-- A group word that names one line carries its order. -/
theorem carries_group : Carries (.groupTend (groupWord 3 7 5) 15) 5 .tend 7 .groupWord :=
  ⟨_, Or.inr (Or.inl rfl), by decide +kernel, by decide +kernel⟩

theorem service_takesWords (p : Phase) (l : Line) (h : p.silent = false) : (service p l).takesWords :=
  ⟨rfl, rfl, h⟩

theorem lineIn_sound {st : LineState} : (lineIn st).Sound :=
  ⟨by simp [lineIn, Line.reset], Nat.zero_le 15, Nat.zero_le 15, Nat.zero_le 8, Nat.zero_le 65535,
   by simp [lineIn, Line.reset], by simp [lineIn, Line.reset], by simp [lineIn, Line.reset], by simp [lineIn, Line.reset],
   by simp [lineIn, Line.reset], by simp [lineIn, Line.reset], by simp [lineIn, Line.reset],
   by simp [lineIn, Line.reset]⟩

theorem service_line (p : Phase) (l : Line) (n : LineId) : (service p l).line n = l :=
  Vector.getElem_replicate _

theorem service_sound_of (p : Phase) {l : Line} (h : l.Sound) (hn : l.notice = false) :
    (service p l).Sound where
  line n := by rw [service_line]; exact h
  attn := by
    have : (service p l).anyNotice = false := by
      simp [State.anyNotice, hn, service_line]
      rfl
    rw [this]; rfl
  queueSize := by simp [service, State.reset]
  queueLines := by simp [service, State.reset]
  present := by simp [service, CauseSet.has]
  orderLines := by simp [service, State.reset, Bus.reset]
  reports := by simp [service, State.reset, Bus.reset]
  load := ⟨rfl, rfl⟩

theorem service_sound (p : Phase) (st : LineState) : (service p (lineIn st)).Sound :=
  service_sound_of p lineIn_sound rfl

/-- One entry in the queue, and whatever the scan does, leave the part sound. -/
theorem held_sound {s : State} (h : s.Sound) (e : Entry) (c : Scan) :
    ({ s with queue := [e], scan := c } : State).Sound :=
  ⟨h.line, h.attn, Nat.le_add_left 1 7, List.nodup_singleton _, h.present, h.orderLines,
    h.reports, h.load⟩

/-! ### Ill-formed commands, one for each check -/

theorem test_order_rows_refuse : [Instr.lock 0 (hostWord .haul 1) 15, .haul 0 (hostWord .lock 1) 15,
    .tend 0 (hostWord .ease 1) 15, .ease 0 (hostWord .tend 1) 15, .slip 0 (hostWord .rewind 1) 15,
    .rewind 0 (hostWord .slip 1) 15, .park 0 (hostWord .restate 1) 15,
    .restate 0 (hostWord .park 1) 15].all (fun i => !WellFormed i) = true := by decide +kernel

theorem test_group_rows_refuse : [Instr.groupLock (groupWord 3 1 0) 15, .groupTend (groupWord 1 1 0) 15,
    .groupSlip (groupWord 6 1 0) 15, .groupRewind (groupWord 5 1 0) 15].all
      (fun i => !WellFormed i) = true := by decide +kernel

theorem test_request_rows_refuse : [Instr.vacantRequest (requestWord 2) 15,
    .arrivalRequest (requestWord 1) 15, .securedRequest (requestWord 4) 15,
    .departureRequest (requestWord 3) 15, .lockdownRequest (requestWord 6) 15,
    .resume (requestWord 7) 15, .resetRequest (requestWord 6) 15 0].all
      (fun i => !WellFormed i) = true := by decide +kernel

theorem test_rows_accept : [Instr.lock 11 (hostWord .lock 255) 15, .restate 0 (hostWord .restate 1) 0,
    .groupRewind (groupWord 6 255 11) 15, .resetRequest (requestWord 7) 15 63, .lock 0 0x0000F0C3#32 15,
    .groupLock 0 15, .vacantRequest 0x00008F34#32 15].all WellFormed = true := by decide +kernel

/-! ### Words and numbers of the manual, worked by hand -/

/-- LOCK tag 0x11 has the bytes B1 11 01 00: check 0xC3 less 0x12 (09). -/
theorem test_lock_word : hostWord .lock 0x11 = 0x000111B1#32 ∧
    readOrder 0x000111B1#32 = some (.lock, 0x11#8) := by decide +kernel

/-- The same order as the part composes it, the screen mark set and the check made good over it (R47). -/
theorem test_composed_lock : composeOrder .lock 0x11 = 0x80011131#32 := by decide +kernel

/-- A group TEND that names lines 0, 1 and 6, tag 0x32: bytes 66 23 33 04 sum to 0xC0, so the check 0x69. -/
theorem test_group_word : readGroup 0x04332369#32 15 = some (.tend, 0x32#8) ∧
    (allLines.filter (groupNames 0x04332369#32)) = [0, 1, 6] := by decide +kernel

/-- Every code of a group word and of a request word, read as its kind and its request. -/
theorem test_codes : (List.range 16).map (fun c => readGroup (groupWord c 7 5) 15) =
      [none, some (.lock, 7), none, some (.tend, 7), none, some (.slip, 7), some (.rewind, 7)] ++
        List.replicate 9 none ∧
    (List.range 16).map (fun c => readRequest (requestWord c) 15) =
      [none, some .vacant, some .arrival, some .secured, some .departure, some .lockdown, some .resume,
        some .reset] ++ List.replicate 8 none := by decide +kernel

/-- Code 6 with the code inverted at bits 15:12: bytes 2D 96 00 00 (09). -/
theorem test_resume_word : requestWord 6 = 0x0000962D#32 ∧
    readRequest 0x0000962D#32 15 = some .resume := by decide +kernel

/-- The commit word of the manual (10, 12). -/
theorem test_commit_word : commitForm 0x00006E55#32 15 = true ∧ commitForm 0x00006E54#32 15 = false ∧
    commitForm 0x00006E55#32 7 = false := by decide +kernel

/-- An image with line 5's zero offset 400, span factor 12000 and limits of R87 and R88. -/
def lineFive : List Word :=
  (((fallbackImage.set 56 (BitVec.ofNat 32 (400 + 12000 * 65536))).set 57
    (BitVec.ofNat 32 (50 + 2000 * 65536))).set 58 (BitVec.ofNat 32 (4000 + 6000 * 65536)))

/-- The table of R87. -/
theorem test_tensions : [300, 410, 420, 1100, 2400, 2500, 4095].map (tensionOf lineFive 5) =
    [0, 29, 58, 2050, 5859, 6152, 10825] := by decide +kernel

/-- The classifications of R88, with band max and the render limit themselves. -/
theorem test_classes : [0, 29, 58, 2050, 5859, 6152, 10825, 4000, 6000, 50, 49].map (classOf lineFive 5) =
    [.slack, .slack, .low, .inBand, .high, .over, .over, .inBand, .high, .low, .slack] := by
  decide +kernel

/-- The fallback profile has 128 words, sums to 0 and is valid (R186, R191). -/
theorem test_fallback : fallbackImage.length = 128 ∧ imageSum fallbackImage = 0 ∧
    firstFailing fallbackImage 0 (fun _ => false) = none := by decide +kernel

/-- A step takes the front command: the supply rises and the part goes to its self-test (R199). -/
theorem test_start : ∃ u, step { State.reset with pending := [.supplyRise 0x2A 0xFFF] } = .next u ∧
    u.supply.stage = .selfTest ∧ u.bus.base = 0x2A ∧ (u.line 11).stowMade = true ∧ u.pending = [] :=
  ⟨_, rfl, by decide +kernel⟩

/-- A LOCK passed, and the same word again repeated (R46, R40). -/
theorem test_lock_then_repeat :
    let s := screen 4 .lock 9 .hostWord (service .arrival (lineIn (.paying 7)))
    (s.line 4).state = .standing ∧ (s.line 4).lastHost = ⟨some (9, .lock), some .passed, none⟩ ∧
    s.bus.orderLane = [⟨4, 0, composeOrder .lock 9⟩] ∧ screen 4 .lock 9 .hostWord s = s := by
  decide +kernel

/-- The pulses of a run: the last of an EASE ends it with a LOCK (R113, R21). -/
theorem test_last_pulse :
    let l := { lineIn (.paying 7) with run := some ⟨1, 7⟩, stall := some 3, cls := .high }
    let s := pulseEdge 4 true 200 (service .arrival l)
    (s.line 4).state = .locked ∧ (s.line 4).run = none ∧ (s.line 4).payout = 1 ∧
    s.bus.orderLane = [⟨4, 0, composeOrder .lock 0⟩] := by decide +kernel

/-- The last pulse of a rewind and a stow made that came with it, the pulse first: PARKED (R22, R113). With
a stow made that came alone the line is faulted. -/
theorem test_pulse_with_stow_made :
    let l := { lineIn .rewinding with run := some ⟨1, 9⟩ }
    let s := { service .departure l with pending := [.stowMade 4 1] }
    let u := { service .departure l with pending := [.stowMade 4 0] }
    ((pulseEdge 4 false 200 s).line 4).state = .parked ∧
    (stowMadeChange 4 (pulseEdge 4 false 200 s)).line 4 =
      { (pulseEdge 4 false 200 s).line 4 with stowMade := true, lengthUnknown := false } ∧
    ((pulseEdge 4 false 200 u).line 4).state = .faulted .stowMismatch := by decide +kernel

/-- A stall timer at its end faults the line, and not where a pulse has reloaded it first (R119). -/
theorem test_pulse_before_stall :
    let l := { lineIn (.paying 9) with run := some ⟨9, 9⟩, stall := some 0 }
    let s := service .arrival l
    ((s.after (.stall 4 0)).line 4).state = .faulted .stall ∧
    ((s.after (.pulse 4 true 200)).after (.stall 4 0)).line 4 = (s.after (.pulse 4 true 200)).line 4 := by
  decide +kernel

/-- A tick counts, and takes the one expiry that then stands due. -/
theorem test_tick :
    let s := modLine 4 (fun l => { l with state := .slipping, slip := some 1 })
      (service .departure (lineIn .locked))
    ∃ u, step s = .next u ∧ (u.line 4).state = .faulted .slipTimeout ∧ u.ticks = s.ticks + 1 :=
  ⟨_, rfl, by decide +kernel⟩

/-- Two ticks pass before the expiry that the command names (log 3). -/
theorem test_ticks_of_an_expiry :
    let s := modLine 4 (fun l => { l with state := .slipping, slip := some 2 })
      (service .departure (lineIn .locked))
    ((s.after (.slipTimeOut 4 1)).line 4).state = .slipping ∧
    ((s.after (.slipTimeOut 4 2)).line 4).state = .faulted .slipTimeout := by decide +kernel

/-- Eight held orders fill the queue, the ninth is refused (R45). -/
theorem test_queue_full :
    let s := (allLines.take 9).foldl (fun u n => screen n .slip 60 .groupWord u)
      (service .departure (lineIn .locked))
    s.queue.length = 8 ∧ (s.line 8).lastHost.outcome = some (.refused .queueFull) := by decide +kernel

/-- A held REWIND is forwarded when a sample brings its line to SLACK (R13, R62, R71). -/
theorem test_held_rewind :
    let l := { lineIn .slipping with
      cls := .slack, slackRun := 5, tension := some 3, payout := 40, lengthUnknown := false }
    let s := sampleEvent 4 (screen 4 .rewind 60 .hostWord (service .departure l))
    s.queue = [] ∧ (s.line 4).state = .rewinding ∧ (s.line 4).run = some ⟨40, 40⟩ ∧
    (s.line 4).lastHost.outcome = some .forwarded ∧
    s.bus.orderLane = [⟨4, 0, composeOrder .rewind 60⟩] := by decide +kernel

/-- The record of a FAULTED line with a refused order, and the berth record of LOCKDOWN (R180, R181). -/
theorem test_records :
    let l := { lineIn (.faulted .snag) with
      seq := 0x1234, tension := some 150, cls := .low, payout := 0x0321, notice := true
      lengthUnknown := false
      ring := List.replicate 7 ⟨150, .low⟩ ++ [⟨131, .low⟩], lastPart := some ⟨.lock, .snag⟩
      lastHost := ⟨some (0x5A, .tend), some (.refused .wrongState), none⟩ }
    let s := service .lockdown l
    recordWords 4 s = .record 4 0x088B1234 0x00268096 0x0C000321 0x071B5A34 ∧
    recordWords 12 { s with berth := ⟨.lockdown, 0x44, 0x04, none, some .notReady⟩ } =
      .record 12 0x000D0000 0x000C0444 0x00000FFF 0 := by decide +kernel

/-- A pacing period of 4 ms fails at word 1, and a line block's last word at 23 (R184, R185, R191). -/
theorem test_first_failing :
    firstFailing (fallbackImage.set 1 4) 0 (fun _ => true) = some 1 ∧
    firstFailing (fallbackImage.set 23 1) 0 (fun _ => true) = some 23 ∧
    firstFailing (fallbackImage.set 23 1) 0 (fun n => n != 7) = some 23 ∧
    firstFailing (fallbackImage.set 0 0x0007FF4C) 0 (fun n => n != 11) = some 0 := by decide +kernel

/-- What ADOPT_READ recovers from a LOCK as the part composes it, and from a RESTATE (R202). -/
theorem test_recovered : recoverOrder 0x80011131#32 = some (0x11, .lock) ∧
    recoverOrder (hostWord .restate 1) = none ∧ recoverOrder 0x000111B2#32 = none := by decide +kernel

/-! ### A state and operands for the hypotheses of every statement -/

theorem test_meets_EmptyQueueTicks : ∃ s u : State,
    (s.pending = [] ∧ s.supply.powered = false) ∧
    (u.pending = [] ∧ u.supply.powered = true ∧ u.atTick = false) ∧
    ¬ (Expiry.stall 11).StandsDue u ∧ ¬ (Expiry.hold 0).StandsDue u ∧ Expiry.silence.StandsDue u :=
  ⟨State.reset, { service .arrival (lineIn .locked) with berth := ⟨.arrival, 0, 0, some 0, none⟩ },
    by decide +kernel, by decide +kernel, by unfold Expiry.StandsDue; decide +kernel,
    fun ⟨_, h, _⟩ => (by cases h), rfl⟩

theorem test_meets_StepKeepsSound : ∃ s t : State, s.Sound ∧ s.Phased ∧ step s = .next t :=
  ⟨service .vacant (lineIn .parked), _, service_sound _ _,
    ⟨by decide +kernel, fun _ => rfl, fun h => absurd h (by decide), fun h => absurd h (by decide),
      fun h => absurd h (by decide)⟩, rfl⟩

theorem test_meets_StepKeepsPorted : ∃ s t : State, s.Ported ∧ step s = .next t :=
  ⟨State.reset, _, ⟨fun _ => by decide +kernel, fun _ => rfl, fun _ => rfl⟩, rfl⟩

/-- The supply up, and down with transfers that wait outside and a pin reset in force. -/
theorem test_meets_SupplyAndPinResets : ∃ s t u v : State,
    (s.supply.powered = true ∧ s.supply.pinTaken = false ∧ s.supply.stage ≠ .reset) ∧
    t.supply.pinTaken = true ∧
    (u.supply.powered = true ∧ u.supply.pinHeld = true ∧ u.supply.stage = .reset) ∧
    (v.supply.powered = false ∧ v.supply.pinHeld = true ∧ v.supply.stage = .reset ∧
      v.bus.held.length = 1) :=
  let s := service .vacant (lineIn .parked)
  let u := { s with supply := { s.supply with pinHeld := true, stage := .reset } }
  ⟨s, { s with supply := { s.supply with pinTaken := true } }, u,
    { u with supply := { u.supply with powered := false }, bus := { u.bus with held := [⟨true, 4096, 5, 15⟩] } },
    by decide +kernel⟩

theorem test_meets_CommandReset : (∃ i w, RequestRow i w 15 ∧ readRequest w 15 = some .reset) ∧
    ∀ p ∈ [Phase.vacant, .lockdown, .arrival, .secured, .departure], ∃ s,
      State.takesWords s ∧ s.berth.phase = p := by
  refine ⟨⟨.resume (requestWord 7) 15, requestWord 7, by simp [RequestRow], by decide +kernel⟩, fun p hp =>
    ⟨service p (lineIn .parked), service_takesWords p _ ?_, rfl⟩⟩
  revert p
  decide

theorem test_meets_SupplyRise : ∃ s : State, s.supply.powered = false := ⟨State.reset, rfl⟩

theorem test_meets_SelfTestEnd : ∃ s : State,
    s.supply.powered = true ∧ s.supply.stage = .selfTest ∧ s.berth.phase = .starting :=
  ⟨{ State.reset with supply := { Supply.reset with powered := true, stage := .selfTest } }, rfl, rfl, rfl⟩

/-- The fallback's words with the fitted mask `mask`, without the check word. -/
def maskedBody (mask : Nat) : List Word := fallbackBody.set 0 (BitVec.ofNat 32 (0x4C + 256 * mask))

/-- Word 127 about to be delivered in stage `g` to a load whose words so far are `body`. -/
def lastWord (p : Phase) (g : Stage) (body : List Word) : State :=
  { service p (lineIn .parked) with
    profile := { Profile.reset with load := .loading 127, buffer := body, sum := imageSum body }
    bus := { Bus.reset with dport := some (.fetch (.image 127) false) }
    supply := { Supply.reset with stage := g, powered := true } }

/-- An image that fits every line, one that fits none, and one that is rejected for its check word. -/
theorem test_meets_StartUpLoadEnds : ∀ v ∈ [(4095, true), (0, true), (4095, false)],
    ∃ w : Word, let s := lastWord .starting .profileLoad (maskedBody v.1)
    s.bus.dport = some (.fetch (.image 127) false) ∧ s.profile.load = .loading 127 ∧
    s.supply.stage = .profileLoad ∧ s.berth.phase = .starting ∧
    (firstFailing (s.profile.buffer ++ [w]) (s.profile.sum + w) (mayUnfit s)).isNone = v.2 ∧
    ∀ n, fittedBit (s.profile.buffer ++ [w]) n = (v.1 == 4095) := by
  intro v hv
  refine ⟨if v.2 then checkWord (maskedBody v.1) else 0, ?_⟩
  revert v
  decide +kernel

/-- FIRST_PASS about to end with one raw value out of the window before, line 0 fitted with its stow switch
at `stow`. -/
def firstPass (stow : Bool) : State :=
  let s := service .starting { lineIn .adopting with stowMade := stow }
  { s with
    scan := { s.scan with plan := [.line 0, .reference], pass := .running 1, refCount := 1 }
    supply := { s.supply with stage := .firstPass } }

theorem test_meets_FirstPassEnds : ∀ stow : Bool, ∀ good : Bool, ∃ (raw : BitVec 12) (s : State) (p : Nat),
    s.supply.powered = true ∧ s.supply.stage = .firstPass ∧ s.berth.phase = .starting ∧ s.queue = [] ∧
    s.scan.pass = .running p ∧ s.scan.plan[p]? = some .reference ∧ s.scan.ref = .ok ∧
    decide (referenceLow s.image ≤ raw.toNat ∧ raw.toNat ≤ referenceHigh s.image) = good ∧
    1 ≤ s.scan.refCount ∧ s.berth.causes = 0 ∧ s.bus.orderLane = [] ∧
    (s.line 0).fitted = true ∧ (s.line 0).stowMade = stow ∧ (s.line 0).brakeSet = false := by
  intro stow good
  refine ⟨if good then 1900 else 1899, firstPass stow, 1, ?_⟩
  cases stow <;> cases good <;> decide +kernel

theorem test_meets_OrdersScreened : (∃ i n w k t s, OrderRow i n w 15 ∧ State.takesWords s ∧
      checkGood w = true ∧ readOrder w = some (k, t)) ∧
    ∃ i w k t s, GroupRow i w 15 ∧ State.takesWords s ∧ readGroup w 15 = some (k, t) :=
  ⟨⟨.park 3 (hostWord .park 255) 15, 3, hostWord .park 255, .park, 255, service .vacant (lineIn .parked),
      by simp [OrderRow], ⟨rfl, rfl, rfl⟩, by decide +kernel, by decide +kernel⟩,
   ⟨_, groupWord 6 1 11, .rewind, 1, service .vacant (lineIn .parked),
      Or.inr (Or.inr (Or.inr rfl)), ⟨rfl, rfl, rfl⟩, by decide +kernel⟩⟩

theorem test_meets_ArgumentWordLatches : ∃ s : State, s.takesWords :=
  ⟨service .lockdown (lineIn .locked), rfl, rfl, rfl⟩

theorem test_meets_WordFormRefusals : ∃ s, State.takesWords s ∧ (∃ i, OrderRow i 0 0 14) ∧
    (∃ i w, OrderRow i 0 w 15 ∧ byteSum w ≠ 0xC3#8) ∧
    (∀ w ∈ [0x000010B3#32, 0x0001F9C9#32, 0x000001C2#32, 0x001011A2#32],
      OrderRow (.lock 0 w 15) 0 w 15 ∧ byteSum w = 0xC3#8 ∧
      (codeField w = 0 ∨ 9 ≤ codeField w ∨ tagField w = 0 ∨ w.extractLsb' 20 12 ≠ 0)) :=
  ⟨service .vacant (lineIn .parked), ⟨rfl, rfl, rfl⟩, ⟨_, Or.inl rfl⟩,
    ⟨_, 0, Or.inl rfl, by decide⟩, fun w h => ⟨Or.inl rfl, by
      simp only [List.mem_cons, List.not_mem_nil, or_false] at h
      rcases h with rfl | rfl | rfl | rfl <;> decide +kernel⟩⟩

theorem test_meets_GroupWordDropped : ∃ s t : State, s.takesWords ∧
    (∃ i, GroupRow i 0 14) ∧ (∃ i, GroupRow i 0 15 ∧ byteSum 0 ≠ 0xC3#8) ∧
    (codeField (groupWord 2 1 0) ∉ [1, 3, 5, 6] ∧ tagField (groupWord 1 0 0) = 0 ∧
      ∀ n, groupNames (hostWord .lock 1) n = false) ∧
    (t.supply.powered = true ∧ t.uwait = false ∧ t.berth.phase.silent = true) :=
  ⟨service .vacant (lineIn .parked), service .halted (lineIn .parked), ⟨rfl, rfl, rfl⟩, ⟨_, Or.inl rfl⟩,
    ⟨_, Or.inl rfl, by decide⟩, by decide +kernel, by decide +kernel⟩

theorem test_meets_RepeatedOrderChangesNothing : ∃ i n k t o s, Carries i n k t o ∧
    State.takesWords s ∧ (s.line n).fitted = true ∧ (s.line n).lastHost.order = some (t, k) :=
  ⟨_, 11, .haul, 255, .hostWord,
    service .arrival { lineIn .locked with lastHost := ⟨some (255, .haul), some (.refused .wrongPhase), none⟩ },
    carries _ _ _ (Or.inr ⟨rfl, rfl⟩), ⟨rfl, rfl, rfl⟩, by decide +kernel, by decide +kernel⟩

/-- One order for each refusal of the steps from the fitted check to state allowance. -/
theorem test_meets_ScreeningRefusals :
    (∃ s, State.takesWords s ∧ Carries (rowOf .haul 0 (hostWord .haul 1)) 0 .haul 1 .hostWord ∧
      (s.line 0).fitted = false) ∧
    (∃ s, State.takesWords s ∧ (s.line 0).fitted = true ∧ s.profile.source = .fallback) ∧
    (∃ s, State.takesWords s ∧ (s.line 0).fitted = true ∧ (s.line 0).lastHost.order ≠ some (1, .tend) ∧
      s.profile.source = .loaded ∧ phaseAllows .tend s.berth.phase = false) ∧
    (∃ s, State.takesWords s ∧ (s.line 0).fitted = true ∧ s.profile.source = .loaded ∧
      phaseAllows .haul s.berth.phase = true ∧ stateAllows .haul s.berth.phase
        (decide ((s.line 0).payout = 0) && (s.line 0).stowMade) (s.line 0).state = .no .wrongState) ∧
    (∃ s, State.takesWords s ∧ (s.line 0).fitted = true ∧ phaseAllows .park s.berth.phase = true ∧
      stateAllows .park s.berth.phase
        (decide ((s.line 0).payout = 0) && (s.line 0).stowMade) (s.line 0).state = .no .notStowed) :=
  ⟨⟨service .arrival { lineIn .parked with fitted := false }, ⟨rfl, rfl, rfl⟩,
      carries _ _ _ (Or.inl ⟨rfl, rfl⟩), by decide +kernel⟩,
   ⟨{ service .arrival (lineIn .locked) with profile := Profile.reset }, ⟨rfl, rfl, rfl⟩, by decide +kernel⟩,
   ⟨service .arrival (lineIn .locked), ⟨rfl, rfl, rfl⟩, by decide +kernel⟩,
   ⟨service .arrival (lineIn (.hauling 300)), ⟨rfl, rfl, rfl⟩, by decide +kernel⟩,
   ⟨service .vacant (lineIn .slack), ⟨rfl, rfl, rfl⟩, by decide +kernel⟩⟩

/-- LOCKED, unlatched or with a latch, of known length or not. -/
def latched (x : Option Latch) (payout : Nat) (unknown : Bool) : State :=
  service .secured { lineIn .locked with latch := x, payout := payout, lengthUnknown := unknown }

theorem test_meets_ArgumentAndQueueRefusals :
    (∀ x ∈ [none, some (⟨300, 251⟩ : Latch)], ∀ y, ((latched x 0 false).line 0).latch = some y →
      argumentFreshness (latched x 0 false).image < y.age) ∧
    (∀ v ∈ [199, 4001], ∃ y, ((latched (some ⟨v, 250⟩) 0 false).line 0).latch = some y ∧
      y.age ≤ argumentFreshness (latched (some ⟨v, 250⟩) 0 false).image ∧
      (y.value < bandMin (latched none 0 false).image 0 ∨ bandMax (latched none 0 false).image 0 < y.value)) ∧
    (∀ v ∈ [(0, 0, false), (4001, 0, false), (1, 0, true), (1, 12000, false)],
      ((latched (some ⟨v.1, 0⟩) v.2.1 v.2.2).line 0).latch = some ⟨v.1, 0⟩ ∧
      (v.1 < 1 ∨ 4000 < v.1 ∨ ((latched (some ⟨v.1, 0⟩) v.2.1 v.2.2).line 0).lengthUnknown = true ∨
        maxPayout (latched none 0 false).image 0 < v.2.1 + v.1)) ∧
    stateAllows .ease .secured false .locked = .pass ∧
    (∃ s, State.takesWords s ∧ stateAllows .slip s.berth.phase
        (decide ((s.line 11).payout = 0) && (s.line 11).stowMade) (s.line 11).state = .hold ∧
      8 ≤ s.queue.length ∧ s.entry 11 = none) := by
  refine ⟨?_, ?_, by decide +kernel, rfl, { service .departure (lineIn .locked) with
    queue := (allLines.take 8).map fun n => newEntry State.reset n .slip 1 .hostWord },
    ⟨rfl, rfl, rfl⟩, by decide +kernel⟩
  · intro x hx y hy
    have hy : x = some y := by rw [← hy, latched, service_line]
    subst hy
    have : y = ⟨300, 251⟩ := by simpa using hx
    subst this
    decide +kernel
  · intro v hv
    refine ⟨⟨v, 250⟩, by rw [latched, service_line], ?_⟩
    revert v
    decide +kernel

theorem test_meets_LockPasses : ∀ st ∈ [LineState.paying 1, .standing, .hauling 200, .locked, .tending,
      .slipping, .slack, .rewinding, .faulted .stall], ∃ i n t o s, Carries i n .lock t o ∧
    State.takesWords s ∧ (s.line n).Sound ∧ (s.line n).fitted = true ∧ (s.line n).state = st ∧
    (s.line n).lastHost.order ≠ some (t, .lock) := by
  intro st _
  refine ⟨_, 0, 1, .hostWord, service .lockdown (lineIn st), carries .lock _ _ (Or.inl ⟨rfl, rfl⟩),
    ⟨rfl, rfl, rfl⟩, ?_⟩
  rw [service_line]
  exact ⟨lineIn_sound, rfl, rfl, by simp [lineIn, Line.reset]⟩

theorem test_meets_HaulPasses : ∀ v ∈ [200, 4000], ∃ i n t o s x, Carries i n .haul t o ∧
    State.takesWords s ∧ (s.line n).fitted = true ∧ (s.line n).lastHost.order ≠ some (t, .haul) ∧
    s.profile.source = .loaded ∧ s.berth.phase = .secured ∧ (s.line n).state = .locked ∧
    (s.line n).latch = some x ∧ x.value = v ∧ x.age ≤ argumentFreshness s.image ∧
    bandMin s.image n ≤ x.value ∧ x.value ≤ bandMax s.image n := by
  intro v hv
  refine ⟨_, 11, 255, .hostWord, latched (some ⟨v, 250⟩) 0 true, ⟨v, 250⟩,
    carries .haul _ _ (Or.inr ⟨rfl, rfl⟩), ⟨rfl, rfl, rfl⟩, ?_⟩
  revert v
  decide +kernel

theorem test_meets_TendPasses : ∃ i n t o s, Carries i n .tend t o ∧ State.takesWords s ∧
    (s.line n).fitted = true ∧ (s.line n).lastHost.order ≠ some (t, .tend) ∧
    s.profile.source = .loaded ∧ s.berth.phase = .secured ∧ (s.line n).state = .locked :=
  ⟨_, 5, 7, .groupWord, service .secured (lineIn .locked), carries_group, ⟨rfl, rfl, rfl⟩,
    by decide +kernel⟩

theorem test_meets_EasePasses : ∀ v ∈ [(1, 11999), (4000, 8000)], ∃ i n t o s x, Carries i n .ease t o ∧
    State.takesWords s ∧ (s.line n).fitted = true ∧ (s.line n).lastHost.order ≠ some (t, .ease) ∧
    s.profile.source = .loaded ∧ s.berth.phase = .secured ∧ (s.line n).state = .locked ∧
    (s.line n).latch = some x ∧ x.age ≤ argumentFreshness s.image ∧ x.value = v.1 ∧
    1 ≤ x.value ∧ x.value ≤ 4000 ∧ (s.line n).payout + x.value = maxPayout s.image n ∧
    (s.line n).lengthUnknown = false := by
  intro v hv
  refine ⟨_, 0, 1, .hostWord, latched (some ⟨v.1, 0⟩) v.2 false, ⟨v.1, 0⟩,
    carries .ease _ _ (Or.inl ⟨rfl, rfl⟩), ⟨rfl, rfl, rfl⟩, ?_⟩
  revert v
  decide +kernel

/-- DEPARTURE with line 0 as `l` and every other line unfitted or as `m`. -/
def lastLine (l m : Line) : State :=
  let s := service .departure m
  { s with lines := s.lines.set 0 l }

theorem test_meets_ParkPasses : ∀ st ∈ [LineState.parked, .standing], ∃ i n t o s, Carries i n .park t o ∧
    State.takesWords s ∧ (s.line n).fitted = true ∧ (s.line n).lastHost.order ≠ some (t, .park) ∧
    s.berth.phase = .departure ∧ (s.line n).state = .slack ∧ (s.line n).payout = 0 ∧
    (s.line n).stowMade = true ∧ s.queue = [] ∧
    (∀ m, m ≠ n → (s.line m).fitted = true ∧ (s.line m).state = st) := by
  intro st hst
  refine ⟨_, 0, 1, .hostWord, lastLine { lineIn .slack with stowMade := true } (lineIn st),
    carries .park _ _ (Or.inl ⟨rfl, rfl⟩), ⟨rfl, rfl, rfl⟩, ?_⟩
  revert st
  decide +kernel

/-- A PARK that leaves every fitted line PARKED ends DEPARTURE with an entry in the hold queue too. -/
theorem test_park_with_entry :
    let s := { lastLine { lineIn .slack with stowMade := true } (lineIn .parked) with
      queue := [newEntry State.reset 5 .slip 1 .hostWord] }
    (screen 0 .park 1 .hostWord s).berth.phase = .vacant ∧
    (screen 0 .park 1 .hostWord s).queue.length = 1 := by decide +kernel

theorem test_meets_RewindPasses : ∃ i n t o s, Carries i n .rewind t o ∧
    State.takesWords s ∧ (s.line n).Sound ∧ (s.line n).fitted = true ∧
    (s.line n).lastHost.order ≠ some (t, .rewind) ∧ (s.line n).state = .slack ∧
    s.berth.phase = .departure :=
  ⟨_, 0, 1, .hostWord, service .departure (lineIn .slack), carries .rewind _ _ (Or.inl ⟨rfl, rfl⟩),
    ⟨rfl, rfl, rfl⟩, by rw [service_line]; exact lineIn_sound, by decide +kernel⟩

/-- The ways of a rewind: unknown length or pulses to run, none with the stow switch made or coming to be
made, none with it open. -/
theorem test_meets_RewindPasses_clauses : ∀ v ∈ [(true, 0, false), (false, 1, false), (false, 0, true),
      (false, 0, false)], ∀ back ∈ [0, 1], ∃ s : State, (s.line 0).state = .standing ∧
    s.berth.phase = .vacant ∧ (s.line 0).lengthUnknown = v.1 ∧ (s.line 0).payout = v.2.1 ∧
    (s.line 0).stowMade = v.2.2 ∧ s.pending = [.stowMade 0 back] := by
  intro v hv back hb
  refine ⟨{ service .vacant { lineIn .standing with
    lengthUnknown := v.1, payout := v.2.1, stowMade := v.2.2 } with pending := [.stowMade 0 back] }, ?_⟩
  revert v back
  decide +kernel

theorem test_meets_StowComes (s : State) :
    ({ s with pending := [.stowMade 0 1] } : State).StowComes 0 ∧
    ¬ ({ s with pending := [.stowMade 0 0] } : State).StowComes 0 := by
  refine ⟨⟨0, 1, rfl, by decide⟩, fun ⟨i, back, h, hi⟩ => ?_⟩
  cases i with
  | zero => cases h; exact absurd hi (by decide)
  | succ => cases h

theorem test_meets_OrdersHeld : (∃ i n t o s, Carries i n HeldKind.slip.order t o ∧ State.takesWords s ∧
      (s.line n).fitted = true ∧ (s.line n).lastHost.order ≠ some (t, HeldKind.slip.order) ∧
      s.profile.source = .loaded ∧ s.berth.phase = .departure ∧ (s.line n).state = .tending ∧
      s.queue.length = 7) ∧
    (∃ i n t o s, Carries i n HeldKind.rewind.order t o ∧ State.takesWords s ∧
      (s.line n).fitted = true ∧ (s.line n).lastHost.order ≠ some (t, HeldKind.rewind.order) ∧
      s.berth.phase = .departure ∧ (s.line n).state = .slipping ∧ s.queue.length = 8 ∧
      (s.entry n).isSome = true) :=
  ⟨⟨_, 11, 255, .hostWord, { service .departure (lineIn .tending) with
      queue := (allLines.take 7).map fun n => newEntry State.reset n .slip 1 .hostWord },
      carries .slip _ _ (Or.inr ⟨rfl, rfl⟩), ⟨rfl, rfl, rfl⟩, by decide +kernel⟩,
   ⟨_, 0, 1, .hostWord, { service .departure (lineIn .slipping) with
      queue := (allLines.take 8).map fun n => newEntry State.reset n .slip 1 .hostWord },
      carries .rewind _ _ (Or.inl ⟨rfl, rfl⟩), ⟨rfl, rfl, rfl⟩, by decide +kernel⟩⟩

/-- Line 4 held in SLIP, in state `st` with a full ring, its entry at `stage`, while the scan is at `p`. -/
def heldSlip (st : LineState) (stage : HoldStage) (v : Nat) (p : Pass) : State :=
  { service .departure { lineIn st with
      tension := some v, cls := .low, ring := List.replicate 8 ⟨150, .low⟩ } with
    scan := { Scan.reset with pass := p }
    queue := [⟨4, .slip, 9, ⟨false, false, false, true, false⟩, stage, false, 5, .hostWord,
      stage == .probing⟩] }

/-- The three gates of the line open, and LINE_READY closed, whatever the scan does. -/
theorem test_meets_Open : ∀ v ∈ [(LineState.locked, true), (.slack, false)], ∀ g ∈ [HoldStage.waiting, .probing],
    ∀ p ∈ [Pass.idle, .running 12, .probing 11 none],
    ((heldSlip v.1 g 150 p).Open 4 ↔ v.2 = true) ∧ ((heldSlip v.1 g 150 p).entry 4).isSome = true := by
  unfold State.Open State.Ready State.Ranked State.Settled
  decide +kernel

/-- RANK_ORDER closed by a line of lower rank, and SURGE_SETTLED by a ring of seven and by a wide one. -/
theorem test_meets_closed_gates :
    ¬ (modLine 4 (fun l => { l with rank := 1 }) (heldSlip .locked .waiting 150 .idle)).Ranked 4 ∧
    ¬ (service .departure { lineIn .locked with ring := List.replicate 7 ⟨1, .low⟩ }).Settled 4 ∧
    ¬ (service .departure { lineIn .locked with
      ring := ⟨9999, .over⟩ :: List.replicate 7 ⟨1, .low⟩ }).Settled 4 := by
  unfold State.Ranked State.Settled
  decide +kernel

/-- A held REWIND whose line is SLACK, and one whose line is SLIPPING. -/
theorem test_meets_HoldQueueReevaluated : ∀ st ∈ [LineState.slack, .slipping], ∃ (e : Entry) (s : State),
    s.entry 4 = some e ∧ e.kind = .rewind ∧ (s.line 4).state = st ∧ s.entry 5 = none := by
  intro st hst
  refine ⟨newEntry State.reset 4 .rewind 1 .hostWord, { service .departure (lineIn st) with
    queue := [newEntry State.reset 4 .rewind 1 .hostWord] }, ?_⟩
  revert st
  decide +kernel

/-- Lines 7 and 6 of the ranked departure, WAITING in that order, when the last line of the rank before
them is SLACK. -/
def rankOpens (p : Pass) : State :=
  let last : Line := { lineIn .locked with rank := 1, ring := List.replicate 8 ⟨150, .low⟩ }
  { modLine 7 (fun _ => last) (modLine 6 (fun _ => last) (service .departure (lineIn .slack))) with
    scan := { Scan.reset with pass := p }
    queue := [7, 6].map fun n =>
      ⟨n, .slip, 9, ⟨false, true, false, true, false⟩, .waiting, false, 5, .hostWord, false⟩ }

/-- The walk asks for line 7 first, and the probe of line 6 is the first to run (R96): in a pass, which keeps
its place, and in an idle scan; while a probe runs both wait. -/
theorem test_lowest_probe_first : ∀ p ∈ [(Pass.running 5, Pass.probing 6 (some 5)), (.idle, .probing 6 none),
      (.probing 11 none, .probing 11 none)], let s := settle 3 (rankOpens p.1)
    s.scan.pass = p.2 ∧ (s.line 7).probeWaiting = true ∧
    (s.line 6).probeWaiting = (p.1 == p.2) ∧
    s.queue.map (fun e => (e.line, e.stage, e.probeBegun)) =
      [(7, .probing, false), (6, .probing, p.1 != p.2)] := by decide +kernel

/-- Requests that wait for the scan as a re-evaluation ends, whatever the scan does (ProbesTaken). -/
theorem test_meets_ProbesTaken : ∀ p ∈ [Pass.running 5, .idle, .probing 11 none],
    (rewalk (rankOpens p)).Asks 6 ∧ (rewalk (rankOpens p)).Asks 7 ∧
    (∀ k, k < 6 → ¬ (rewalk (rankOpens p)).Asks k) ∧ (rewalk (rankOpens p)).scan.pass = p := by
  unfold State.Asks
  decide +kernel

theorem test_meets_RestateDerives : ∀ b ∈ [true, false], ∃ i n t o s r, Carries i n .restate t o ∧
    State.takesWords s ∧ (s.line n).fitted = true ∧ (s.line n).lastHost.order ≠ some (t, .restate) ∧
    (s.line n).state = .faulted r ∧ (s.line n).stowMade = b ∧ (s.line n).brakeSet = b := by
  intro b hb
  refine ⟨_, 0, 1, .hostWord, service .lockdown { lineIn (.faulted .snag) with stowMade := b, brakeSet := b },
    .snag, carries .restate _ _ (Or.inl ⟨rfl, rfl⟩), ⟨rfl, rfl, rfl⟩, ?_⟩
  revert b
  decide +kernel

theorem test_meets_RequestsAccepted : (∀ c ∈ [(1, Request.vacant), (2, .arrival), (3, .secured),
      (4, .departure)], ∃ i, RequestRow i (requestWord c.1) 15 ∧ readRequest (requestWord c.1) 15 = some c.2) ∧
    (∀ p ∈ [Phase.vacant, .arrival, .secured, .departure], ∃ s, State.takesWords s ∧ s.berth.phase = p ∧
      s.profile.source = .loaded ∧ s.profile.load = .idle ∧ s.Sound ∧
      ∀ n, (s.line n).fitted = true ∧ (s.line n).state = .parked) ∧
    (∃ s, State.takesWords s ∧ s.berth.phase = .departure ∧ s.Sound ∧ (s.entry 3).isSome = true ∧
      ∀ n, (s.line n).state = .locked) ∧
    ∃ s, State.takesWords s ∧ s.berth.phase = .arrival ∧
      ∀ n, (s.line n).fitted = true ∧ (s.line n).state = .locked := by
  refine ⟨fun c _ => ⟨.resume (requestWord c.1) 15, by simp [RequestRow], ?_⟩, fun p hp =>
    ⟨service p (lineIn .parked), ⟨rfl, rfl, ?_⟩, rfl, rfl, rfl, service_sound _ _, fun n => ?_⟩,
    ⟨{ service .departure (lineIn .locked) with
        queue := [newEntry State.reset 3 .slip 1 .hostWord], scan := Scan.reset }, ⟨rfl, rfl, rfl⟩, rfl,
      held_sound (service_sound _ _) _ _, rfl, fun n =>
      congrArg Line.state (service_line .departure (lineIn .locked) n)⟩,
    service .arrival (lineIn .locked), ⟨rfl, rfl, rfl⟩, rfl, fun n => ?_⟩
  · rename_i h
    revert c
    decide +kernel
  · revert p
    decide
  · rw [service_line]; exact ⟨rfl, rfl⟩
  · rw [service_line]; exact ⟨rfl, rfl⟩

/-- Words of bad form, pairings not listed, and each condition that fails. -/
theorem test_meets_RequestsRefused : (∃ (i : Instr) (s v : State) (straps : BitVec 6),
      State.takesWords s ∧ i = .resetRequest 0 15 straps ∧ v = setStraps straps s ∧ byteSum 0 ≠ 0xC3#8) ∧
    (∀ w ∈ [0#32, 0x0000863D#32, 0x0000F0D3#32, 0x0000784B#32, 0x0001962C#32],
      RequestRow (.resume w 15) w 15 ∧ (byteSum w ≠ 0xC3#8 ∨ (w.extractLsb' 12 4).toNat ≠ 15 - codeField w ∨
        codeField w = 0 ∨ 8 ≤ codeField w ∨ w.extractLsb' 16 16 ≠ 0)) ∧
    (∃ s, State.takesWords s ∧ s.berth.phase = .secured ∧ readRequest (requestWord 1) 15 = some .vacant) ∧
    (∃ s, State.takesWords s ∧ s.berth.phase = .vacant ∧ s.profile.source = .fallback) ∧
    (∃ s, State.takesWords s ∧ s.berth.phase = .arrival ∧ (s.line 0).fitted = true ∧
      (s.line 0).required = true ∧ (s.line 0).state = .standing) ∧
    (∃ s, State.takesWords s ∧ s.berth.phase = .departure ∧ (s.line 0).fitted = true ∧
      (s.line 0).state = .slipping) ∧
    (∃ s, State.takesWords s ∧ s.berth.phase = .lockdown ∧ s.berth.present ≠ 0) :=
  ⟨⟨_, service .vacant (lineIn .parked), _, 5, ⟨rfl, rfl, rfl⟩, rfl, rfl, by decide⟩,
   fun w h => ⟨by simp [RequestRow], by
      simp only [List.mem_cons, List.not_mem_nil, or_false] at h
      rcases h with rfl | rfl | rfl | rfl | rfl <;> decide +kernel⟩,
   ⟨service .secured (lineIn .locked), ⟨rfl, rfl, rfl⟩, rfl, by decide +kernel⟩,
   ⟨{ service .vacant (lineIn .parked) with profile := Profile.reset }, ⟨rfl, rfl, rfl⟩, rfl, rfl⟩,
   ⟨service .arrival { lineIn .standing with required := true }, ⟨rfl, rfl, rfl⟩, by decide +kernel⟩,
   ⟨service .departure (lineIn .slipping), ⟨rfl, rfl, rfl⟩, by decide +kernel⟩,
   ⟨{ service .lockdown (lineIn .locked) with berth := ⟨.lockdown, 4, 4, none, none⟩ },
     ⟨rfl, rfl, rfl⟩, by decide +kernel⟩⟩

theorem test_meets_LockdownEntered : (∃ s i w, RequestRow i w 15 ∧ State.takesWords s ∧
      readRequest w 15 = some .lockdown ∧ s.Sound ∧ s.berth.phase = .secured ∧ s.supply.live = false ∧ s.supply.stage ≠ .reset) ∧
    (∃ s : State, s.supply.powered = true ∧ s.Sound ∧ s.berth.phase = .arrival ∧
      s.berth.silence = some 0) ∧
    (∃ s i w, RequestRow i w 15 ∧ State.takesWords s ∧ readRequest w 15 = some .lockdown ∧
      s.berth.phase = .lockdown ∧ s.berth.causes.has .hostRequest = false) :=
  ⟨⟨service .secured (lineIn .tending), .lockdownRequest (requestWord 5) 15, requestWord 5,
      by simp [RequestRow], ⟨rfl, rfl, rfl⟩, by decide +kernel, service_sound _ _, rfl, rfl,
      by decide⟩,
   ⟨{ service .arrival (lineIn .tending) with berth := ⟨.arrival, 0, 0, some 0, none⟩ }, rfl,
      have h := service_sound .arrival .tending
      ⟨h.line, h.attn, h.queueSize, h.queueLines, h.present, h.orderLines, h.reports, h.load⟩, rfl, rfl⟩,
   ⟨service .lockdown (lineIn .tending), .lockdownRequest (requestWord 5) 15, requestWord 5,
      by simp [RequestRow], ⟨rfl, rfl, rfl⟩, by decide +kernel, rfl, by decide +kernel⟩⟩

theorem test_meets_ResumeEndsLockdown : ∀ st ∈ [LineState.parked, .locked], ∃ i w s, RequestRow i w 15 ∧
    State.takesWords s ∧ readRequest w 15 = some .resume ∧ s.berth.phase = .lockdown ∧
    s.berth.present = 0 ∧ s.profile.load = .idle ∧ (s.line 0).fitted = true ∧ (s.line 0).state = st := by
  intro st _
  refine ⟨.resume (requestWord 6) 15, requestWord 6, service .lockdown (lineIn st), by simp [RequestRow], ⟨rfl, rfl, rfl⟩,
    by decide +kernel, rfl, rfl, rfl, ?_⟩
  rw [service_line]
  exact ⟨rfl, rfl⟩

theorem test_meets_SupplyFlags : ∀ b ∈ [true, false], ∀ g ∈ [Stage.reset, .selfTest], ∃ s : State,
    s.supply.powered = true ∧ s.supply.live = b ∧ s.supply.stage = g ∧ s.berth.phase = .starting := by
  intro b _ g _
  exact ⟨{ service .starting (lineIn .locked) with
    supply := { Supply.reset with live := b, stage := g, powered := true } }, rfl, rfl, rfl, rfl⟩

theorem test_meets_AcknowledgeClears : ∃ (w v : Word) (s : State), s.takesWords ∧
    (w.extractLsb' 12 4 = 0 ∧ w.extractLsb' 24 8 = 0 ∧ (s.line 11).notice = true ∧
      w.getLsbD 11 = true ∧ s.report.notices &&& w.extractLsb' 16 8 ≠ 0 ∧ s.supply.latched = true ∧
      w.getLsbD 20 = true) ∧ v.extractLsb' 24 8 ≠ 0 :=
  ⟨0x00FF0FFF#32, 0x01000000#32, { service .vacant { lineIn .parked with notice := true } with
    report := { Reporting.reset with notices := 0x81 }
    supply := { Supply.reset with stage := .done, powered := true, latched := true } },
    ⟨rfl, rfl, rfl⟩, by decide +kernel, by decide⟩

theorem test_meets_CursorAndSamplePort_word : ∃ (w v : Word) (s : State), s.takesWords ∧
    ((w.extractLsb' 0 4).toNat = (11 : LineId).val ∧ w.extractLsb' 8 24 = 0) ∧
    (v.extractLsb' 0 4).toNat = 12 :=
  ⟨0x000000FB#32, 0x0000000C#32, service .vacant (lineIn .parked), ⟨rfl, rfl, rfl⟩, by decide, by decide⟩

theorem test_meets_CursorAndSamplePort : ∃ s t u : State,
    (s.supply.powered = true ∧ s.uwait = false ∧ s.berth.phase.silent = false ∧
      (s.line s.scan.cursor.line).fitted = true ∧
      (s.line s.scan.cursor.line).ring[s.scan.cursor.index.val]? = some ⟨16383, .over⟩) ∧
    (t.supply.powered = true ∧ t.uwait = false ∧ t.berth.phase.silent = false ∧
      (t.line t.scan.cursor.line).ring[t.scan.cursor.index.val]? = none) ∧
    (u.supply.powered = true ∧ u.uwait = false ∧ u.berth.phase.silent = true) :=
  ⟨service .vacant { lineIn .locked with ring := [⟨16383, .over⟩] }, service .vacant (lineIn .locked),
    service .starting (lineIn .locked), by decide +kernel⟩

theorem test_meets_CommitTaken : (∃ s, State.takesWords s ∧ s.berth.phase = .lockdown ∧ s.queue = [] ∧
      s.profile.load = .loading 0 ∧ s.bus.dport = some (.fetch (.image 0) false) ∧
      ∀ n, (s.line n).state.moves = false ∧ (s.line n).state.isHauling = false ∧
        (s.line n).state ≠ .slipping) ∧
    (∃ s, State.takesWords s ∧ s.berth.phase = .arrival) ∧
    (let w := 0x00006E55#32
     byteSum w = 0xC3#8 ∧ w.extractLsb' 8 8 = 0x6E#8 ∧ w.extractLsb' 16 16 = 0) :=
  ⟨⟨{ service .lockdown (lineIn .locked) with
      profile := { Profile.reset with source := .loaded, load := .loading 0 }
      bus := { Bus.reset with dport := some (.fetch (.image 0) false) } }, ⟨rfl, rfl, rfl⟩,
      by decide +kernel⟩,
   ⟨service .arrival (lineIn .locked), ⟨rfl, rfl, rfl⟩, rfl⟩, by decide +kernel⟩

theorem test_meets_StrayAndPassedTransfers_stray : ∀ p ∈ [Phase.halted, .vacant], ∃ s : State,
    s.supply.powered = true ∧ s.uwait = false ∧ s.berth.phase = p ∧ s.notice .strayWrite = false :=
  fun p _ => ⟨service p (lineIn .locked), rfl, rfl, rfl, by
    show (0#8).getLsbD 7 = false
    decide⟩

theorem test_meets_ProfileWindowWrite : ∀ v ∈ [(LoadState.idle, Stage.done), (.loading 127, .done),
      (.loading 0, .profileLoad)], ∃ s : State, s.supply.powered = true ∧ s.uwait = false ∧
    s.profile.load = v.1 ∧ s.supply.stage = v.2 ∧ s.bus.dport = some (.fetch (.image 0) false) :=
  fun v _ => ⟨{ service .vacant (lineIn .locked) with
    profile := { Profile.reset with load := v.1 }
    bus := { Bus.reset with dport := some (.fetch (.image 0) false) }
    supply := { Supply.reset with powered := true, stage := v.2 } }, rfl, rfl, rfl, rfl, rfl⟩

theorem test_meets_SnapshotLock : ∃ s : State, s.supply.powered = true ∧ s.uwait = false ∧
    s.bus.snap = some ⟨12, 0⟩ :=
  ⟨{ service .vacant (lineIn .locked) with bus := { Bus.reset with snap := some ⟨12, 0⟩ } }, rfl, rfl, rfl⟩

/-- Addresses outside the region in force, and at the ends of the offsets without a handling. -/
theorem test_meets_StrayAndPassedTransfers : ∃ s : State, s.supply.powered = true ∧ s.uwait = false ∧
    (0x001000#24).toNat / 4096 ≠ s.bus.base.toNat ∧
    [0x000078#24, 0x0000FF#24, 0x0001D0#24, 0x0001FF#24, 0x000400#24, 0x000FFF#24].all (fun a =>
      decide (0x078 ≤ a.toNat % 4096 ∧ a.toNat % 4096 < 0x100 ∨
      0x1D0 ≤ a.toNat % 4096 ∧ a.toNat % 4096 < 0x200 ∨ 0x400 ≤ a.toNat % 4096)) = true :=
  ⟨service .vacant (lineIn .locked), rfl, rfl, by decide, by decide⟩

/-- The part with `d` on the D-port. -/
def onPort (d : DTransfer) : State :=
  { service .vacant (lineIn .locked) with bus := { Bus.reset with dport := some d } }

theorem test_meets_TransfersComplete : ∃ (h : HostAccess) (s t u : State),
    (s.bus.dport = some (.host h) ∧ s.bus.held = [] ∧ h.statusWord = some (12, 3)) ∧
    t.bus.dport = some (.pair 0 1 2) ∧ u.bus.dport = some (.record 12 1 2 3 4) :=
  ⟨⟨⟨false, 0, 0, 15⟩, some (12, 3)⟩, onPort (.host ⟨⟨false, 0, 0, 15⟩, some (12, 3)⟩),
    onPort (.pair 0 1 2), onPort (.record 12 1 2 3 4), ⟨rfl, rfl, rfl⟩, rfl, rfl⟩

/-- A host command while UWAIT is driven, and one kept that is taken when it is not. -/
theorem test_meets_TransfersComplete_kept : ∃ (i : Instr) (x : Transfer) (s t : State),
    (transferOf s.bus.base i = some x ∧ s.supply.powered = true ∧ s.uwait = true) ∧
    (transferOf t.bus.base i = some x ∧ t.supply.powered = true ∧ t.uwait = false) :=
  ⟨.commit 0x00006E55 15, ⟨true, 0x000074, 0x00006E55, 15⟩, onPort (.host ⟨⟨false, 0, 0, 15⟩, none⟩),
    service .vacant (lineIn .locked), by decide +kernel⟩

theorem test_meets_FetchDelivered : ∃ s t u v : State,
    s.bus.dport = some (.fetch (.image 0) true) ∧
    (t.bus.dport = some (.fetch (.image 126) false) ∧ t.profile.load = .loading 126) ∧
    (u.bus.dport = some (.fetch (.orderWord 0) false) ∧ (u.line 1).fitted = true) ∧
    (v.bus.dport = some (.fetch (.orderWord 11) false) ∧
      ∀ m : LineId, 11 < m → (v.line m).fitted = false) :=
  ⟨onPort (.fetch (.image 0) true),
    { onPort (.fetch (.image 126) false) with profile := { Profile.reset with load := .loading 126 } },
    onPort (.fetch (.orderWord 0) false), onPort (.fetch (.orderWord 11) false), by decide +kernel⟩

theorem test_meets_LoadEnds : ∀ p ∈ [Phase.vacant, .arrival], ∀ good ∈ [true, false],
    ∃ v : Word, let s := lastWord p .done fallbackBody
    s.bus.dport = some (.fetch (.image 127) false) ∧ s.profile.load = .loading 127 ∧
    s.supply.stage ≠ .profileLoad ∧ quiet s = (p == .vacant) ∧
    (firstFailing (s.profile.buffer ++ [v]) (s.profile.sum + v) (mayUnfit s)).isNone = good := by
  intro p hp good hg
  refine ⟨if good then checkWord fallbackBody else 0, ?_⟩
  revert p good
  decide +kernel

/-- Lines that the image fits and leaves out, and a probe that waits for one of each. -/
theorem test_meets_LoadEnds_clauses :
    let s := eachLine (fun n => modLine n fun l => { l with probeWaiting := 3 ≤ n.val && n.val ≤ 8 })
      (lastWord .vacant .done (maskedBody 0xF0F))
    let img := s.profile.buffer ++ [checkWord (maskedBody 0xF0F)]
    firstFailing img 0 (mayUnfit s) = none ∧ quiet s = true ∧
    (fittedBit img 3 = true ∧ (s.line 3).probeWaiting = true) ∧
    (fittedBit img 4 = false ∧ (s.line 4).fitted = true ∧ (s.line 4).probeWaiting = true) := by
  decide +kernel

/-- The D-port free, with and without a pair, a host transfer, a fetch and a record that wait. -/
theorem test_meets_ArbiterGrants : ∃ s t u v : State,
    (s.supply.powered = true ∧ s.bus.dport = none ∧ s.bus.orderLane = [⟨0, 1, 2⟩]) ∧
    (t.supply.powered = true ∧ t.bus.dport = none ∧ t.bus.orderLane = [] ∧ t.bus.mark = .host ∧
      t.bus.waiting.isSome = true ∧ t.bus.fetch = some (.image 0)) ∧
    (u.supply.powered = true ∧ u.bus.dport = none ∧ u.bus.orderLane = [] ∧ u.bus.mark = .internal ∧
      u.bus.waiting.isSome = true ∧ eligibleRecord u = some 12) ∧
    (v.supply.powered = true ∧ v.bus.dport = none ∧ v.bus.orderLane = [] ∧ v.bus.waiting = none ∧
      v.bus.fetch = none ∧ eligibleRecord v = some 12) :=
  let s := service .vacant (lineIn .locked)
  let h : HostAccess := ⟨⟨false, 0, 0, 15⟩, none⟩
  ⟨{ s with bus := { s.bus with orderLane := [⟨0, 1, 2⟩] } },
    { s with bus := { s.bus with mark := .host, waiting := some h, fetch := some (.image 0) } },
    { s with bus := { s.bus with waiting := some h, reportLane := [12] } },
    { s with bus := { s.bus with reportLane := [0, 12], snap := some ⟨0, 1⟩ } }, by decide +kernel⟩

/-- Fields in their ranges, at the ends of them. -/
theorem test_meets_RecordContents : ∃ s : State, (s.line 0).state.stepsShown = 7 ∧
    (s.line 0).payout = 65535 ∧ (s.line 0).tension = some 16383 ∧ (s.line 0).span = some 16383 ∧
    s.queue.length = 8 ∧ s.profile.outcome = .rejected 127 :=
  let s := service .departure { lineIn (.rendering .locked 7) with
    payout := 65535
    tension := some 16383
    ring := ⟨16383, .over⟩ :: List.replicate 7 ⟨0, .slack⟩ }
  ⟨{ s with
      queue := (allLines.take 8).map fun n => newEntry State.reset n .slip 1 .hostWord
      profile := { s.profile with outcome := .rejected 127 } }, by decide +kernel⟩

theorem test_meets_SilentPhasesDrop : ∀ p ∈ [Phase.starting, .halted], ∃ (i : Instr) (s : State),
    s.supply.powered = true ∧ s.uwait = false ∧ s.berth.phase = p ∧ OrderRow i 0 0 15 :=
  fun p _ => ⟨.lock 0 0 15, service p (lineIn .parked), rfl, rfl, rfl, Or.inl rfl⟩

/-- An edge at 199 and at 200 microseconds, on a line fitted and not. -/
theorem test_meets_PulseCounts : ∃ s t : State, s.supply.powered = true ∧
    (s.line 0).pulseAge + 199 < 200 ∧ 200 ≤ (s.line 0).pulseAge + 200 ∧ (s.line 0).fitted = true ∧
    (s.line 0).state.expectedOutward = some true ∧ (s.line 0).run = some ⟨2, 2⟩ ∧
    t.supply.powered = true ∧ 200 ≤ (t.line 0).pulseAge + 200 ∧ (t.line 0).fitted = false :=
  ⟨service .arrival { lineIn (.paying 2) with pulseAge := 0, run := some ⟨2, 2⟩ },
    service .arrival { lineIn .parked with pulseAge := 0, fitted := false }, by decide +kernel⟩

/-- A render whose last step runs out in SECURED, in a sound part. -/
theorem test_meets_RunCompletes_overload : ∃ s : State, s.Sound ∧ s.berth.phase = .secured ∧
    s.supply.powered = true ∧ (s.line 0).fitted = true ∧ 200 ≤ (s.line 0).pulseAge + 0 ∧
    (s.line 0).state = .rendering .tending 3 ∧ (s.line 0).run = some ⟨1, 1⟩ ∧
    renderStepLimit s.image = 3 := by
  have h := @lineIn_sound (.rendering .tending 3)
  exact ⟨service .secured { lineIn (.rendering .tending 3) with run := some ⟨1, 1⟩ },
    service_sound_of _ ⟨h.stale, h.overRun, h.slackRun, h.ring, h.payout, h.age, h.refused, fun _ => rfl,
      fun r e => by cases e; exact Nat.le_refl 1, h.stall, h.haul, h.slip, h.brake⟩ rfl,
    rfl, rfl, by decide +kernel⟩

theorem test_meets_RunCompletes : (∀ st ∈ [LineState.paying 1, .rendering .locked 2, .rendering .tending 3,
      .rewinding], ∀ back ∈ [0, 1], ∃ s : State, s.pending = [.stowMade 0 back] ∧ s.supply.powered = true ∧ (s.line 0).fitted = true ∧
      200 ≤ (s.line 0).pulseAge + 0 ∧ (s.line 0).state = st ∧ (s.line 0).run = some ⟨1, 1⟩ ∧
      renderStepLimit s.image = 3) ∧
    ∀ st ∈ [LineState.parked, .standing, .locked, .slack], ∃ s : State, s.supply.powered = true ∧
      (s.line 0).fitted = true ∧ 200 ≤ (s.line 0).pulseAge + 0 ∧ (s.line 0).state = st ∧
      st.countsCreep = true ∧ (s.line 0).brakeSet = true ∧ (s.line 0).run = none ∧
      creepLimit s.image = (s.line 0).creep + 1 := by
  refine ⟨fun st hst back hb => ⟨{ service .secured { lineIn st with run := some ⟨1, 1⟩ } with
      pending := [.stowMade 0 back] }, ?_⟩,
    fun st hst => ⟨service .secured { lineIn st with brakeSet := true, creep := 19 }, ?_⟩⟩
  · revert st back
    decide +kernel
  · revert st
    decide +kernel

theorem test_meets_DrumInputsChange_brake : ∃ s : State, (s.line 0).brakeSet ≠ true ∧
    (s.line 0).fitted = true ∧ (s.line 0).state.expectedBrake = some (!true) :=
  ⟨service .secured (lineIn .tending), by decide +kernel⟩

theorem test_meets_DrumInputsChange : ∀ v ∈ [(LineState.rewinding, false), (.locked, false), (.parked, true),
      (.locked, true)], ∃ s : State, s.supply.powered = true ∧ (s.line 0).fitted = true ∧
    (s.line 0).state = v.1 ∧ (s.line 0).stowMade = v.2 := by
  intro v hv
  refine ⟨service .vacant { lineIn v.1 with stowMade := v.2 }, ?_⟩
  revert v
  decide +kernel

theorem test_meets_TimeOutsFault : ∀ st ∈ [LineState.paying 1, .rendering .locked 1, .rewinding,
      .hauling 200, .slipping, .parked, .locked], ∀ k ∈ [0, 1], ∃ s : State, s.supply.powered = true ∧
    (s.line 0).fitted = true ∧ (s.line 0).state = st ∧ (s.line 0).stall = some k ∧
    (s.line 0).haul = some k ∧ (s.line 0).slip = some k ∧ (s.line 0).brakeSettle = some k := by
  intro st hst k hk
  refine ⟨service .secured { lineIn st with
    stall := some k, haul := some k, slip := some k, brakeSettle := some k }, ?_⟩
  revert st k
  decide +kernel

theorem test_meets_HoldDeadlineExpires : ∃ (e : Entry) (s : State), s.supply.powered = true ∧
    s.entry 3 = some e ∧ e.deadline = 0 :=
  let e := { newEntry State.reset 3 .rewind 1 .groupWord with deadline := 0 }
  ⟨e, { service .departure (lineIn .slipping) with
    queue := [newEntry State.reset 2 .slip 1 .hostWord, e] }, by decide +kernel⟩

theorem test_meets_PacingExpiry : ∀ p ∈ [Pass.idle, .probing 3 none, .running 0, .probing 3 (some 12)],
    ∃ s : State, s.supply.powered = true ∧ s.scan.pacing = some 0 ∧ s.scan.pass = p :=
  fun p _ => ⟨{ service .secured (lineIn .locked) with
    scan := { Scan.reset with pacing := some 0, pass := p } }, rfl, rfl, rfl⟩

/-- An active copy that sums to 0, and the same with one bit upset. -/
theorem test_meets_Verification : ∃ s : State, s.Sound ∧ s.berth.phase = .secured ∧
    (s.line 11).fitted = true ∧ (s.line 11).state = .rendering .tending 4 ∧ s.supply.powered = true ∧ s.profile.verify = some 0 ∧
    s.profile.active.foldl (· + ·) 0 = 0 ∧
    ([(127, 1#32)].foldl (fun ws (x : Fin 128 × Word) => ws.set x.1.val x.2)
      s.profile.active).foldl (· + ·) 0 ≠ 0 :=
  ⟨{ service .secured (lineIn (.rendering .tending 4)) with profile := { Profile.reset with verify := some 0 } },
    have h := service_sound .secured (.rendering .tending 4)
    ⟨h.line, h.attn, h.queueSize, h.queueLines, h.present, h.orderLines, h.reports, ⟨rfl, rfl⟩⟩,
    by decide +kernel⟩

/-- A part with line 11 unfitted and a probe of line 7 waiting while that of line 4 runs, in ADOPT_READ and
at DONE, when the timer ends; and one where nothing waits for a probe. -/
theorem test_meets_Verification_scan : ∀ g ∈ [Stage.adoptRead, .done], ∃ s : State,
    s.supply.powered = true ∧ s.profile.verify = some 0 ∧ s.supply.stage = g ∧
    (s.line 11).fitted = false ∧ (s.line 7).probeWaiting = true ∧ s.scan.pass = .probing 4 (some 3) ∧
    (∀ k, k < 4 → (s.line k).probeWaiting = false) ∧ s.profile.active.foldl (· + ·) 0 = 0 := by
  intro g hg
  let s := modLine 11 (fun l => { l with fitted := false }) (modLine 7 (fun l =>
    { l with probeWaiting := true }) (service .secured (lineIn .locked)))
  refine ⟨{ s with
    scan := { Scan.reset with pass := .probing 4 (some 3) }
    profile := { Profile.reset with verify := some 0 }
    supply := { s.supply with stage := g } }, ?_⟩
  revert g
  decide +kernel

/-- A line at rest in state `st` with a full ring. -/
def resting (st : LineState) (rank : Nat) (fitted : Bool) : Line :=
  { lineIn st with rank := rank, fitted := fitted, ring := List.replicate 8 ⟨150, .low⟩ }

theorem resting_sound (st : LineState) (rank : Nat) (fitted : Bool) : (resting st rank fitted).Sound :=
  { @lineIn_sound st with ring := Nat.le_refl 8 }

/-- A held SLIP of line 4 that waits for line 0 in DEPARTURE, under ranks the fallback does not have, with
line 11 fitted or not, as the verification timer ends. -/
def rankWaits (last : Bool) : State :=
  let s := modLine 11 (fun _ => resting .parked 1 last)
    (modLine 0 (fun _ => resting .locked 0 true) (service .departure (resting .locked 1 true)))
  { s with
    queue := [⟨4, .slip, 9, ⟨false, true, false, true, false⟩, .waiting, false, 5, .hostWord, false⟩]
    scan := { Scan.reset with pass := .running 5 }
    profile := { s.profile with verify := some 0 } }

/-- A line newly fitted by a mismatch makes the hold queue re-evaluate its entries: the gates are open under
the fallback's ranks, and the probe runs first in the new scan although the entry is flushed (R5, R101). With
no line newly fitted the entry asks for nothing. -/
theorem test_mismatch_reevaluates : ∀ last ∈ [true, false], let u := mismatch (rankWaits last)
    u.scan.pass = (if last then .running 0 else .probing 4 (some 0)) ∧ u.queue = [] ∧
    u.berth.phase = .lockdown ∧ (u.line 11).state = (if last then .parked else .adopting) ∧
    (u.line 4).lastHost = ⟨some (9, .slip), some .flushed, none⟩ := by decide +kernel

/-- The same part is sound, its entry waits, and the fallback opens its gates. -/
theorem test_meets_Verification_asks : ∃ (e : Entry) (s : State), s.Sound ∧ s.supply.powered = true ∧
    s.profile.verify = some 0 ∧ s.entry 4 = some e ∧ e.kind = .slip ∧ e.stage = .waiting ∧
    e.failed = false ∧ ¬ s.Open 4 ∧
    let w := applyProfile (setActive fallbackImage .fallback s)
    w.Open 4 ∧ (w.line 11).state ≠ (s.line 11).state := by
  have h := held_sound (((service_sound_of .departure (resting_sound .locked 1 true) rfl).modLine
      (n := 0) (f := fun _ => resting .locked 0 true) (resting_sound ..) rfl).modLine
      (n := 11) (f := fun _ => resting .parked 1 false) (resting_sound ..) rfl)
    ⟨4, .slip, 9, ⟨false, true, false, true, false⟩, .waiting, false, 5, .hostWord, false⟩ Scan.reset
  refine ⟨_, rankWaits false, ⟨h.line, h.attn, h.queueSize, h.queueLines, h.present, h.orderLines,
    h.reports, h.load⟩, rfl, rfl, rfl, rfl, rfl, rfl, ?_⟩
  unfold State.Open State.Ready State.Ranked State.Settled
  decide +kernel

theorem test_meets_LineSampleRecorded : ∃ s : State, s.supply.powered = true ∧
    s.scan.pass = .running 0 ∧ s.scan.plan[0]? = some (.line 11) ∧ s.queue = [] :=
  ⟨{ service .secured (lineIn .locked) with
    scan := { Scan.reset with plan := [.line 11, .reference], pass := .running 0 } }, by decide +kernel⟩

/-- Run counts at the persistence of the fallback's values, and just below. -/
theorem test_meets_SampleActs : ∀ v ∈ [(Classification.over, 3, 0), (.over, 2, 0), (.slack, 0, 5)],
    ∃ s : State, s.queue = [] ∧ (s.line 0).cls = v.1 ∧ (s.line 0).overRun = v.2.1 ∧
    (s.line 0).slackRun = v.2.2 ∧ (s.line 0).state = .tending ∧ renderPersistence s.image = 3 ∧
    slackPersistence s.image = 5 := by
  intro v hv
  refine ⟨service .secured { lineIn .tending with
    cls := v.1, overRun := v.2.1, slackRun := v.2.2, tension := some 0 }, ?_⟩
  revert v
  decide +kernel

/-- Line 0 with a sample classified `c`, of tension 300 and with `k` in the SLACK run, in state `st`. -/
def sampled (st : LineState) (c : Classification) (k : Nat) : State :=
  service .secured { lineIn st with cls := c, tension := some 300, slackRun := k }

/-- The target of a haul met at equality and missed by one, persistence on LOCKED and SLIPPING lines, the
take-up, the snag and the returns of a render: what the line becomes, with its pair where it has one (R10 to
R17). -/
theorem test_meets_SampleActs_clauses : ∀ v ∈ [
      (sampled (.hauling 300) .inBand 0, LineState.locked, 1), (sampled (.hauling 301) .inBand 0, .hauling 301, 0),
      (sampled .locked .slack 5, .faulted .lineSlack, 0), (sampled .locked .slack 4, .locked, 0),
      (sampled .slipping .slack 5, .slack, 0), (sampled .slipping .slack 4, .slipping, 0),
      (sampled .standing .inBand 0, .locked, 0), (sampled .standing .high 0, .locked, 0),
      (sampled .standing .over 0, .locked, 0), (sampled .standing .low 0, .standing, 0),
      (sampled .rewinding .low 0, .faulted .snag, 1), (sampled .rewinding .slack 5, .rewinding, 0),
      (sampled (.rendering .locked 1) .inBand 0, .locked, 1), (sampled (.rendering .tending 2) .low 0, .tending, 1),
      (sampled (.rendering .tending 2) .slack 0, .tending, 1),
      (sampled (.rendering .locked 1) .high 0, .rendering .locked 1, 0)],
    v.1.queue = [] ∧ (v.1.line 0).overRun = 0 ∧ slackPersistence v.1.image = 5 ∧
    ((sampleEvent 0 v.1).line 0).state = v.2.1 ∧ (sampleEvent 0 v.1).bus.orderLane.length = v.2.2 := by
  decide +kernel

/-- An ADOPTING line in service, its brake set or not and its stow switch made or not (R204, R206). -/
theorem test_meets_SampleActs_adopting : ∀ b ∈ [true, false], ∀ made ∈ [true, false],
    let s := service .secured { lineIn .adopting with brakeSet := b, stowMade := made, payout := 7 }
    s.queue = [] ∧ s.berth.phase.silent = false ∧
    ((sampleEvent 0 s).line 0).state = derivedState (s.line 0) ∧
    ((sampleEvent 0 s).line 0).payout = (if made then 0 else 7) ∧
    (sampleEvent 0 s).bus.orderLane.length = (if b then 0 else 1) := by decide +kernel

/-- A sample that meets no condition leaves the part as it is (R10 to R17). -/
theorem test_samples_that_change_nothing : [LineState.hauling 300, .locked, .standing, .tending, .slipping,
      .rewinding, .rendering .locked 1].all (fun st =>
    let s := service .secured { lineIn st with
      cls := if st.isRendering then .high else .noClass, tension := some 299, overRun := 9, slackRun := 9 }
    sampleEvent 4 s == s) = true := by decide +kernel

/-- Either state of the reference at either count, with raw values at and past the ends of the window, and
an entry in the hold queue. -/
theorem test_meets_ReferenceJudged : ∀ r ∈ [RefState.ok, .fault], ∀ c ∈ [0, 1],
    ∀ p ∈ [Phase.departure, .lockdown, .halted], ∃ s : State, s.Sound ∧ s.supply.powered = true ∧
    s.scan.pass = .running 0 ∧ s.scan.plan[0]? = some .reference ∧ s.supply.stage ≠ .firstPass ∧
    s.berth.phase = p ∧ s.queue.length = 1 ∧ s.scan.ref = r ∧ s.scan.refCount = c ∧
    referenceLow s.image = 1900 ∧ referenceHigh s.image = 2200 := by
  intro r hr c hc p hp
  refine ⟨{ service p (lineIn .locked) with
    queue := [newEntry State.reset 3 .slip 1 .hostWord]
    scan := { Scan.reset with plan := [.reference], pass := .running 0, ref := r, refCount := c } },
    held_sound (service_sound p .locked) _ _, ?_⟩
  revert r c p
  decide +kernel

/-- The pass that ends at the divider, and one before it (R167). -/
theorem test_meets_ReferenceJudged_refresh : ∀ d ∈ [0, 1], ∃ s : State, s.berth.phase.silent = false ∧
    reportDivider s.image = 4 ∧ s.report.divider + d = 3 := by
  intro d hd
  refine ⟨{ service .secured (lineIn .locked) with
    profile := { Profile.reset with active := fallbackImage.set 2 0x00030004 }
    report := { Reporting.reset with divider := 3 - d } }, ?_⟩
  revert d
  decide +kernel

theorem test_meets_ProbeConversion : (∃ s : State, s.supply.powered = true ∧
      s.scan.pass = .probing 4 (some 12)) ∧
    ∃ v : State, (v.line 7).probeWaiting = true ∧ ∀ k, k < 7 → (v.line k).probeWaiting = false :=
  ⟨⟨{ service .departure (lineIn .locked) with
      scan := { Scan.reset with pass := .probing 4 (some 12) } }, rfl, rfl⟩,
   modLine 7 (fun l => { l with probeWaiting := true }) (service .departure (lineIn .locked)),
   by decide +kernel⟩

/-- The probe of a PROBING entry begins from the probe set, and the entry marks it (R65, R98). -/
theorem test_next_probe_marks :
    let s := modLine 4 (fun l => { l with probeWaiting := true }) (heldSlip .locked .probing 150 (.probing 2 none))
    let s := { s with queue := s.queue.map fun e => { e with probeBegun := false } }
    (nextProbe none s).scan.pass = .probing 4 none ∧
    (nextProbe none s).queue.map (·.probeBegun) = [true] := by decide +kernel

/-- In STARTING no record joins the report lane, and in HALTED the berth record alone (R176). -/
theorem test_silent_reports : ∀ p ∈ [(Phase.starting, ([] : List RecId)), (.halted, [12]), (.vacant, [3, 12])],
    (askBerth (askLine 3 (service p.1 (lineIn .parked)))).bus.reportLane = p.2 := by decide +kernel

/-- A probe result at the slip limit and one above it. -/
theorem test_meets_ProbeResult : ∀ v ∈ [150, 151], ∃ (e : Entry) (s : State), s.queue = [e] ∧
    e.line = 4 ∧ e.kind = .slip ∧ e.stage = .probing ∧ e.probeBegun = true ∧ s.Open 4 ∧
    s.berth.phase = .departure ∧ (s.line 4).tension = some v ∧ slipLimit s.image 4 = 150 := by
  intro v hv
  refine ⟨⟨4, .slip, 9, ⟨false, false, false, true, false⟩, .probing, false, 5, .hostWord, true⟩,
    heldSlip .locked .probing v .idle, ?_⟩
  unfold State.Open State.Ready State.Ranked State.Settled
  revert v
  decide +kernel

end Sys2Proof.Tests
end

section
/-! SUPPORT. The form of a host order word and of a group word (R36 to R38, R56), and the statements about
words of bad form and about repeated orders (R40). -/

namespace Sys2Proof.Machine

/-! ### The fields of an order word and of a group word -/

theorem isFull_eq_false_iff (be : ByteEnables) : isFull be = false ↔ be ≠ 15 := by
  simp [isFull]

theorem checkGood_eq_false_iff (w : Word) : checkGood w = false ↔ byteSum w ≠ 0xC3#8 := by
  simp [checkGood]

theorem kindOfCode_eq_some_iff (c : Nat) (k : OrderKind) : kindOfCode c = some k ↔ c = k.code := by
  constructor
  · intro h
    unfold kindOfCode at h
    split at h <;> cases h <;> rfl
  · rintro rfl
    cases k <;> rfl

/-- The kinds have the codes 1 to 8 (R38). -/
theorem kindOfCode_eq_none_iff (c : Nat) : kindOfCode c = none ↔ c = 0 ∨ 9 ≤ c := by
  unfold kindOfCode
  split
  case h_9 =>
    simp only [imp_false, true_iff] at *
    omega
  all_goals simp

/-- What R38 calls BAD_KIND: a bad kind code, tag 0, or a bit outside the fields. -/
theorem readOrder_eq_none_iff (w : Word) : readOrder w = none ↔
    codeField w = 0 ∨ 9 ≤ codeField w ∨ tagField w = 0 ∨ w.extractLsb' 20 12 ≠ 0 := by
  unfold readOrder orderSpare
  by_cases bad : tagField w = 0 ∨ w.extractLsb' 20 12 ≠ 0
  · rw [if_pos bad]
    exact iff_of_true rfl (.inr (.inr bad))
  · rw [if_neg bad, Option.map_eq_none_iff, kindOfCode_eq_none_iff, ← or_assoc, or_iff_left bad]

/-- A group word names a line where its mask is not 0. -/
theorem groupNames_eq_false_iff (w : Word) :
    (∀ n, groupNames w n = false) ↔ w.extractLsb' 20 12 = 0 := by
  have bit : ∀ n : LineId, (w.extractLsb' 20 12).getLsbD n.val = groupNames w n := fun n => by
    simp [groupNames]
  constructor
  · intro h
    ext i hi
    rw [← BitVec.getLsbD_eq_getElem, bit ⟨i, hi⟩, h]
    simp
  · intro h n
    rw [← bit n, h]
    exact BitVec.getLsbD_zero

/-- The cases of R56 in which the group is dropped. -/
theorem readGroup_eq_none_iff (w : Word) (be : ByteEnables) : readGroup w be = none ↔
    be ≠ 15 ∨ byteSum w ≠ 0xC3#8 ∨ codeField w ∉ [1, 3, 5, 6] ∨ tagField w = 0 ∨
      ∀ n, groupNames w n = false := by
  rw [groupNames_eq_false_iff, ← isFull_eq_false_iff, ← checkGood_eq_false_iff]
  unfold readGroup
  split
  · rename_i good
    simp only [Bool.and_eq_true, bne_iff_ne] at good
    obtain ⟨⟨⟨full, check⟩, tag⟩, mask⟩ := good
    simp only [full, check, tag, mask, Bool.true_eq_false, false_or, or_false]
    split
    case h_9 unread =>
      have code := (kindOfCode_eq_none_iff _).mp unread
      simp only [true_iff, List.mem_cons, List.not_mem_nil, or_false]
      omega
    all_goals
      rename_i read
      simp [(kindOfCode_eq_some_iff _ _).mp read, OrderKind.code]
  · rename_i bad
    refine iff_of_true rfl ?_
    simp only [Bool.and_eq_true, bne_iff_ne, not_and_or, not_not, Bool.not_eq_true] at bad
    tauto

/-- A host order word that is not read is refused with BAD_KIND once write and check are good (R38). -/
theorem writeOrder_unread {n : LineId} {w : Word} (hc : checkGood w = true) (hr : readOrder w = none)
    (s : State) : writeOrder n w 15 s = refuse n none .badKind s := by
  unfold writeOrder
  rw [if_neg (by simp [isFull]), if_neg (by simp [hc]), hr]

theorem writeOrder_partial {n : LineId} {w : Word} {be : ByteEnables} (h : be ≠ 15) (s : State) :
    writeOrder n w be s = refuse n none .partialWrite s :=
  if_pos ((isFull_eq_false_iff be).mpr h)

theorem writeOrder_unchecked {n : LineId} {w : Word} (h : byteSum w ≠ 0xC3#8) (s : State) :
    writeOrder n w 15 s = refuse n none .badCheck s := by
  unfold writeOrder
  rw [if_neg (by simp [isFull]), if_pos ((checkGood_eq_false_iff w).mpr h)]

/-- A group word that is not read is dropped with its notice (R56). -/
theorem writeGroup_unread {w : Word} {be : ByteEnables} (hr : readGroup w be = none) (s : State) :
    writeGroup w be s = setBerthNotice .groupRefused s := by
  unfold writeGroup
  rw [hr]

/-! ### A refusal before the tag is read -/

/-- An order row whose write is refused before the fitted check is a refusal that keeps the latch (R34). -/
theorem exec_orderRow_refused {i : Instr} {n : LineId} {w : Word} {be : ByteEnables} {r : RefusalReason}
    {s : State} (hi : OrderRow i n w be) (hs : s.takesWords)
    (hw : ∀ v, writeOrder n w be v = refuse n none r v) :
    ∃ u, exec i s = .next (arbitrate u) ∧ RefusedOrder s u n none r (s.line n).latch := by
  refine ⟨refuse n none r (hostActivity s), ?_, refusedOrder_refuse hs (modLine_latch n (hostActivity s)).symm⟩
  rw [exec_orderRow hi, hostWrite_order hs, hw]

/-- Settles O16: each bad form is refused before the tag and kind are read. -/
theorem wordFormRefusals : Obligations.WordFormRefusals := by
  unfold Obligations.WordFormRefusals
  intro i n w be s hi hs
  refine ⟨fun part => ?_, fun full check => ?_, fun full check form => ?_⟩
  · exact exec_orderRow_refused hi hs (writeOrder_partial part)
  · subst full
    exact exec_orderRow_refused hi hs (writeOrder_unchecked check)
  · subst full
    have good : checkGood w = true := by simpa [checkGood] using check
    exact exec_orderRow_refused hi hs (writeOrder_unread good ((readOrder_eq_none_iff w).mpr form))

/-! ### A notice and the report lane -/

/-- A request for one record leaves every other where it was (R155). -/
theorem mem_askRecord_other {q r : RecId} (h : q ≠ r) (s : State) :
    q ∈ (askRecord r s).bus.reportLane ↔ q ∈ s.bus.reportLane := by
  unfold askRecord
  split
  · rfl
  · simp [h]

/-- A berth notice asks for no line record (R172). -/
theorem line_mem_setBerthNotice (n : LineId) (k : BerthNotice) (s : State) :
    n.castSucc ∈ (setBerthNotice k s).bus.reportLane ↔ n.castSucc ∈ s.bus.reportLane := by
  unfold setBerthNotice
  split
  · rfl
  · exact mem_askRecord_other (Fin.castSucc_lt_last n).ne _

/-- A berth notice newly set asks for the berth record (R172). -/
theorem berth_mem_setBerthNotice {k : BerthNotice} {s : State} (hk : s.notice k = false)
    (hp : s.berth.phase ≠ .starting) : 12 ∈ (setBerthNotice k s).bus.reportLane := by
  unfold setBerthNotice
  rw [if_neg (by simp [hk])]
  exact mem_askBerth hp

/-- Settles O17: a word that R56 drops is one that reads as no group; what its notice leaves is said by the
lemmas of the notices. -/
theorem groupWordDropped : Obligations.GroupWordDropped := by
  unfold Obligations.GroupWordDropped
  intro i w be s hi
  refine ⟨fun hs bad => ?_, fun power free silent => ?_⟩
  · have unread := (readGroup_eq_none_iff w be).mpr bad
    refine ⟨setBerthNotice .groupRefused (hostActivity s), ?_, notice_setBerthNotice _ _,
      fun k hk => notice_setBerthNotice_other hk _, lines_setBerthNotice _ _, setBerthNotice_queue _ _,
      Bus.bare_orderLane (setBerthNotice_bare _ _),
      fun unset => berth_mem_setBerthNotice unset (Phase.not_starting hs.2.2),
      fun n => line_mem_setBerthNotice n _ _, setBerthNotice_berth _ _, setBerthNotice_scan _ _,
      setBerthNotice_profile _ _, setBerthNotice_supply _ _⟩
    rw [exec_groupRow hi, hostWrite_group hs, writeGroup_unread unread]
  · rw [exec_groupRow hi, hostWrite_dropped power free silent (by decide)]

/-! ### Repeated orders -/

/-- A repeated order of a fitted line ends the screening with nothing changed (R40). -/
theorem screen_repeated {n : LineId} {k : OrderKind} {t : Tag} {s : State} (o : Origin)
    (hf : (s.line n).fitted = true) (hr : (s.line n).lastHost.order = some (t, k)) :
    screen n k t o s = s := by
  unfold screen
  rw [if_neg (by simp [hf]), if_pos hr]

/-- Settles O19: screening ends at repeat detection, and host activity touches the host-silence timer
alone. -/
theorem repeatedOrderChangesNothing : Obligations.RepeatedOrderChangesNothing := by
  unfold Obligations.RepeatedOrderChangesNothing
  intro i n k t o s carried hs fitted same
  refine ⟨?_, rfl⟩
  rw [exec_carries carried hs, screen_repeated o (s := hostActivity s) fitted same]

end Sys2Proof.Machine
end

section
/-! SUPPORT. The cursor word read field by field (R104) and the answer of the sample port (R105), and the
statement about both. -/

namespace Sys2Proof.Machine

/-! ### The cursor word -/

/-- A full write that names a line and keeps bits 31:8 clear gives line, index and direction. -/
theorem readCursor_named {w : Word} {n : LineId} (hn : (w.extractLsb' 0 4).toNat = n.val)
    (hz : w.extractLsb' 8 24 = 0) :
    readCursor w 15 = some ⟨n, (w.extractLsb' 4 3).toFin, w.getLsbD 7⟩ := by
  have named : (w.extractLsb' 0 4).toNat < 12 := hn ▸ n.isLt
  unfold readCursor
  rw [dif_pos named, if_pos (by simp [isFull, hz])]
  congr 2
  exact Fin.ext hn

/-- The words that leave the cursor as it is (R104). -/
theorem readCursor_eq_none_iff (w : Word) (be : ByteEnables) : readCursor w be = none ↔
    be ≠ 15 ∨ 12 ≤ (w.extractLsb' 0 4).toNat ∨ w.extractLsb' 8 24 ≠ 0 := by
  unfold readCursor
  by_cases named : (w.extractLsb' 0 4).toNat < 12
  · rw [dif_pos named, or_iff_right (Nat.not_le.mpr named), ← isFull_eq_false_iff]
    simp [Decidable.imp_iff_not_or]
  · rw [dif_neg named]
    exact iff_of_true rfl (.inr (.inl (Nat.le_of_not_lt named)))

theorem writeCursor_read {w : Word} {be : ByteEnables} {c : Cursor} (hr : readCursor w be = some c)
    (s : State) : writeCursor w be s = { s with scan := { s.scan with cursor := c } } := by
  unfold writeCursor
  rw [hr]

theorem writeCursor_unread {w : Word} {be : ByteEnables} (hr : readCursor w be = none) (s : State) :
    writeCursor w be s = s := by
  unfold writeCursor
  rw [hr]

/-- The cursor word is host activity, then the cursor's. -/
theorem exec_cursorWordWrite {s : State} (hs : s.takesWords) (w : Word) (be : ByteEnables) :
    exec (.cursorWordWrite w be) s = .next (arbitrate (writeCursor w be (hostActivity s))) :=
  congrArg Host.Outcome.next (hostWrite_cursor hs w be)

/-! ### The sample the cursor names -/

theorem cursorSample_silent {s : State} (hs : s.berth.phase.silent = true) : cursorSample s = none := by
  unfold cursorSample
  rw [if_pos (by simp [hs])]

theorem cursorSample_unfitted {s : State} (hf : (s.line s.scan.cursor.line).fitted = false) :
    cursorSample s = none := by
  unfold cursorSample
  rw [if_pos (by simp [hf])]

/-- Out of STARTING and HALTED a fitted line answers with its ring. -/
theorem cursorSample_fitted {s : State} (hs : s.berth.phase.silent = false)
    (hf : (s.line s.scan.cursor.line).fitted = true) :
    cursorSample s = (s.line s.scan.cursor.line).ring[s.scan.cursor.index.val]? := by
  unfold cursorSample
  rw [if_neg (by simp [hs, hf])]

/-- No entry is shown for an unfitted line and past the end of the ring. -/
theorem cursorSample_absent {s : State} (hs : s.berth.phase.silent = false)
    (absent : (s.line s.scan.cursor.line).fitted = false ∨
      (s.line s.scan.cursor.line).ring[s.scan.cursor.index.val]? = none) : cursorSample s = none := by
  by_cases fitted : (s.line s.scan.cursor.line).fitted = true
  · rw [cursorSample_fitted hs fitted]
    exact absent.resolve_left (by simp [fitted])
  · exact cursorSample_unfitted (by simpa using fitted)

/-! ### The answer -/

/-- Index and line of the cursor where they stand in the answer (09). -/
def Cursor.place (c : Cursor) : Word :=
  BitVec.ofNat 32 c.index.val <<< 17 ||| BitVec.ofNat 32 c.line.val <<< 20

/-- The answer with an entry: tension, classification and the present flag beside the cursor. -/
theorem portAnswer_present {s : State} {x : Sample} (hx : cursorSample s = some x) :
    portAnswer s = s.scan.cursor.place ||| (BitVec.ofNat 32 x.tension |||
      BitVec.ofNat 32 x.cls.code <<< 14 ||| 1#32 <<< 31) := by
  simp [portAnswer, hx, Cursor.place, field, flag]

/-- The answer without an entry: the cursor alone. -/
theorem portAnswer_absent {s : State} (hx : cursorSample s = none) :
    portAnswer s = s.scan.cursor.place := by
  simp [portAnswer, hx, Cursor.place, field]

/-- The cursor steps through the eight entries of a line, then to the next line in its direction (R105). -/
theorem Cursor.advance_eq (c : Cursor) : c.advance =
    if c.decrement then
      (if c.index = 0 then ⟨c.line - 1, 7, true⟩ else ⟨c.line, c.index - 1, true⟩)
    else (if c.index = 7 then ⟨c.line + 1, 0, false⟩ else ⟨c.line, c.index + 1, false⟩) := by
  obtain ⟨n, i, down⟩ := c
  cases down <;> rfl

/-! ### A transfer at the sample port -/

/-- A read is answered from the state it meets, and the cursor advances. -/
theorem readPort_speaking {s : State} (hs : s.berth.phase.silent = false) :
    readPort s = { s with
      bus := { s.bus with readData := portAnswer s }
      scan := { s.scan with cursor := s.scan.cursor.advance } } := by
  unfold readPort
  rw [if_neg (by simp [hs])]

/-- In STARTING and HALTED a read is answered and the cursor stays. -/
theorem readPort_silent {s : State} (hs : s.berth.phase.silent = true) :
    readPort s = { s with bus := { s.bus with readData := portAnswer s } } := by
  unfold readPort
  rw [if_pos hs]

/-- The part itself answers a read of the port, in the event. -/
theorem exec_samplePortRead {s : State} (hp : s.supply.powered = true) (hu : s.uwait = false)
    (be : ByteEnables) : exec (.samplePortRead be) s = .next (arbitrate (readPort s)) :=
  congrArg Host.Outcome.next (present_read hp hu (j := 28) (by decide))

/-- A write of the port word is dropped. -/
theorem exec_samplePortWrite {s : State} (hp : s.supply.powered = true) (hu : s.uwait = false)
    (w : Word) (be : ByteEnables) :
    exec (.passedWrite (regionWord s.bus.base 28) w be) s = .next (arbitrate s) :=
  congrArg Host.Outcome.next (present_write hp hu (j := 28) (by decide))

/-- Settles O37: the words that set the cursor are those that read as one, and the answer of the port
follows the sample the cursor names. -/
theorem cursorAndSamplePort : Obligations.CursorAndSamplePort := by
  unfold Obligations.CursorAndSamplePort
  refine ⟨fun w be s hs => ⟨fun n full line zero => ?_, fun bad => ?_⟩, ?_⟩
  · subst full
    rw [exec_cursorWordWrite hs, writeCursor_read (readCursor_named line zero)]
    rfl
  · rw [exec_cursorWordWrite hs, writeCursor_unread ((readCursor_eq_none_iff w be).mpr bad)]
  · intro be s power free c place next
    rw [exec_samplePortRead power free]
    have advances : s.scan.cursor.advance = next := Cursor.advance_eq c
    refine ⟨fun speaks x fitted entry => ?_, fun speaks absent => ?_, fun silent => ?_,
      fun w => exec_samplePortWrite power free w be⟩
    · have shown : cursorSample s = some x := (cursorSample_fitted speaks fitted).trans entry
      rw [readPort_speaking speaks, portAnswer_present shown, advances]
      rfl
    · rw [readPort_speaking speaks, portAnswer_absent (cursorSample_absent speaks absent), advances]
      rfl
    · rw [readPort_silent silent, portAnswer_absent (cursorSample_silent silent)]
      rfl

end Sys2Proof.Machine
end

section
/-! SUPPORT. How a berth request word is ruled on (R123 to R126), what a refused request and an accepted RESUME
leave (R126, R134), and the statement about RESUME. -/

namespace Sys2Proof.Machine

/-! ### A request word, read and ruled on -/

/-- A request row of the host is host activity, then the request's own handling. -/
theorem exec_requestRow_taken {i : Instr} {w : Word} {be : ByteEnables} {s : State}
    (hi : RequestRow i w be) (hs : s.takesWords) :
    exec i s = .next (arbitrate (writeRequest w be (hostActivity s))) := by
  rw [exec_requestRow hi, hostWrite_request hs]

/-- A request whose pairing stands in R124 is accepted where its condition holds, and else NOT_READY. -/
theorem writeRequest_ruled {w : Word} {be : ByteEnables} {q : Request} {s t : State} {c : Bool}
    (hr : readRequest w be = some q) (hq : ruling q s = .when c t) :
    writeRequest w be s = if c then t else refuseRequest .notReady s := by
  unfold writeRequest
  rw [hr]
  dsimp only
  rw [hq]

/-- The pairing of RESUME with LOCKDOWN, and its condition (R124, R125). -/
theorem ruling_resume {s : State} (h : s.berth.phase = .lockdown) : ruling .resume s =
    .when (s.berth.present == 0 && s.profile.load == .idle) (resumeBerth s) := by
  unfold ruling
  rw [h]

/-- RESUME with no cause present and no load in flight is accepted (R134). -/
theorem writeRequest_resume {w : Word} {be : ByteEnables} {s : State}
    (hr : readRequest w be = some .resume) (hl : s.berth.phase = .lockdown)
    (ended : s.berth.present = 0) (idle : s.profile.load = .idle) :
    writeRequest w be s = resumeBerth s := by
  rw [writeRequest_ruled hr (ruling_resume hl), if_pos (by simp [ended, idle])]

/-- RESUME with a cause present or a load in flight is refused (R126). -/
theorem writeRequest_resume_notReady {w : Word} {be : ByteEnables} {s : State}
    (hr : readRequest w be = some .resume) (hl : s.berth.phase = .lockdown)
    (busy : s.berth.present ≠ 0 ∨ s.profile.load ≠ .idle) :
    writeRequest w be s = refuseRequest .notReady s := by
  rw [writeRequest_ruled hr (ruling_resume hl), if_neg]
  simpa [Decidable.imp_iff_not_or] using busy

/-! ### A refused request -/

/-- What a refusal of a berth request leaves (R126). -/
theorem refusedRequest_refuseRequest {s : State} (hs : s.takesWords) (r : RequestRefusal) :
    RefusedRequest s (refuseRequest r (hostActivity s)) r where
  berth := by simp [refuseRequest]
  notice := by
    unfold refuseRequest
    rw [notice_askBerth, notice_setBerthNotice]
  others k hk := by
    unfold refuseRequest
    rw [notice_askBerth, notice_setBerthNotice_other hk]
    rfl
  record := by
    have speaking : s.berth.phase ≠ .starting := Phase.not_starting hs.2.2
    exact mem_askBerth (by simpa using speaking)
  kept := by
    unfold refuseRequest
    refine ⟨?_, by simp, Bus.bare_orderLane ?_, by simp, by simp, by simp⟩
    · rw [lines_askBerth, lines_setBerthNotice, hostActivity_lines]
    · rw [askBerth_bare, setBerthNotice_bare, hostActivity_bus]

/-! ### An accepted RESUME -/

/-- The phase that RESUME leads to, by the counting rule of R125. -/
def resumedPhase (s : State) : Phase := if s.allParked then .vacant else .secured

theorem resumedPhase_vacant {s : State}
    (h : ∀ n, (s.line n).fitted = true → (s.line n).state = .parked) : resumedPhase s = .vacant :=
  if_pos ((allParked_iff s).mpr h)

theorem resumedPhase_secured {s : State}
    (h : ∃ n, (s.line n).fitted = true ∧ (s.line n).state ≠ .parked) : resumedPhase s = .secured := by
  obtain ⟨n, fitted, away⟩ := h
  exact if_neg fun all => away ((allParked_iff s).mp all n fitted)

theorem resumedPhase_ne_starting (s : State) : resumedPhase s ≠ .starting := by
  unfold resumedPhase
  split <;> simp

/-- The counting rule looks at the lines alone. -/
theorem resumedPhase_congr {s t : State} (h : t.lines = s.lines) : resumedPhase t = resumedPhase s := by
  unfold resumedPhase State.allParked State.line
  rw [h]

/-- RESUME empties both sets and changes the phase (R134). -/
theorem resumeBerth_eq (s : State) :
    resumeBerth s = changePhase (resumedPhase s) id (setCauses 0 0 s) := by
  obtain ⟨_, lines, _⟩ := setCauses_fields 0 0 s
  rw [← resumedPhase_congr lines]
  rfl

/-- The berth block after RESUME in LOCKDOWN: the host-silence timer is loaded where the new phase runs it
(R128, R134). -/
theorem resumeBerth_berth {s : State} (hl : s.berth.phase = .lockdown) :
    (resumeBerth s).berth = { s.berth with
      phase := resumedPhase s
      causes := 0
      present := 0
      silence := if (resumedPhase s).runsSilence then
        some ((setCauses 0 0 s).ticksFor (hostSilenceTime (setCauses 0 0 s).image)) else none } := by
  obtain ⟨berth, _⟩ := setCauses_fields 0 0 s
  rw [resumeBerth_eq, changePhase_berth, berth, hl]
  rfl

/-- RESUME leaves everything but the berth block and the report lane (R134). -/
theorem resumeBerth_fields (s : State) :
    (resumeBerth s).lines = s.lines ∧ (resumeBerth s).queue = s.queue ∧
    (resumeBerth s).bus.bare = s.bus.bare ∧ (resumeBerth s).scan = s.scan ∧
    (resumeBerth s).profile = s.profile ∧ (resumeBerth s).supply = s.supply ∧
    (resumeBerth s).report = s.report := by
  obtain ⟨_, lines, queue, bus, scan, profile, supply, report, _⟩ := setCauses_fields 0 0 s
  obtain ⟨lines', queue', bus', scan', profile', supply', report'⟩ :=
    changePhase_fields (resumedPhase s) (setCauses 0 0 s)
  rw [resumeBerth_eq]
  exact ⟨lines'.trans lines, queue'.trans queue, bus'.trans bus, scan'.trans scan,
    profile'.trans profile, supply'.trans supply, report'.trans report⟩

/-- RESUME asks for the berth record (R122). -/
theorem berth_mem_resumeBerth (s : State) : 12 ∈ (resumeBerth s).bus.reportLane := by
  rw [resumeBerth_eq]
  exact changePhase_mem (resumedPhase_ne_starting s) id fun _ => rfl

/-- Settles O34: the ruling on RESUME in LOCKDOWN, and what its acceptance and its refusal leave. -/
theorem resumeEndsLockdown : Obligations.ResumeEndsLockdown := by
  unfold Obligations.ResumeEndsLockdown
  intro i w s row takes read lockdown
  rw [exec_requestRow_taken row takes]
  refine ⟨fun ended idle => ?_, fun busy => ?_⟩
  · rw [writeRequest_resume (s := hostActivity s) read lockdown ended idle]
    obtain ⟨lines, queue, bus, scan, profile, supply, report⟩ := resumeBerth_fields (hostActivity s)
    have berth := resumeBerth_berth (s := hostActivity s) lockdown
    rw [resumedPhase_congr (hostActivity_lines s)] at berth
    refine ⟨resumeBerth (hostActivity s), rfl, by rw [berth], by rw [berth], by rw [berth]; rfl, lines, queue,
      Bus.bare_orderLane bus, scan, profile, supply, report, berth_mem_resumeBerth _,
      fun parked => ?_, fun away => ?_⟩
    · rw [berth, resumedPhase_vacant parked]
      exact ⟨rfl, rfl⟩
    · rw [berth, resumedPhase_secured away]
      exact ⟨rfl, rfl⟩
  · rw [writeRequest_resume_notReady (s := hostActivity s) read lockdown busy]
    exact ⟨_, rfl, refusedRequest_refuseRequest takes .notReady⟩

end Sys2Proof.Machine
end

section
/-! SUPPORT. The eligible head of the report lane (R156), the arbiter's grant in each case (R150, R151), and the
statement about the arbiter. -/

namespace Sys2Proof.Machine

/-! ### The eligible head of the report lane -/

theorem snapLocked_iff {s : State} {r : RecId} :
    snapLocked s r = true ↔ ∃ l, s.bus.snap = some l ∧ l.record = r := by
  unfold snapLocked
  cases s.bus.snap <;> simp

/-- The head is the first record of the lane that the lock does not hold. -/
theorem eligibleRecord_eq_some_iff {s : State} {r : RecId} : eligibleRecord s = some r ↔
    ∃ before after, s.bus.reportLane = before ++ r :: after ∧
      ¬ snapLocked s r = true ∧ ∀ x ∈ before, snapLocked s x = true := by
  unfold eligibleRecord
  rw [List.find?_eq_some_iff_append]
  constructor
  · rintro ⟨unlocked, before, after, lane, skipped⟩
    exact ⟨before, after, lane, by simpa using unlocked, by simpa using skipped⟩
  · rintro ⟨before, after, lane, unlocked, skipped⟩
    exact ⟨by simpa using unlocked, before, after, lane, by simpa using skipped⟩

theorem eligibleRecord_eq_none_iff {s : State} :
    eligibleRecord s = none ↔ ∀ x ∈ s.bus.reportLane, snapLocked s x = true := by
  simp [eligibleRecord, List.find?_eq_none]

/-! ### The grant of part-internal traffic -/

theorem internalWaits_eq_false_iff {s : State} :
    internalWaits s = false ↔ s.bus.fetch = none ∧ eligibleRecord s = none := by
  simp [internalWaits]

/-- The fetch goes before the report lane. -/
theorem grantInternal_fetch {s : State} {f : Fetch} (hf : s.bus.fetch = some f) :
    grantInternal s = grantFetch f s := by
  unfold grantInternal
  rw [hf]

theorem grantInternal_record {s : State} {r : RecId} (hf : s.bus.fetch = none)
    (hr : eligibleRecord s = some r) : grantInternal s = grantRecord r s := by
  unfold grantInternal
  rw [hf, hr]

theorem grantInternal_idle {s : State} (hf : s.bus.fetch = none) (hr : eligibleRecord s = none) :
    grantInternal s = s := by
  unfold grantInternal
  rw [hf, hr]

/-- Of the bus path a grant of a record changes lane, mark and D-port; the words are those after the sequence
has risen (R156, R163). -/
theorem grantRecord_eq (r : RecId) (s : State) : grantRecord r s = { raiseSeq r s with
    bus := { s.bus with
      reportLane := s.bus.reportLane.erase r, mark := .internal,
      dport := some (recordWords r (raiseSeq r s)) } } := by
  simp only [grantRecord, raiseSeq_bus]

/-! ### The arbiter, case by case -/

/-- A free point is a D-port with the supply up and no transfer in progress (R150, R162). -/
theorem dportFree_iff {s : State} :
    dportFree s = true ↔ s.supply.powered = true ∧ s.bus.dport = none := by
  simp [dportFree]

/-- Away from a free point the arbiter does nothing. -/
theorem arbitrate_of_not_free {s : State} (h : ¬ dportFree s = true) : arbitrate s = s := by
  unfold arbitrate
  rw [if_neg h]

/-- Step 1: the oldest pair goes first. -/
theorem arbitrate_pair {s : State} {e : LaneEntry} {rest : List LaneEntry} (free : dportFree s = true)
    (lane : s.bus.orderLane = e :: rest) : arbitrate s = grantPair e rest s := by
  unfold arbitrate
  rw [if_pos free, lane]

/-- Steps 2 and 3 for a host transfer that waits: internal traffic goes first where it waits and the latest
grant of the two was the host's. -/
theorem arbitrate_waiting {s : State} {h : HostAccess} (free : dportFree s = true)
    (lane : s.bus.orderLane = []) (hw : s.bus.waiting = some h) : arbitrate s =
      if internalWaits s = true ∧ s.bus.mark = .host then grantInternal s else grantHost h s := by
  unfold arbitrate
  rw [if_pos free, lane, hw]

/-- Step 3 with no host transfer. -/
theorem arbitrate_no_host {s : State} (free : dportFree s = true) (lane : s.bus.orderLane = [])
    (hw : s.bus.waiting = none) : arbitrate s = grantInternal s := by
  unfold arbitrate
  rw [if_pos free, lane, hw]

/-- The host transfer is granted in its turn, or where no internal traffic waits. -/
theorem arbitrate_host {s : State} {h : HostAccess} (free : dportFree s = true)
    (lane : s.bus.orderLane = []) (hw : s.bus.waiting = some h)
    (turn : s.bus.mark = .internal ∨ internalWaits s = false) : arbitrate s = grantHost h s := by
  rw [arbitrate_waiting free lane hw, if_neg]
  rintro ⟨waits, host⟩
  rcases turn with internal | idle
  · cases internal.symm.trans host
  · cases waits.symm.trans idle

/-- Internal traffic that waits is granted in its turn, or where no host transfer waits. -/
theorem arbitrate_internal {s : State} (free : dportFree s = true) (lane : s.bus.orderLane = [])
    (waits : internalWaits s = true) (turn : s.bus.waiting = none ∨ s.bus.mark = .host) :
    arbitrate s = grantInternal s := by
  cases hw : s.bus.waiting with
  | none => exact arbitrate_no_host free lane hw
  | some h =>
    have host : s.bus.mark = .host := turn.resolve_left (by simp [hw])
    rw [arbitrate_waiting free lane hw, if_pos ⟨waits, host⟩]

/-- Settles O46: the head of the report lane, the mark after a reset, and the arbiter's order at a free point. -/
theorem arbiterGrants : Obligations.ArbiterGrants := by
  unfold Obligations.ArbiterGrants
  refine ⟨rfl, fun c t reset => ?_, fun s => ?_, fun s => ⟨fun busy => ?_, fun powered idle => ?_⟩⟩
  · obtain ⟨-, -, -, -, mark⟩ := reset.lanes
    exact mark
  · simp only [← snapLocked_iff]
    exact ⟨fun r => eligibleRecord_eq_some_iff, eligibleRecord_eq_none_iff⟩
  · refine arbitrate_of_not_free fun free => ?_
    obtain ⟨powered, idle⟩ := dportFree_iff.mp free
    simp [powered, idle] at busy
  · have free : dportFree s = true := dportFree_iff.mpr ⟨powered, idle⟩
    refine ⟨fun e rest lane => arbitrate_pair free lane, fun lane =>
      ⟨fun h hw turn => ?_, fun turn => ⟨fun f hf => ?_, fun r hf hr => ?_⟩, fun hw hf hr => ?_⟩⟩
    · exact arbitrate_host free lane hw (turn.imp_right internalWaits_eq_false_iff.mpr)
    · have waits : internalWaits s = true := by simp [internalWaits, hf]
      rw [arbitrate_internal free lane waits turn, grantInternal_fetch hf]
      rfl
    · have waits : internalWaits s = true := by simp [internalWaits, hr]
      rw [arbitrate_internal free lane waits turn, grantInternal_record hf hr, grantRecord_eq]
    · rw [arbitrate_no_host free lane hw, grantInternal_idle hf hr]

end Sys2Proof.Machine
end

section
/-! SUPPORT. The form of the commit word (R187), the three conditions of a quiet berth (R188), what the start of
a load and a recorded outcome leave, and the statement about the commit word. -/

namespace Sys2Proof.Machine

/-! ### The commit word and the quiet berth -/

theorem commitForm_iff (w : Word) (be : ByteEnables) : commitForm w be = true ↔
    be = 15 ∧ byteSum w = 0xC3#8 ∧ w.extractLsb' 8 8 = 0x6E#8 ∧ w.extractLsb' 16 16 = 0 := by
  simp [commitForm, isFull, checkGood, and_assoc]

theorem commitForm_eq_false_iff (w : Word) (be : ByteEnables) : commitForm w be = false ↔
    be ≠ 15 ∨ byteSum w ≠ 0xC3#8 ∨ w.extractLsb' 8 8 ≠ 0x6E#8 ∨ w.extractLsb' 16 16 ≠ 0 := by
  rw [← Bool.not_eq_true, commitForm_iff, not_and_or, not_and_or, not_and_or]

/-- The commit word is host activity, then the profile block's where its form is good. -/
theorem exec_commit {s : State} (hs : s.takesWords) (w : Word) (be : ByteEnables) :
    exec (.commit w be) s = .next (arbitrate (writeCommit w be (hostActivity s))) :=
  congrArg Host.Outcome.next (hostWrite_commit hs w be)

theorem writeCommit_formed {w : Word} {be : ByteEnables} (h : commitForm w be = true) (s : State) :
    writeCommit w be s = commitWord s := if_pos h

theorem writeCommit_malformed {w : Word} {be : ByteEnables} (h : commitForm w be = false) (s : State) :
    writeCommit w be s = s := if_neg (by simp [h])

/-- The three conditions of R188. -/
theorem quiet_iff (s : State) : quiet s = true ↔
    (s.berth.phase = .vacant ∨ s.berth.phase = .lockdown) ∧ s.queue = [] ∧
    ∀ n, (s.line n).fitted = true → (s.line n).state.moves = false ∧
      (s.line n).state.isHauling = false ∧ (s.line n).state ≠ .slipping := by
  simp [quiet, mem_allLines, Decidable.imp_iff_not_or, and_assoc]

/-- In a quiet berth an idle profile block starts a load. -/
theorem commitWord_idle {s : State} (still : quiet s = true) (idle : s.profile.load = .idle) :
    commitWord s = askBerth (startLoad s) := by
  unfold commitWord
  rw [if_pos still, idle]

/-- In a quiet berth a load in flight restarts. -/
theorem commitWord_loading {s : State} {i : Nat} (still : quiet s = true)
    (loading : s.profile.load = .loading i) : commitWord s = startLoad (discardFetch s) := by
  unfold commitWord
  rw [if_pos still, loading]

/-- A berth that is not quiet turns the word away. -/
theorem commitWord_busy {s : State} (busy : quiet s ≠ true) :
    commitWord s = recordOutcome .berthBusy s := by
  unfold commitWord
  rw [if_neg busy]

/-! ### The start of a load -/

@[simp] theorem startLoad_profile (s : State) : (startLoad s).profile =
    { s.profile with load := .loading 0, buffer := [], sum := 0 } := rfl
@[simp] theorem startLoad_bus (s : State) :
    (startLoad s).bus = { s.bus with fetch := some (.image 0) } := rfl
@[simp] theorem startLoad_lines (s : State) : (startLoad s).lines = s.lines := rfl
@[simp] theorem startLoad_queue (s : State) : (startLoad s).queue = s.queue := rfl
@[simp] theorem startLoad_report (s : State) : (startLoad s).report = s.report := rfl
@[simp] theorem startLoad_scan (s : State) : (startLoad s).scan = s.scan := rfl
@[simp] theorem startLoad_berth (s : State) : (startLoad s).berth = s.berth := rfl

/-! ### The withdrawal of a fetch -/

/-- The withdrawal of a fetch changes the fetch list and the D-port alone (R158). -/
theorem discardFetch_eq (s : State) : discardFetch s =
    { s with bus := { s.bus with dport := (discardFetch s).bus.dport, fetch := none } } := by
  unfold discardFetch
  split <;> rfl

/-- A fetch in progress is marked. -/
theorem discardFetch_dport {s : State} {f : Fetch} {d : Bool} (h : s.bus.dport = some (.fetch f d)) :
    (discardFetch s).bus.dport = some (.fetch f true) := by
  unfold discardFetch
  rw [h]

@[simp] theorem discardFetch_profile (s : State) : (discardFetch s).profile = s.profile := by
  rw [discardFetch_eq]
@[simp] theorem discardFetch_orderLane (s : State) :
    (discardFetch s).bus.orderLane = s.bus.orderLane := by rw [discardFetch_eq]
@[simp] theorem discardFetch_lines (s : State) : (discardFetch s).lines = s.lines := by
  rw [discardFetch_eq]
@[simp] theorem discardFetch_queue (s : State) : (discardFetch s).queue = s.queue := by
  rw [discardFetch_eq]
@[simp] theorem discardFetch_report (s : State) : (discardFetch s).report = s.report := by
  rw [discardFetch_eq]
@[simp] theorem discardFetch_scan (s : State) : (discardFetch s).scan = s.scan := by
  rw [discardFetch_eq]
@[simp] theorem discardFetch_berth (s : State) : (discardFetch s).berth = s.berth := by
  rw [discardFetch_eq]

/-! ### A recorded outcome -/

@[simp] theorem recordOutcome_profile (o : ProfileOutcome) (s : State) :
    (recordOutcome o s).profile = { s.profile with outcome := o } := by simp [recordOutcome]
@[simp] theorem recordOutcome_lines (o : ProfileOutcome) (s : State) :
    (recordOutcome o s).lines = s.lines := by
  unfold recordOutcome
  rw [lines_askBerth, lines_setBerthNotice]
@[simp] theorem recordOutcome_queue (o : ProfileOutcome) (s : State) :
    (recordOutcome o s).queue = s.queue := by simp [recordOutcome]
@[simp] theorem recordOutcome_scan (o : ProfileOutcome) (s : State) :
    (recordOutcome o s).scan = s.scan := by simp [recordOutcome]
@[simp] theorem recordOutcome_berth (o : ProfileOutcome) (s : State) :
    (recordOutcome o s).berth = s.berth := by simp [recordOutcome]
@[simp] theorem recordOutcome_bare (o : ProfileOutcome) (s : State) :
    (recordOutcome o s).bus.bare = s.bus.bare := by simp [recordOutcome]

/-- An outcome sets PROFILE_EVENT (R172). -/
theorem notice_recordOutcome (o : ProfileOutcome) (s : State) :
    (recordOutcome o s).notice .profileEvent = true := by
  unfold recordOutcome
  rw [notice_askBerth, notice_setBerthNotice]

/-- An outcome sets no other berth notice. -/
theorem notice_recordOutcome_other {k : BerthNotice} (hk : k ≠ .profileEvent) (o : ProfileOutcome)
    (s : State) : (recordOutcome o s).notice k = s.notice k := by
  unfold recordOutcome
  rw [notice_askBerth, notice_setBerthNotice_other hk]
  rfl

/-- An outcome asks for the berth record (R183). -/
theorem berth_mem_recordOutcome (o : ProfileOutcome) {s : State} (h : s.berth.phase ≠ .starting) :
    12 ∈ (recordOutcome o s).bus.reportLane :=
  mem_askBerth (by rwa [setBerthNotice_berth])

/-! ### The commit word, taken or refused -/

/-- Settles O38: a good word meets the quiet berth idle or loading, or a berth that is not quiet. -/
theorem commitTaken : Obligations.CommitTaken := by
  unfold Obligations.CommitTaken
  intro w be s hs
  have speaks : s.berth.phase ≠ .starting := Phase.not_starting hs.2.2
  refine ⟨fun bad => ?_, fun full check mark zero => ?_⟩
  · rw [exec_commit hs, writeCommit_malformed ((commitForm_eq_false_iff w be).mpr bad)]
  intro still ready
  rw [exec_commit hs, writeCommit_formed ((commitForm_iff w be).mpr ⟨full, check, mark, zero⟩)]
  have quiet_ready : quiet (hostActivity s) = true ↔ ready := quiet_iff (hostActivity s)
  refine ⟨fun holds => ⟨_, rfl, ?_⟩, fun fails => ⟨_, rfl, ?_⟩⟩
  · have calm := quiet_ready.mpr holds
    cases load : s.profile.load with
    | idle =>
      rw [commitWord_idle calm load]
      have bus := askBerth_bare (startLoad (hostActivity s))
      exact ⟨by simp, Bus.bare_fetch bus, fun _ c => (nomatch c),
        fun _ => ⟨mem_askBerth speaks, (Bus.bare_dport bus).trans rfl⟩, lines_askBerth _, by simp,
        (Bus.bare_orderLane bus).trans rfl, by simp, by simp, by simp⟩
    | loading i =>
      rw [commitWord_loading calm load]
      have marked : ∀ f d, s.bus.dport = some (.fetch f d) →
          (discardFetch (hostActivity s)).bus.dport = some (.fetch f true) :=
        fun _ _ port => discardFetch_dport (s := hostActivity s) port
      exact ⟨by simp, by simp, fun _ _ => marked, fun c => (nomatch c), by simp, by simp, by simp,
        by simp, by simp, by simp⟩
  · rw [commitWord_busy (mt quiet_ready.mp fails)]
    exact ⟨by simp, notice_recordOutcome _ _, fun k hk => notice_recordOutcome_other hk _ _,
      berth_mem_recordOutcome _ speaks, by simp, by simp, by simp,
      Bus.bare_orderLane (recordOutcome_bare _ (hostActivity s)), by simp⟩

end Sys2Proof.Machine
end

section
/-! SUPPORT. What a command can do, said once: the 56 rows end in 22 reactions of the part. From it the statements
about every step: a next state with the queue behind untouched, soundness, and the D-port served. -/

namespace Sys2Proof.Machine

/-- Settles O1: a step looks at the front command alone. -/
theorem stepRunsFrontCommand : Obligations.StepRunsFrontCommand := by
  unfold Obligations.StepRunsFrontCommand
  exact fun _ _ _ => rfl

/-! ### The reactions of the part -/

/-- The state a command can lead to from `s`: a transfer of the host presented, a completion, an input, an
expiry with the ticks before it, a conversion, or a change of supply and reset pin. -/
inductive Reaction (s : State) : State → Prop
  | transfer (t : Transfer) : Reaction s (present t s)
  | strappedTransfer (v : BitVec 6) (t : Transfer) : Reaction s (present t (setStraps v s))
  | hostComplete (w : Word) : Reaction s (hostComplete w s)
  | partComplete : Reaction s (partComplete s)
  | fetchComplete (w : Word) : Reaction s (fetchComplete w s)
  | pulse (n : LineId) (outward : Bool) (gap : Nat) : Reaction s (event (pulseEdge n outward gap) s)
  | brake (n : LineId) (v : Bool) : Reaction s (brakeChange n v s)
  | stowMade (n : LineId) : Reaction s (event (stowMadeChange n) s)
  | stowLost (n : LineId) : Reaction s (event (stowLostChange n) s)
  | expiry (e : Expiry) (k : Nat) : Reaction s (event (onTick (expire e)) (elapse k s))
  | verification (upset : List (Fin 128 × Word)) (k : Nat) : Reaction s
      (event (onTick fun u => if Expiry.due u .verify then verifyEvent (upsetCopy upset u) else u)
        (elapse k s))
  | lineConversion (raw : Nat) : Reaction s (event (lineConversion raw) s)
  | referenceConversion (raw : Nat) : Reaction s (event (referenceConversion raw) s)
  | probeConversion (raw : Nat) : Reaction s (event (probeConversion raw) s)
  | supplyWarning : Reaction s (event supplyWarningEvent s)
  | supplyRecovery : Reaction s (event supplyRecoveryEvent s)
  | powerOn : Reaction s (powerOnEvent s)
  | brownOut : Reaction s (brownOutEvent s)
  | supplyRise (v : BitVec 6) (stow : BitVec 12) : Reaction s (supplyRiseEvent v stow s)
  | pinReset (v : BitVec 6) : Reaction s (pinResetEvent v s)
  | resetnRelease : Reaction s (resetnReleaseEvent s)
  | selfTestEnd (pass : Bool) : Reaction s (event (selfTestEvent pass) s)

/-- Every command has a next state, and it is one of the reactions. -/
theorem exec_reaction (c : Instr) (s : State) : ∃ t, exec c s = .next t ∧ Reaction s t := by
  cases c with
  | resetRequest w be v => exact ⟨_, rfl, .strappedTransfer v _⟩
  | hostTransferComplete w => exact ⟨_, rfl, .hostComplete w⟩
  | partWriteComplete => exact ⟨_, rfl, .partComplete⟩
  | fetchComplete w => exact ⟨_, rfl, .fetchComplete w⟩
  | pulse n outward gap => exact ⟨_, rfl, .pulse n outward gap⟩
  | brakeFeedbackChange n v => exact ⟨_, rfl, .brake n v⟩
  | stowMade n back => exact ⟨_, rfl, .stowMade n⟩
  | stowLost n => exact ⟨_, rfl, .stowLost n⟩
  | stall n k => exact ⟨_, rfl, .expiry (.stall n) k⟩
  | haulTimeOut n k => exact ⟨_, rfl, .expiry (.haul n) k⟩
  | slipTimeOut n k => exact ⟨_, rfl, .expiry (.slip n) k⟩
  | brakeMismatch n k => exact ⟨_, rfl, .expiry (.brake n) k⟩
  | holdDeadlineExpiry n k => exact ⟨_, rfl, .expiry (.hold n) k⟩
  | pacingExpiry k => exact ⟨_, rfl, .expiry .pacing k⟩
  | lineConversionComplete raw => exact ⟨_, rfl, .lineConversion raw.toNat⟩
  | referenceConversionComplete raw => exact ⟨_, rfl, .referenceConversion raw.toNat⟩
  | probeConversionComplete raw => exact ⟨_, rfl, .probeConversion raw.toNat⟩
  | hostSilenceExpiry k => exact ⟨_, rfl, .expiry .silence k⟩
  | verification upset k => exact ⟨_, rfl, .verification upset k⟩
  | snapshotLockTimerExpiry k => exact ⟨_, rfl, .expiry .snap k⟩
  | supplyWarning => exact ⟨_, rfl, .supplyWarning⟩
  | supplyRecovery => exact ⟨_, rfl, .supplyRecovery⟩
  | powerOnReset => exact ⟨_, rfl, .powerOn⟩
  | brownOutReset => exact ⟨_, rfl, .brownOut⟩
  | supplyRise v stow => exact ⟨_, rfl, .supplyRise v stow⟩
  | pinReset v => exact ⟨_, rfl, .pinReset v⟩
  | resetnRelease => exact ⟨_, rfl, .resetnRelease⟩
  | selfTestEnd pass => exact ⟨_, rfl, .selfTestEnd pass⟩
  | _ => exact ⟨_, rfl, .transfer _⟩

/-- What every reaction and the tick keep, every step keeps. -/
theorem step_keeps {P : State → Prop} (hc : ∀ (s : State) (rest : List Instr), P s → P { s with pending := rest })
    (hr : ∀ s t, P s → Reaction s t → P t) (ht : ∀ s, P s → P (tick s)) {s t : State} (hs : P s)
    (h : step s = .next t) : P t := by
  unfold step at h
  split at h
  · cases h
    exact ht s hs
  next c rest _ =>
    obtain ⟨u, run, reaction⟩ := exec_reaction c { s with pending := rest }
    rw [run] at h
    cases h
    exact hr _ _ (hc s rest hs) reaction

/-! ### Soundness -/

theorem State.Sound.reaction {s t : State} (h : s.Sound) (r : Reaction s t) : t.Sound := by
  cases r with
  | transfer x => exact h.presentTransfer x
  | strappedTransfer v x => exact (h.withSupply _ : (setStraps v s).Sound).presentTransfer x
  | hostComplete w => exact h.hostComplete w
  | partComplete => exact h.partComplete
  | fetchComplete w => exact h.fetchComplete w
  | pulse n outward gap => exact h.event fun _ ht => ht.pulseEdge n outward gap
  | brake n v => exact h.brakeChange n v
  | stowMade n => exact h.event fun _ ht => ht.stowMadeChange n
  | stowLost n => exact h.event fun _ ht => ht.stowLostChange n
  | expiry e k => exact (h.elapse k).event fun _ ht => ht.onTick fun _ hu => hu.expire e
  | verification upset k =>
    refine (h.elapse k).event fun _ ht => ht.onTick fun u hu => ?_
    split
    · exact (hu.upsetCopy upset).verifyEvent
    · exact hu
  | lineConversion raw => exact h.event fun _ ht => ht.lineConversion raw
  | referenceConversion raw => exact h.event fun _ ht => ht.referenceConversion raw
  | probeConversion raw => exact h.event fun _ ht => ht.probeConversion raw
  | supplyWarning => exact h.event fun _ ht => ht.supplyWarningEvent
  | supplyRecovery => exact h.event fun _ ht => ht.supplyRecoveryEvent
  | powerOn => exact h.powerOnEvent
  | brownOut => exact h.brownOutEvent
  | supplyRise v stow => exact h.supplyRiseEvent v stow
  | pinReset v => exact h.pinResetEvent v
  | resetnRelease => exact h.resetnReleaseEvent
  | selfTestEnd pass => exact h.event fun _ ht => ht.selfTestEvent pass

theorem State.Phased.reaction {s t : State} (h : s.Phased) (r : Reaction s t) : t.Phased := by
  cases r with
  | transfer x => exact h.present x
  | strappedTransfer v x => exact (h.tame (.setStraps v s)).present x
  | hostComplete w => exact h.hostComplete w
  | partComplete => exact h.tame (.partComplete s)
  | fetchComplete w => exact h.tame (.fetchComplete w s)
  | pulse n outward gap => exact h.event fun _ ht => ht.pulseEdge n outward gap
  | brake n v => exact h.tame (.brakeChange n v s)
  | stowMade n => exact h.event fun _ ht => ht.stowMadeChange n
  | stowLost n => exact h.event fun _ ht => ht.stowLostChange n
  | expiry e k => exact (h.elapse k).event fun _ ht => ht.onTick fun _ hu => hu.expire e
  | verification upset k =>
    refine (h.elapse k).event fun _ ht => ht.onTick fun u hu => ?_
    split
    · exact (hu.tame (.upsetCopy upset u)).verifyEvent
    · exact hu
  | lineConversion raw => exact h.event fun _ ht => ht.lineConversion raw
  | referenceConversion raw => exact h.event fun _ ht => ht.referenceConversion raw
  | probeConversion raw => exact h.event fun _ ht => ht.probeConversion raw
  | supplyWarning => exact h.event fun _ ht => ht.supplyWarningEvent
  | supplyRecovery => exact h.event fun u ht => ht.tame (.supplyRecoveryEvent u)
  | powerOn => exact .powerOnEvent s
  | brownOut => exact h.brownOutEvent
  | supplyRise v stow => exact h.tame (.supplyRiseEvent v stow s)
  | pinReset v => exact h.pinResetEvent v
  | resetnRelease => exact h.tame (.resetnReleaseEvent s)
  | selfTestEnd pass => exact h.event fun _ ht => ht.selfTestEvent pass

/-- The commands that wait are no matter of soundness. -/
theorem State.Sound.withPending {s : State} (h : s.Sound) (rest : List Instr) :
    ({ s with pending := rest } : State).Sound :=
  ⟨h.line, h.attn, h.queueSize, h.queueLines, h.present, h.orderLines, h.reports, h.load⟩

theorem State.Phased.withPending {s : State} (h : s.Phased) (rest : List Instr) :
    ({ s with pending := rest } : State).Phased :=
  ⟨h.silence, h.emptyQueue, h.still, h.noReports, h.berthOnly⟩

/-- Settles O4: every reaction and the tick keep soundness and what hangs on the berth phase. -/
theorem stepKeepsSound : Obligations.StepKeepsSound := by
  unfold Obligations.StepKeepsSound
  intro s t sound phased stepped
  exact ⟨step_keeps (fun _ rest h => h.withPending rest) (fun _ _ h r => h.reaction r) (fun _ h => h.tick)
      sound stepped,
    step_keeps (fun _ rest h => h.withPending rest) (fun _ _ h r => h.reaction r) (fun _ h => h.tick)
      phased stepped⟩

/-! ### The D-port served -/

/-- The event of a verification leaves the host's transfers. -/
theorem wired_verification (upset : List (Fin 128 × Word)) (s : State) : Wired s
    (onTick (fun u => if Expiry.due u .verify then verifyEvent (upsetCopy upset u) else u) s) := by
  refine Wired.onTick (fun u => ?_) s
  split
  · exact (Wired.withProfile _ u : Wired u (upsetCopy upset u)).trans (.verifyEvent _)
  · exact .refl u

theorem State.Ported.reaction {s t : State} (h : s.Ported) (r : Reaction s t) : t.Ported := by
  cases r with
  | transfer x => exact h.present x
  | strappedTransfer v x => exact (h.of_same (t := setStraps v s) rfl rfl).present x
  | hostComplete w => exact h.hostComplete w
  | partComplete => exact h.partComplete
  | fetchComplete w => exact h.fetchComplete w
  | pulse n outward gap => exact h.event (.pulseEdge n outward gap s)
  | brake n v =>
    unfold brakeChange
    split
    · exact h
    · exact h.of_same rfl rfl
  | stowMade n => exact h.event (.stowMadeChange n s)
  | stowLost n => exact h.event (.stowLostChange n s)
  | expiry e k => exact (h.elapse k).event (.onTick (.expire e) _)
  | verification upset k => exact (h.elapse k).event (wired_verification upset _)
  | lineConversion raw => exact h.event (.lineConversion raw s)
  | referenceConversion raw => exact h.event (.referenceConversion raw s)
  | probeConversion raw => exact h.event (.probeConversion raw s)
  | supplyWarning => exact h.event (.supplyWarningEvent s)
  | supplyRecovery => exact h.event (.supplyRecoveryEvent s)
  | powerOn => exact .powerOnEvent s
  | brownOut => exact h.brownOutEvent
  | supplyRise v stow => exact h.supplyRiseEvent v stow
  | pinReset v => exact h.pinResetEvent v
  | resetnRelease => exact h.resetnReleaseEvent
  | selfTestEnd pass => exact h.event (.selfTestEvent pass s)

/-- Settles O5: every reaction and the tick leave the D-port served. -/
theorem stepKeepsPorted : Obligations.StepKeepsPorted := by
  unfold Obligations.StepKeepsPorted
  intro s t ported stepped
  exact step_keeps (fun _ _ h => h.of_same rfl rfl) (fun _ _ h r => h.reaction r) (fun _ h => h.tick)
    ported stepped

end Sys2Proof.Machine
end

section
/-! SUPPORT. No command stops the part, and the queue of commands is touched by none: the ticks, the resets and the
reactions one by one. -/

namespace Sys2Proof.Machine

theorem takeDue_pending (s : State) (e : Expiry) : (takeDue s e).pending = s.pending := by
  unfold takeDue
  split
  · rw [(Served.arbitrate _).pending, (Wired.expiry e s).pending]
  · rfl

theorem takeAllDue_pending (s : State) : (takeAllDue s).pending = s.pending :=
  foldl_keeps (P := fun u => u.pending = s.pending) (fun u e h => (takeDue_pending u e).trans h) _ rfl

theorem count_pending (s : State) : (count s).pending = s.pending := by
  unfold count
  split
  · exact (congrArg State.pending (counted_countDown (takeAllDue s)).rest).trans (takeAllDue_pending s)
  · rfl

theorem elapse_pending (k : Nat) (s : State) : (elapse k s).pending = s.pending := by
  induction k generalizing s with
  | zero => rfl
  | succ k ih => exact (ih (count s)).trans (count_pending s)

theorem event_pending {f : State → State} {s : State} (hf : Wired s (f s)) : (event f s).pending = s.pending := by
  unfold event
  split
  · rw [(Served.arbitrate _).pending, hf.pending]
  · rfl

theorem present_pending (t : Transfer) (s : State) : (present t s).pending = s.pending := by
  unfold present
  split
  · rfl
  · split
    · rfl
    · obtain ⟨pending, -⟩ := takeTransfer_spec t s
      rw [(Served.arbitrate _).pending, pending]

theorem hostComplete_pending (w : Word) (s : State) : (hostComplete w s).pending = s.pending := by
  unfold hostComplete
  split
  · rw [drainHeld_pending, (Served.arbitrate _).pending, (presentData_same _ _ _).1, (releaseSnap_same _ _).1]
    rfl
  all_goals rfl

theorem partComplete_pending (s : State) : (partComplete s).pending = s.pending := by
  unfold partComplete
  split
  case h_1 | h_2 => exact (Served.arbitrate _).pending
  all_goals rfl

theorem fetchComplete_pending (w : Word) (s : State) : (fetchComplete w s).pending = s.pending := by
  unfold fetchComplete
  split
  · rw [(Served.arbitrate _).pending]
    split
    · rfl
    · exact (Wired.deliver _ w _).pending
  all_goals rfl

theorem takeReset_pending (c : ResetCause) (s : State) : (takeReset c s).pending = s.pending := by
  unfold takeReset
  dsimp only
  rw [eachLine_modLine_pending]

theorem powerOnEvent_pending (s : State) : (powerOnEvent s).pending = s.pending := by
  unfold powerOnEvent
  dsimp only
  exact takeReset_pending .powerOn s

theorem brownOutEvent_pending (s : State) : (brownOutEvent s).pending = s.pending := by
  unfold brownOutEvent
  split
  · dsimp only
    exact takeReset_pending .brownOut s
  · rfl

theorem supplyRiseEvent_pending (v : BitVec 6) (stow : BitVec 12) (s : State) :
    (supplyRiseEvent v stow s).pending = s.pending := by
  cases power : s.supply.powered with
  | false =>
    obtain ⟨-, -, pending⟩ := supplyRiseEvent_bus v stow s power
    exact pending
  | true =>
    unfold supplyRiseEvent
    rw [if_pos power]

/-- No reaction touches the commands that wait. -/
theorem Reaction.pending {s t : State} (r : Reaction s t) : t.pending = s.pending := by
  cases r with
  | transfer x => exact present_pending x s
  | strappedTransfer v x => exact present_pending x (setStraps v s)
  | hostComplete w => exact hostComplete_pending w s
  | partComplete => exact partComplete_pending s
  | fetchComplete w => exact fetchComplete_pending w s
  | pulse n outward gap => exact event_pending (.pulseEdge n outward gap s)
  | brake n v =>
    unfold brakeChange
    split <;> rfl
  | stowMade n => exact event_pending (.stowMadeChange n s)
  | stowLost n => exact event_pending (.stowLostChange n s)
  | expiry e k => exact (event_pending (.onTick (.expire e) _)).trans (elapse_pending k s)
  | verification upset k => exact (event_pending (wired_verification upset _)).trans (elapse_pending k s)
  | lineConversion raw => exact event_pending (.lineConversion raw s)
  | referenceConversion raw => exact event_pending (.referenceConversion raw s)
  | probeConversion raw => exact event_pending (.probeConversion raw s)
  | supplyWarning => exact event_pending (.supplyWarningEvent s)
  | supplyRecovery => exact event_pending (.supplyRecoveryEvent s)
  | powerOn => exact powerOnEvent_pending s
  | brownOut => exact brownOutEvent_pending s
  | supplyRise v stow => exact supplyRiseEvent_pending v stow s
  | pinReset v => exact (Wired.pinResetEvent v s).pending
  | resetnRelease =>
    unfold resetnReleaseEvent
    dsimp only
    split <;> rfl
  | selfTestEnd pass => exact event_pending (.selfTestEvent pass s)

/-- Settles O3: every command ends in a reaction, and no reaction touches the queue of commands. -/
theorem noCommandStops : Obligations.NoCommandStops := by
  unfold Obligations.NoCommandStops
  intro c s
  obtain ⟨t, run, reaction⟩ := exec_reaction c s
  exact ⟨t, run, reaction.pending⟩

end Sys2Proof.Machine
end

section
/-! SUPPORT. The state after reset, the resets of supply, pin and request, the rise of the supply and the end of the
self-test (11), and the statements about them. -/

namespace Sys2Proof.Machine

/-! ### The first state -/

theorem line_reset (n : LineId) : State.reset.line n = Line.reset := by
  simp [State.line, State.reset, Vector.get]

theorem sound_reset : State.reset.Sound where
  line n := by
    rw [line_reset]
    exact Line.Sound.reset
  attn := by decide
  queueSize := by decide
  queueLines := by decide
  present _ h := h
  orderLines := by decide
  reports := by decide
  load := ⟨rfl, rfl⟩

theorem phased_reset : State.reset.Phased where
  silence := rfl
  emptyQueue _ := rfl
  still h := nomatch h
  noReports _ := rfl
  berthOnly h := nomatch h

theorem ported_reset : State.reset.Ported where
  idle _ := ⟨rfl, rfl, rfl, rfl⟩
  held _ := rfl
  down _ := rfl

theorem afterReset_reset : AfterReset .powerOn State.reset where
  table n := by
    rw [line_reset]
    exact ⟨rfl, rfl, rfl, rfl⟩
  verdicts n := by
    rw [line_reset]
    exact ⟨rfl, rfl, rfl⟩
  records n := by
    rw [line_reset]
    exact ⟨rfl, rfl, rfl, rfl, rfl, rfl⟩
  drums n := by
    rw [line_reset]
    exact ⟨⟨rfl, rfl, rfl, rfl⟩, rfl, rfl⟩
  notices n := by
    rw [line_reset]
    exact ⟨rfl, rfl⟩
  queue := rfl
  scan := rfl
  berth := rfl
  profile := rfl
  lanes := ⟨rfl, rfl, rfl, rfl, rfl⟩
  report := rfl
  supply := ⟨rfl, rfl, rfl⟩

/-- Settles O6: every field of the first state is that of its block's reset value. -/
theorem stateAfterReset : Obligations.StateAfterReset := by
  unfold Obligations.StateAfterReset
  refine ⟨sound_reset, phased_reset, ported_reset, afterReset_reset, rfl, rfl, rfl, fun n => ?_⟩
  rw [line_reset]
  exact ⟨rfl, rfl⟩

/-! ### Resets of supply and pin -/

/-- The bus path after a reset that leaves the supply up keeps the host's transfers (R161). -/
theorem takeReset_bus_kept {c : ResetCause} (hc : c.clearsRetained = false) (s : State) :
    (takeReset c s).bus.base = s.bus.base ∧ (takeReset c s).bus.waiting = s.bus.waiting ∧
    (takeReset c s).bus.held = s.bus.held ∧
    (takeReset c s).bus.dport = s.bus.dport.map DTransfer.afterReset := by
  obtain ⟨-, -, -, -, -, -, bus⟩ := takeReset_fields c s
  rw [bus]
  unfold Bus.afterReset
  rw [if_neg (by simp [hc])]
  exact ⟨rfl, rfl, rfl, rfl⟩

/-- A reset for want of supply, with the supply then down (R120, R161, R197). -/
theorem supplyLost_takeReset {c : ResetCause} (hc : c.clearsRetained = true) (s : State) :
    SupplyLost c s { takeReset c s with supply := { (takeReset c s).supply with powered := false } } := by
  have line := line_takeReset c s
  have after := afterReset_takeReset c s
  obtain ⟨-, -, -, -, -, supply, bus⟩ := takeReset_fields c s
  rw [Bus.afterReset, if_pos hc] at bus
  generalize takeReset c s = t at *
  have lines : ∀ n, t.line n = { Line.reset with brakeSet := (s.line n).brakeSet } := fun n => by
    rw [line, Line.afterReset, if_pos hc]
  refine ⟨after.withSupply after.supply, ⟨by rw [supply], rfl⟩, fun n => ?_, ?_, by rw [supply], fun n => ?_⟩
  · rw [line_mk, lines_get, lines]
    exact ⟨rfl, rfl⟩
  · rw [bus]
    exact ⟨rfl, rfl, rfl⟩
  · rw [line_mk, lines_get, lines]

/-- The pin reset taken at the first millisecond of a low period. -/
theorem pinResetEvent_taken {v : BitVec 6} {s : State} (power : s.supply.powered = true)
    (fresh : s.supply.pinTaken = false) : pinResetEvent v s =
      { sampleStraps (takeReset .pin (setStraps v s)) with supply :=
        { (takeReset .pin (setStraps v s)).supply with pinHeld := true, pinTaken := true } } := by
  unfold pinResetEvent
  rw [if_pos (by simp [power, fresh])]
  rfl

/-- A low period that has been taken, and a part without supply, take no pin reset. -/
theorem pinResetEvent_ignored {v : BitVec 6} {s : State}
    (h : s.supply.pinTaken = true ∨ s.supply.powered = false) : pinResetEvent v s = s := by
  unfold pinResetEvent
  rw [if_neg]
  rcases h with taken | down
  · simp [taken]
  · simp [down]

theorem pinReset_effect {v : BitVec 6} {s : State} (power : s.supply.powered = true)
    (fresh : s.supply.pinTaken = false) :
    AfterReset .pin (pinResetEvent v s) ∧ RetainedKept s (pinResetEvent v s) ∧
      (pinResetEvent v s).supply = { s.supply with
        straps := v, stage := .reset, cause := .pin, live := false, latched := false,
        pinHeld := true, pinTaken := true } ∧
      (pinResetEvent v s).bus.base = v ∧ (pinResetEvent v s).bus.waiting = s.bus.waiting ∧
      (pinResetEvent v s).bus.held = s.bus.held ∧
      (pinResetEvent v s).bus.dport = s.bus.dport.map DTransfer.afterReset := by
  have after := afterReset_takeReset .pin (setStraps v s)
  have kept := retainedKept_takeReset (c := .pin) rfl (setStraps v s)
  obtain ⟨-, -, -, -, -, supply, -⟩ := takeReset_fields .pin (setStraps v s)
  obtain ⟨-, waiting, held, dport⟩ := takeReset_bus_kept (c := .pin) rfl (setStraps v s)
  rw [pinResetEvent_taken power fresh]
  generalize takeReset .pin (setStraps v s) = t at *
  refine ⟨after.sampleStraps.withSupply after.supply, kept, ?_, ?_, waiting, held, dport⟩
  · rw [supply]
    rfl
  · simp [sampleStraps, supply, setStraps]

/-- RESETN returns high: the stage is left where a pin reset's condition ends (R199). -/
theorem resetnReleaseEvent_leaves {s : State} (power : s.supply.powered = true)
    (held : s.supply.pinHeld = true) (stage : s.supply.stage = .reset) :
    resetnReleaseEvent s = { s with supply := { s.supply with
      pinHeld := false, pinTaken := false, stage := .selfTest } } := by
  unfold resetnReleaseEvent
  dsimp only
  rw [if_pos (by simp [power, held, stage])]
  rfl

theorem resetnReleaseEvent_stays {s : State}
    (h : s.supply.stage ≠ .reset ∨ s.supply.powered = false ∨ s.supply.pinHeld = false) :
    resetnReleaseEvent s = { s with supply := { s.supply with pinHeld := false, pinTaken := false } } := by
  unfold resetnReleaseEvent
  dsimp only
  rw [if_neg]
  rcases h with stage | down | free
  · simp [stage]
  · simp [down]
  · simp [free]

/-- Settles O7: what the resets for want of supply clear, and what the pin's reset and its release keep. -/
theorem supplyAndPinResets : Obligations.SupplyAndPinResets := by
  unfold Obligations.SupplyAndPinResets
  refine ⟨fun s => ⟨⟨_, rfl, supplyLost_takeReset rfl s⟩, fun power => ⟨_, rfl, ?_⟩⟩,
    fun v s power fresh => ?_, fun v s ignored => congrArg Host.Outcome.next (pinResetEvent_ignored ignored),
    fun s power held stage => congrArg Host.Outcome.next (resetnReleaseEvent_leaves power held stage),
    fun s stays => congrArg Host.Outcome.next (resetnReleaseEvent_stays stays)⟩
  · unfold brownOutEvent
    rw [if_pos power]
    exact supplyLost_takeReset rfl s
  · obtain ⟨after, kept, supply, base, waiting, held, dport⟩ := pinReset_effect (v := v) power fresh
    refine ⟨pinResetEvent v s, rfl, after, kept, ?_, ?_, ?_, ?_, base, waiting, held, dport⟩ <;> rw [supply]
    exact power

/-! ### The reset request -/

/-- A command reset leaves the stage RESET at once (R135, R199). -/
theorem commandReset_effect (s : State) :
    AfterReset .command (commandReset s) ∧ RetainedKept s (commandReset s) ∧
      (commandReset s).supply.stage = .selfTest ∧ (commandReset s).bus.base = s.supply.straps ∧
      (commandReset s).bus.waiting = s.bus.waiting ∧ (commandReset s).bus.held = s.bus.held ∧
      (commandReset s).bus.dport = s.bus.dport.map DTransfer.afterReset := by
  have after := afterReset_takeReset .command s
  have kept := retainedKept_takeReset (c := .command) rfl s
  obtain ⟨-, -, -, -, -, supply, -⟩ := takeReset_fields .command s
  obtain ⟨-, waiting, held, dport⟩ := takeReset_bus_kept (c := .command) rfl s
  unfold commandReset
  generalize takeReset .command s = t at *
  refine ⟨after.sampleStraps.withSupply after.supply, kept, rfl, ?_, waiting, held, dport⟩
  simp [setStage, sampleStraps, supply]

/-- The straps are no matter of taking words. -/
theorem takesWords_setStraps {s : State} (h : s.takesWords) (v : BitVec 6) : (setStraps v s).takesWords := h

/-- A RESET word is host activity, then ruled on, with the levels it shows. -/
theorem exec_resetRequest {s : State} (hs : s.takesWords) (w : Word) (be : ByteEnables) (v : BitVec 6) :
    exec (.resetRequest w be v) s =
      .next (arbitrate (writeRequest w be (hostActivity (setStraps v s)))) :=
  congrArg Host.Outcome.next (hostWrite_request (takesWords_setStraps hs v) w be)

theorem ruling_reset {s : State} (h : s.berth.phase = .vacant ∨ s.berth.phase = .lockdown) :
    ruling .reset s = .when true (commandReset s) := by
  unfold ruling
  rcases h with h | h <;> rw [h]

theorem ruling_reset_wrongPhase {s : State}
    (h : s.berth.phase = .arrival ∨ s.berth.phase = .secured ∨ s.berth.phase = .departure) :
    ruling .reset s = .wrongPhase := by
  unfold ruling
  rcases h with h | h | h <;> rw [h]

/-- A request whose pairing is not listed is refused with WRONG_PHASE. -/
theorem writeRequest_wrongPhase {w : Word} {be : ByteEnables} {q : Request} {s : State}
    (hr : readRequest w be = some q) (hq : ruling q s = .wrongPhase) :
    writeRequest w be s = refuseRequest .wrongPhase s := by
  unfold writeRequest
  rw [hr]
  dsimp only
  rw [hq]

/-- Settles O8: the row is that of any request with its levels shown, and the ruling on RESET in each phase. -/
theorem commandReset_settled : Obligations.CommandReset := by
  unfold Obligations.CommandReset
  refine ⟨fun i w be v s row => (exec_requestRow row _).symm, fun w v s hs read => ⟨fun taken => ?_, fun refused => ?_⟩⟩
  · rw [exec_resetRequest hs,
      writeRequest_ruled (s := hostActivity (setStraps v s)) read (ruling_reset taken), if_pos rfl]
    exact ⟨_, rfl, commandReset_effect (hostActivity (setStraps v s))⟩
  · rw [exec_resetRequest hs,
      writeRequest_wrongPhase (s := hostActivity (setStraps v s)) read (ruling_reset_wrongPhase refused)]
    exact ⟨_, rfl, refusedRequest_refuseRequest (takesWords_setStraps hs v) .wrongPhase⟩

/-! ### The supply rises, the self-test ends -/

/-- A change of every line touches the lines alone. -/
theorem eachLine_modLine_eq (g : LineId → Line → Line) (s : State) : eachLine (fun n => modLine n (g n)) s =
    { s with lines := (eachLine (fun n => modLine n (g n)) s).lines } :=
  eachLine_keeps (P := fun t => t = { s with lines := t.lines }) (fun n t h => by rw [h]; rfl) rfl

/-- What the rise of the supply touches: the drums, the mailbox base and the supply block (R199). -/
theorem supplyRiseEvent_eq {v : BitVec 6} {stow : BitVec 12} {s : State} (down : s.supply.powered = false) :
    ∃ ls, supplyRiseEvent v stow s = { s with
        lines := ls
        bus := { s.bus with base := v }
        supply := { s.supply with
          powered := true, pinTaken := false, straps := v,
          stage := if s.supply.pinHeld then s.supply.stage else .selfTest } } ∧
      ∀ n, ls.get n = Line.startDomain (stow.getLsbD n.val) (s.line n) := by
  have line := fun n => line_eachLine_modLine (fun n => Line.startDomain (stow.getLsbD n.val)) n
    (sampleStraps (setStraps v s))
  have drums := eachLine_modLine_eq (fun n => Line.startDomain (stow.getLsbD n.val))
    (sampleStraps (setStraps v s))
  refine ⟨_, ?_, line⟩
  unfold supplyRiseEvent
  rw [if_neg (by simp [down])]
  dsimp only
  rw [drums]
  cases held : s.supply.pinHeld <;> simp [sampleStraps, setStraps, setStage, held]

/-- Settles O9: the rise touches the straps, the retained domain and the supply block. -/
theorem supplyRise : Obligations.SupplyRise := by
  unfold Obligations.SupplyRise
  intro v stow s down
  obtain ⟨ls, rise, drums⟩ := supplyRiseEvent_eq (v := v) (stow := stow) down
  exact ⟨_, congrArg Host.Outcome.next rise, drums, rfl, rfl, rfl, rfl, rfl, rfl, rfl⟩

/-- In the self-test the outcome decides between the start-up load and HALTED (R200, R201). -/
theorem selfTestEvent_of {s : State} (power : s.supply.powered = true) (stage : s.supply.stage = .selfTest)
    (phase : s.berth.phase = .starting) (pass : Bool) : selfTestEvent pass s =
      if pass then startLoad (setStage .profileLoad s)
      else recordOutcome .selfTestFailed (changePhase .halted id s) := by
  unfold selfTestEvent
  rw [if_pos ⟨power, stage, phase⟩]

theorem exec_selfTestEnd {s : State} (power : s.supply.powered = true) (pass : Bool) :
    exec (.selfTestEnd pass) s = .next (arbitrate (selfTestEvent pass s)) :=
  congrArg Host.Outcome.next (if_pos power)

@[simp] theorem recordOutcome_supply (o : ProfileOutcome) (s : State) :
    (recordOutcome o s).supply = s.supply := by simp [recordOutcome]

/-- Settles O10: the two outcomes of the self-test. -/
theorem selfTestEnd : Obligations.SelfTestEnd := by
  unfold Obligations.SelfTestEnd
  intro s power stage phase
  rw [exec_selfTestEnd power, exec_selfTestEnd power, selfTestEvent_of power stage phase,
    selfTestEvent_of power stage phase]
  refine ⟨rfl, _, rfl, ?_⟩
  obtain ⟨lines, queue, -, scan, profile, supply, -⟩ := changePhase_fields .halted s
  have berth := changePhase_berth .halted s
  have halted : (changePhase .halted id s).berth.phase ≠ .starting := by simp [berth]
  rw [if_neg (by decide), recordOutcome_berth, recordOutcome_profile, recordOutcome_supply, recordOutcome_lines,
    recordOutcome_scan, recordOutcome_queue]
  exact ⟨berth, by rw [profile], notice_recordOutcome _ _, berth_mem_recordOutcome _ halted, supply, lines, scan,
    queue⟩

end Sys2Proof.Machine
end

section
/-! SUPPORT. What lockdown entry and a raised cause leave of the blocks that are not theirs (R131, R132). -/

namespace Sys2Proof.Machine

/-- `t` has scan, berth, profile and supply of `s`, and its time. -/
structure Aside (s t : State) : Prop where
  scan : t.scan = s.scan
  berth : t.berth = s.berth
  profile : t.profile = s.profile
  supply : t.supply = s.supply
  ticks : t.ticks = s.ticks
  atTick : t.atTick = s.atTick

theorem Aside.refl (s : State) : Aside s s := ⟨rfl, rfl, rfl, rfl, rfl, rfl⟩

theorem Aside.trans {s t u : State} (h : Aside s t) (k : Aside t u) : Aside s u :=
  ⟨k.1.trans h.1, k.2.trans h.2, k.3.trans h.3, k.4.trans h.4, k.5.trans h.5, k.6.trans h.6⟩

theorem Aside.modLine (n : LineId) (f : Line → Line) (s : State) : Aside s (modLine n f s) :=
  ⟨rfl, rfl, rfl, rfl, rfl, rfl⟩

theorem Aside.eachLine {f : LineId → State → State} (h : ∀ n t, Aside t (f n t)) (s : State) :
    Aside s (eachLine f s) :=
  eachLine_keeps (P := Aside s) (fun n t k => k.trans (h n t)) (.refl s)

theorem Aside.askRecord (r : RecId) (s : State) : Aside s (askRecord r s) := by
  constructor <;> simp

theorem Aside.askLine (n : LineId) (s : State) : Aside s (askLine n s) := .askRecord _ s

theorem Aside.askBerth (s : State) : Aside s (askBerth s) := .askRecord _ s

theorem Aside.setBerthNotice (k : BerthNotice) (s : State) : Aside s (setBerthNotice k s) := by
  constructor <;> simp

theorem Aside.setLineNotice (n : LineId) (s : State) : Aside s (setLineNotice n s) := by
  constructor <;> simp

theorem Aside.partOrder (n : LineId) (k : OrderKind) (c : PartCause) (s : State) : Aside s (partOrder n k c s) := by
  constructor <;> simp

theorem Aside.flush (s : State) : Aside s (flush s) := by
  constructor <;> simp

/-- A lockdown LOCK, with the queue flushed and the phase LOCKDOWN, touches no block but lines and bus path. -/
theorem Aside.lockdownLock {t : State} (c : LockdownCause) (n : LineId) (hq : t.queue = [])
    (hp : t.berth.phase = .lockdown) : Aside t (lockdownLock c n t) := by
  rw [lockdownLock_eq hq hp]
  split
  · exact (Aside.modLine n _ t).trans ((Aside.partOrder n _ _ _).trans (.askLine n _))
  · exact .refl t

theorem Aside.entryActions (c : LockdownCause) {s : State} (hp : s.berth.phase = .lockdown) :
    Aside s (entryActions c s) := by
  have locks : Aside s (Machine.eachLine (Machine.lockdownLock c) (Machine.flush s)) ∧
      (Machine.eachLine (Machine.lockdownLock c) (Machine.flush s)).queue = [] :=
    eachLine_keeps (P := fun t => Aside s t ∧ t.queue = []) (fun n t h => by
      have phase : t.berth.phase = .lockdown := by rw [h.1.berth, hp]
      refine ⟨h.1.trans (.lockdownLock c n h.2 phase), ?_⟩
      rw [lockdownLock_eq h.2 phase]
      split <;> simp [h.2]) ⟨.flush s, flush_queue_empty s⟩
  have withdrawn : ∀ t, Aside t (Machine.withdrawPairs t) := fun t => ⟨rfl, rfl, rfl, rfl, rfl, rfl⟩
  exact (locks.1.trans (withdrawn _)).trans
    ((Aside.eachLine (fun n t => .modLine n _ t) _).trans (.setBerthNotice _ _))

/-- LOCKDOWN entered: the phase, the silence timer stopped, and nothing else of berth, scan, profile and
supply (R122, R128, R132). -/
theorem enterLockdown_fields (c : LockdownCause) (s : State) :
    (enterLockdown c s).berth = { s.berth with phase := .lockdown, silence := none } ∧
    (enterLockdown c s).scan = s.scan ∧ (enterLockdown c s).profile = s.profile ∧
    (enterLockdown c s).supply = s.supply ∧ (enterLockdown c s).atTick = s.atTick := by
  have entry := Aside.entryActions c (s := { s with berth := { s.berth with phase := .lockdown } }) rfl
  unfold enterLockdown changePhase
  rw [askBerth_berth, askBerth_scan, askBerth_profile, askBerth_supply, askBerth_atTick, silenceAt_scan,
    silenceAt_profile, silenceAt_supply, silenceAt_atTick]
  refine ⟨?_, entry.scan, entry.profile, entry.supply, entry.atTick⟩
  unfold silenceAt
  rw [entry.berth]
  rfl

theorem addCause_berth (c : LockdownCause) (p : Bool) (s : State) : (addCause c p s).berth = { s.berth with
    causes := s.berth.causes ||| c.bit
    present := if p then s.berth.present ||| c.bit else s.berth.present } :=
  (setCauses_fields _ _ s).1

/-- A raised cause touches neither scan, profile nor supply (R131). -/
theorem raiseCause_fields (c : LockdownCause) (p : Bool) (s : State) :
    (raiseCause c p s).scan = s.scan ∧ (raiseCause c p s).profile = s.profile ∧
    (raiseCause c p s).supply = s.supply ∧ (raiseCause c p s).atTick = s.atTick := by
  obtain ⟨-, -, -, -, scan, profile, supply, -, atTick⟩ := setCauses_fields (s.berth.causes ||| c.bit)
    (if p then s.berth.present ||| c.bit else s.berth.present) s
  obtain ⟨-, scan', profile', supply', atTick'⟩ := enterLockdown_fields c (addCause c p s)
  have entered := And.intro (scan'.trans scan)
    (And.intro (profile'.trans profile) (And.intro (supply'.trans supply) (atTick'.trans atTick)))
  unfold raiseCause
  dsimp only
  split
  case h_5 =>
    split
    · simpa [addCause] using ⟨scan, profile, supply, atTick⟩
    · exact ⟨scan, profile, supply, atTick⟩
  case h_6 | h_7 => exact ⟨scan, profile, supply, atTick⟩
  all_goals exact entered

@[simp] theorem raiseCause_scan (c : LockdownCause) (p : Bool) (s : State) :
    (raiseCause c p s).scan = s.scan := (raiseCause_fields c p s).1
@[simp] theorem raiseCause_profile (c : LockdownCause) (p : Bool) (s : State) :
    (raiseCause c p s).profile = s.profile := (raiseCause_fields c p s).2.1
@[simp] theorem raiseCause_supply (c : LockdownCause) (p : Bool) (s : State) :
    (raiseCause c p s).supply = s.supply := (raiseCause_fields c p s).2.2.1
@[simp] theorem raiseCause_atTick (c : LockdownCause) (p : Bool) (s : State) :
    (raiseCause c p s).atTick = s.atTick := (raiseCause_fields c p s).2.2.2

end Sys2Proof.Machine
end

section
/-! SUPPORT. Time (log 1 to 3): no expiry moves the mark of a tick, the arbiter does not look at it and finds nothing
to do a second time; so the expiries of a tick are those of their commands, one after the other. -/

namespace Sys2Proof.Machine

/-! ### The mark of a tick -/

@[simp] theorem faultLine_atTick (n : LineId) (r : FaultReason) (lock : Option PartCause) (s : State) :
    (faultLine n r lock s).atTick = s.atTick := by simp [faultLine]

@[simp] theorem nextProbe_atTick (resume : Option Nat) (s : State) :
    (nextProbe resume s).atTick = s.atTick := by
  unfold nextProbe setPass
  (repeat' split) <;> simp

@[simp] theorem restartScan_atTick (s : State) : (restartScan s).atTick = s.atTick := by
  have returned : (returnProbe s).atTick = s.atTick := by
    unfold returnProbe
    split <;> simp
  unfold restartScan startPacing takePlan clearRecords dropProbes
  rw [nextProbe_atTick]
  dsimp only
  rw [eachLine_modLine_atTick, eachLine_same State.atTick (fun n t => by simp), returned]

@[simp] theorem prepareScan_atTick (s : State) : (prepareScan s).atTick = s.atTick := by
  unfold prepareScan takePlan clearRecords
  dsimp only
  rw [eachLine_modLine_atTick]

@[simp] theorem recordOutcome_atTick (o : ProfileOutcome) (s : State) :
    (recordOutcome o s).atTick = s.atTick := by simp [recordOutcome]

@[simp] theorem clampSteps_atTick (s : State) : (clampSteps s).atTick = s.atTick := by
  refine eachLine_same State.atTick (fun n t => ?_) s
  unfold clampLine
  dsimp only
  split <;> simp

@[simp] theorem askChanged_atTick (old s : State) : (askChanged old s).atTick = s.atTick :=
  eachLine_same State.atTick (fun n t => by split <;> simp) s

@[simp] theorem reevaluateChanged_atTick (old s : State) : (reevaluateChanged old s).atTick = s.atTick :=
  reevaluateChanged_keeps (P := fun t => t.atTick = s.atTick) (fun t h => by simp [h]) rfl

@[simp] theorem applyProfile_atTick (s : State) : (applyProfile s).atTick = s.atTick :=
  eachLine_modLine_atTick _ s

@[simp] theorem mismatch_atTick (s : State) : (mismatch s).atTick = s.atTick := by
  unfold mismatch
  dsimp only
  rw [askChanged_atTick, askBerth_atTick, raiseCause_atTick, recordOutcome_atTick]
  unfold setDivider
  dsimp only
  split <;> simp [setActive]

/-- The expiries leave the mark of a tick. -/
theorem take_atTick (e : Expiry) (s : State) : (e.take s).atTick = s.atTick := by
  cases e with
  | stall n =>
    change (expireStall n s).atTick = s.atTick
    unfold expireStall stallEvent
    split <;> simp
  | haul n =>
    change (expireHaul n s).atTick = s.atTick
    unfold expireHaul haulTimeOutEvent
    split <;> simp
  | slip n =>
    change (expireSlip n s).atTick = s.atTick
    unfold expireSlip slipTimeOutEvent
    split <;> simp
  | brake n =>
    change (expireBrake n s).atTick = s.atTick
    unfold expireBrake mismatchEvent
    split <;> simp
  | hold n =>
    change (expireHold n s).atTick = s.atTick
    unfold expireHold
    split <;> simp
  | silence => exact raiseCause_atTick _ _ s
  | pacing =>
    change (pacingEvent s).atTick = s.atTick
    unfold pacingEvent setPass
    dsimp only
    split <;> simp
  | verify =>
    change (verifyEvent s).atTick = s.atTick
    unfold verifyEvent
    dsimp only
    split <;> simp
  | snap => rfl

/-! ### The arbiter and the mark of a tick -/

theorem grantInternal_withTick (s : State) (b : Bool) :
    grantInternal { s with atTick := b } = { grantInternal s with atTick := b } := by
  cases fetch : s.bus.fetch with
  | some f => rw [grantInternal_fetch fetch, grantInternal_fetch (s := { s with atTick := b }) fetch]; rfl
  | none =>
    cases record : eligibleRecord s with
    | none =>
      rw [grantInternal_idle fetch record, grantInternal_idle (s := { s with atTick := b }) fetch record]
    | some r =>
      rw [grantInternal_record fetch record,
        grantInternal_record (s := { s with atTick := b }) fetch record]
      unfold grantRecord raiseSeq recordWords
      dsimp only
      split <;> rfl

/-- The arbiter does not look at the mark of a tick. -/
theorem arbitrate_withTick (s : State) (b : Bool) :
    arbitrate { s with atTick := b } = { arbitrate s with atTick := b } := by
  by_cases free : dportFree s = true
  swap
  · rw [arbitrate_of_not_free free, arbitrate_of_not_free (s := { s with atTick := b }) free]
  cases lane : s.bus.orderLane with
  | cons e rest =>
    rw [arbitrate_pair free lane, arbitrate_pair (s := { s with atTick := b }) free lane]
    rfl
  | nil =>
    cases host : s.bus.waiting with
    | none =>
      rw [arbitrate_no_host free lane host, arbitrate_no_host (s := { s with atTick := b }) free lane host,
        grantInternal_withTick]
    | some h =>
      rw [arbitrate_waiting free lane host,
        arbitrate_waiting (s := { s with atTick := b }) free lane host, grantInternal_withTick]
      change (if internalWaits s = true ∧ s.bus.mark = .host then _ else _) = _
      split <;> rfl

theorem arbitrate_atTick (s : State) : (arbitrate s).atTick = s.atTick := by
  have unread := congrArg State.atTick (arbitrate_withTick s s.atTick)
  exact unread

/-- The arbiter leaves itself nothing to do. -/
theorem arbitrate_idem (s : State) : arbitrate (arbitrate s) = arbitrate s := by
  cases power : s.supply.powered with
  | false => 
    have down : ¬ dportFree s = true := by simp [dportFree, power]
    rw [arbitrate_of_not_free down, arbitrate_of_not_free down]
  | true =>
    cases port : (arbitrate s).bus.dport with
    | none => 
      have idle := (arbitrate_idle power port).1
      rw [idle, idle]
    | some d => exact arbitrate_of_not_free (by simp [dportFree, port])

/-! ### The command of an expiry -/

theorem exec_command (e : Expiry) (k : Nat) (s : State) :
    exec (e.command k) s = .next (event (onTick (expire e)) (elapse k s)) := by
  cases e <;> rfl

theorem after_command (e : Expiry) (s : State) :
    s.after (e.command 0) = event (onTick (expire e)) s := by
  unfold State.after
  rw [exec_command]
  rfl

/-- Whether an expiry stands due does not hang on the mark of a tick. -/
theorem due_withTick (e : Expiry) (s : State) (b : Bool) : e.due { s with atTick := b } = e.due s := by
  cases e <;> rfl

/-- An expiry that does not stand due leaves its command to the arbiter. -/
theorem event_expire_idle {e : Expiry} {s : State} (power : s.supply.powered = true)
    (idle : e.due s = false) : event (onTick (expire e)) s = arbitrate { s with atTick := false } := by
  have kept : expire e { s with atTick := true } = { s with atTick := true } :=
    if_neg (by simp [due_withTick, idle])
  unfold event onTick
  rw [if_pos power, kept]

theorem event_expire_due {e : Expiry} {s : State} (power : s.supply.powered = true)
    (due : e.due s = true) : event (onTick (expire e)) s =
      arbitrate { e.take { s with atTick := true } with atTick := false } := by
  have taken : expire e { s with atTick := true } = e.take { s with atTick := true } :=
    if_pos (by rw [due_withTick, due])
  unfold event onTick
  rw [if_pos power, taken]

/-! ### The expiries of one tick -/

/-- A part within a tick that the arbiter has served: the supply is up. -/
structure InTick (s : State) : Prop where
  atTick : s.atTick = true
  powered : s.supply.powered = true
  served : arbitrate s = s

theorem powered_take (e : Expiry) (s : State) : (e.take s).supply.powered = s.supply.powered :=
  (Wired.expiry e s).powered

theorem withTick_of {s : State} {b : Bool} (h : s.atTick = b) : { s with atTick := b } = s := by
  subst h
  rfl

/-- Within a tick an expiry that stands due is taken as its command takes it. -/
theorem takeDue_of_due {e : Expiry} {s : State} (tick : s.atTick = true) (power : s.supply.powered = true)
    (due : e.due s = true) : InTick (takeDue s e) ∧
      ({ s with atTick := false } : State).after (e.command 0) = { takeDue s e with atTick := false } := by
  have step : takeDue s e = arbitrate (e.take s) := if_pos due
  rw [step]
  refine ⟨⟨?_, ?_, arbitrate_idem _⟩, ?_⟩
  · rw [arbitrate_atTick, take_atTick, tick]
  · rw [(Served.arbitrate _).powered, powered_take, power]
  · have due' : e.due { s with atTick := false } = true := by rw [due_withTick, due]
    have same : e.take { { s with atTick := false } with atTick := true } = e.take s :=
      congrArg e.take (withTick_of tick)
    rw [after_command, event_expire_due (s := { s with atTick := false }) power due', same, arbitrate_withTick]

/-- Within a tick, the arbiter served, an expiry and its command do the same, due or not. -/
theorem takeDue_inTick {s : State} (h : InTick s) (e : Expiry) : InTick (takeDue s e) ∧
    ({ s with atTick := false } : State).after (e.command 0) = { takeDue s e with atTick := false } := by
  cases due : e.due s with
  | true => exact takeDue_of_due h.atTick h.powered due
  | false =>
    have kept : takeDue s e = s := if_neg (by simp [due])
    have due' : e.due { s with atTick := false } = false := by rw [due_withTick, due]
    have same : arbitrate { { s with atTick := false } with atTick := false } = { s with atTick := false } := by
      rw [arbitrate_withTick, arbitrate_withTick, h.served]
    rw [kept, after_command, event_expire_idle (s := { s with atTick := false }) h.powered due', same]
    exact ⟨h, rfl⟩

theorem foldl_takeDue_inTick (es : List Expiry) {s : State} (h : InTick s) :
    es.foldl (fun u e => u.after (e.command 0)) { s with atTick := false } =
      { es.foldl takeDue s with atTick := false } := by
  induction es generalizing s with
  | nil => rfl
  | cons e es ih =>
    obtain ⟨next, same⟩ := takeDue_inTick h e
    rw [List.foldl_cons, List.foldl_cons, same, ih next]

/-- The expiries of a tick, the first of them due, are their commands one after the other. -/
theorem foldl_takeDue {es : List Expiry} {s : State} (tick : s.atTick = true)
    (power : s.supply.powered = true) (due : ∀ e ∈ es, e.due s = true) :
    es.foldl (fun u e => u.after (e.command 0)) { s with atTick := false } =
      { es.foldl takeDue s with atTick := false } := by
  cases es with
  | nil => rfl
  | cons e es =>
    obtain ⟨next, same⟩ := takeDue_of_due tick power (due e List.mem_cons_self)
    rw [List.foldl_cons, List.foldl_cons, same, foldl_takeDue_inTick es next]

/-! ### The order within a tick (log 2) -/

theorem tickOrder_perm (k : Nat) (es : List Expiry) : (tickOrder k es).Perm es := by
  induction es with
  | nil => exact .refl _
  | cons e es ih =>
    cases es with
    | nil => exact .refl _
    | cons f rest =>
      unfold tickOrder
      refine (List.perm_insertIdx e _ ?_).trans (ih.cons e)
      exact Nat.le_of_lt_succ (Nat.mod_lt _ (Nat.succ_pos _))

theorem mem_allExpiries (e : Expiry) : e ∈ allExpiries := by
  cases e <;> simp [allExpiries, mem_allLines]

theorem mem_dueNow (e : Expiry) (s : State) : e ∈ dueNow s ↔ e.StandsDue s := by
  simp [dueNow, mem_allExpiries, due_iff]

theorem allExpiries_nodup : allExpiries.Nodup := by decide

/-- What stands due at a tick is taken by the commands of its expiries. -/
theorem dueTaken_takeAllDue {s : State} (power : s.supply.powered = true) (between : s.atTick = false) :
    DueTaken s (takeAllDue s) := by
  have order := tickOrder_perm s.ticks (dueNow s)
  have due : ∀ e, e ∈ tickOrder s.ticks (dueNow s) ↔ e.StandsDue s := fun e =>
    order.mem_iff.trans (mem_dueNow e s)
  refine ⟨tickOrder s.ticks (dueNow s), order.nodup_iff.mpr (allExpiries_nodup.filter _), due, ?_⟩
  have now : dueNow { s with atTick := true } = dueNow s := by
    unfold dueNow
    exact congrArg (allExpiries.filter ·) (funext fun e => due_withTick e s true)
  have run := foldl_takeDue (s := { s with atTick := true }) rfl power fun e he => by
    rw [due_withTick]
    exact (due_iff e s).mpr ((due e).mp he)
  rw [← withTick_of between]
  unfold takeAllDue onTick
  dsimp only
  dsimp only at run
  rw [withTick_of between, now]
  rw [withTick_of between] at run
  exact run.symm

theorem takeAllDue_powered (s : State) : (takeAllDue s).supply.powered = s.supply.powered :=
  foldl_keeps (P := fun u => u.supply.powered = s.supply.powered) (fun u e h => by
    unfold takeDue
    split
    · exact (Served.arbitrate _).powered.trans ((powered_take e u).trans h)
    · exact h) _ rfl

/-- With the supply down no time passes. -/
theorem elapse_down {s : State} (down : s.supply.powered = false) (k : Nat) : elapse k s = s := by
  induction k with
  | zero => rfl
  | succ k ih =>
    unfold elapse count
    rw [if_neg (by simp [down]), ih]

/-- Settles O2: with the supply up a tick is what stands due, one millisecond counted, and what then stands
due, each expiry by its own command. -/
theorem emptyQueueTicks : Obligations.EmptyQueueTicks := by
  unfold Obligations.EmptyQueueTicks
  refine ⟨fun s down => ⟨fun empty => ?_, fun e k => ?_⟩, fun s power between => ?_, fun e s power idle => ?_⟩
  · unfold step tick
    rw [empty]
    dsimp only
    rw [if_neg (by simp [down])]
  · rw [exec_command, elapse_down down]
    unfold event
    rw [if_neg (by simp [down])]
  · have counted : count s = countDown (takeAllDue s) := if_pos power
    have down := counted_countDown (takeAllDue s)
    have power' : (countDown (takeAllDue s)).supply.powered = true := by
      rw [down.rest]
      exact (takeAllDue_powered s).trans power
    have between' : (countDown (takeAllDue s)).atTick = false := by
      rw [down.rest]
      rfl
    refine ⟨takeAllDue s, countDown (takeAllDue s), takeAllDue (countDown (takeAllDue s)),
      dueTaken_takeAllDue power between, down, dueTaken_takeAllDue power' between', fun empty => ?_,
      fun e k => ?_, fun upset k => ?_⟩
    · unfold step tick
      rw [empty]
      dsimp only
      rw [if_pos power, counted]
    · rw [exec_command, exec_command, ← counted]
      rfl
    · rw [← counted]
      rfl
  · have later : e.due s = false := by
      rw [← Bool.not_eq_true, due_iff]
      exact idle
    rw [exec_command]
    exact congrArg Host.Outcome.next (event_expire_idle power later)

end Sys2Proof.Machine
end

section
/-! SUPPORT. The words of orders (R36 to R38, R47, R56) and screening up to the hold step (R39 to R45). -/

namespace Sys2Proof.Machine

/-! ### The words of orders -/

theorem readOrder_eq_some_iff (w : Word) (k : OrderKind) (t : Tag) : readOrder w = some (k, t) ↔
    codeField w = k.code ∧ tagField w = t ∧ t ≠ 0 ∧ w.extractLsb' 20 12 = 0 := by
  unfold readOrder orderSpare
  by_cases bad : tagField w = 0 ∨ w.extractLsb' 20 12 ≠ 0
  · rw [if_pos bad]
    refine iff_of_false (by simp) ?_
    rintro ⟨-, rfl, tag, spare⟩
    exact bad.elim tag fun h => h spare
  · rw [if_neg bad, Option.map_eq_some_iff]
    obtain ⟨tag, spare⟩ := not_or.mp bad
    constructor
    · rintro ⟨k', kind, same⟩
      obtain ⟨rfl, rfl⟩ := Prod.mk.inj same
      exact ⟨(kindOfCode_eq_some_iff _ _).mp kind, rfl, tag, not_not.mp spare⟩
    · rintro ⟨kind, rfl, -, -⟩
      exact ⟨k, (kindOfCode_eq_some_iff _ _).mpr kind, rfl⟩

/-- A word that reads as a group carries one of its kinds and its own tag. -/
theorem readGroup_kind {w : Word} {be : ByteEnables} {k : OrderKind} {t : Tag}
    (h : readGroup w be = some (k, t)) : codeField w = k.code ∧
      (k = .lock ∨ k = .tend ∨ k = .slip ∨ k = .rewind) ∧ tagField w = t := by
  unfold readGroup at h
  split at h
  · split at h
    case h_5 | h_6 | h_7 | h_8 | h_9 => cases h
    all_goals
      rename_i kind
      cases h
      exact ⟨(kindOfCode_eq_some_iff _ _).mp kind, by simp, rfl⟩
  · cases h

theorem readGroup_eq_some_iff (w : Word) (be : ByteEnables) (k : OrderKind) (t : Tag) :
    readGroup w be = some (k, t) ↔ be = 15 ∧ byteSum w = 0xC3#8 ∧ codeField w = k.code ∧
      (k = .lock ∨ k = .tend ∨ k = .slip ∨ k = .rewind) ∧ tagField w = t ∧ t ≠ 0 ∧
      ∃ n, groupNames w n = true := by
  have unread := not_congr (readGroup_eq_none_iff w be)
  simp only [not_or, not_not, not_forall, Bool.not_eq_false] at unread
  constructor
  · intro h
    obtain ⟨code, kind, tag⟩ := readGroup_kind h
    obtain ⟨full, check, -, tag', named⟩ := unread.mp (by simp [h])
    exact ⟨full, check, code, kind, tag, tag ▸ tag', named⟩
  · rintro ⟨full, check, code, kind, rfl, tag, named⟩
    have codes : codeField w ∈ [1, 3, 5, 6] := by
      rw [code]
      rcases kind with rfl | rfl | rfl | rfl <;> decide
    obtain ⟨⟨k', t'⟩, read⟩ := Option.ne_none_iff_exists'.mp (unread.mpr ⟨full, check, codes, tag, named⟩)
    obtain ⟨code', -, rfl⟩ := readGroup_kind read
    have kind' := (kindOfCode_eq_some_iff _ k').mpr code'
    rw [code, (kindOfCode_eq_some_iff _ k).mpr rfl] at kind'
    rw [read, Option.some.inj kind']

/-! ### The words the part composes -/

/-- A byte in the lowest place is not seen above it. -/
theorem extractLsb'_byte {start : Nat} (len : Nat) (h : 8 ≤ start) (c : BitVec 8) :
    (c.setWidth 32).extractLsb' start len = 0#len := by
  ext i hi
  simp
  exact fun _ => BitVec.getLsbD_of_ge _ _ (by omega)

theorem byteAt_zero_byte (c : BitVec 8) : byteAt (c.setWidth 32) 0 = c := by
  unfold byteAt
  ext i hi
  simp [show i < 32 by omega, BitVec.getLsbD_eq_getElem hi]

/-- The check byte makes a word good whose lowest byte was free (R179). -/
theorem byteSum_checked {body : Word} (free : byteAt body 0 = 0#8) :
    byteSum (body ||| (0xC3#8 - byteSum body).setWidth 32) = 0xC3#8 := by
  generalize sum : byteSum body = b
  have low : byteAt (body ||| (0xC3#8 - b).setWidth 32) 0 = 0xC3#8 - b := by
    have split : byteAt (body ||| (0xC3#8 - b).setWidth 32) 0 =
        byteAt body 0 ||| byteAt ((0xC3#8 - b).setWidth 32) 0 := BitVec.extractLsb'_or
    rw [split, free, byteAt_zero_byte, BitVec.zero_or]
  have high : ∀ i, 1 ≤ i → byteAt (body ||| (0xC3#8 - b).setWidth 32) i = byteAt body i := fun i hi => by
    unfold byteAt
    rw [BitVec.extractLsb'_or, extractLsb'_byte 8 (by omega), BitVec.or_zero]
  unfold byteSum at sum ⊢
  rw [low, high 1 (by omega), high 2 (by omega), high 3 (by omega)]
  rw [free] at sum
  bv_omega

/-- Above its check byte the composed word is its body. -/
theorem extractLsb'_composeOrder {start : Nat} (len : Nat) (h : 8 ≤ start) (k : OrderKind) (t : Tag) :
    (composeOrder k t).extractLsb' start len = (orderBody k t).extractLsb' start len := by
  unfold composeOrder
  rw [BitVec.extractLsb'_or, extractLsb'_byte len h, BitVec.or_zero]

theorem extractLsb'_orderBody (start len : Nat) (k : OrderKind) (t : Tag) :
    (orderBody k t).extractLsb' start len = (BitVec.ofNat 32 k.code <<< 8).extractLsb' start len |||
      (t.setWidth 32 <<< 12).extractLsb' start len ||| (0x80000000#32).extractLsb' start len := by
  unfold orderBody
  rw [BitVec.extractLsb'_or, BitVec.extractLsb'_or]

/-- The tag's place begins at bit 12. -/
theorem extractLsb'_tag_below {start len : Nat} (h : start + len ≤ 12) (t : Tag) :
    (t.setWidth 32 <<< 12).extractLsb' start len = 0#len := by
  ext i hi
  simp
  omega

/-- The tag's place ends before bit 20. -/
theorem extractLsb'_tag_above {start : Nat} (len : Nat) (h : 20 ≤ start) (t : Tag) :
    (t.setWidth 32 <<< 12).extractLsb' start len = 0#len := by
  ext i hi
  simp
  exact fun _ _ _ => BitVec.getLsbD_of_ge _ _ (by omega)

theorem extractLsb'_tag (t : Tag) : (t.setWidth 32 <<< 12).extractLsb' 12 8 = t := by
  ext i hi
  simp [show 12 + i < 32 by omega, BitVec.getLsbD_eq_getElem hi]

theorem extractLsb'_code (k : OrderKind) : (BitVec.ofNat 32 k.code <<< 8).extractLsb' 0 8 = 0#8 ∧
    ((BitVec.ofNat 32 k.code <<< 8).extractLsb' 8 4).toNat = k.code ∧
    (BitVec.ofNat 32 k.code <<< 8).extractLsb' 12 8 = 0#8 ∧
    (BitVec.ofNat 32 k.code <<< 8).extractLsb' 20 12 = 0#12 := by
  cases k <;> exact ⟨rfl, rfl, rfl, rfl⟩

/-- The body of an order word leaves its lowest byte free for the check. -/
theorem byteAt_orderBody_zero (k : OrderKind) (t : Tag) : byteAt (orderBody k t) 0 = 0#8 := by
  obtain ⟨code, -⟩ := extractLsb'_code k
  unfold byteAt
  rw [extractLsb'_orderBody, code, extractLsb'_tag_below (by decide)]
  rfl

theorem codeField_composeOrder (k : OrderKind) (t : Tag) : codeField (composeOrder k t) = k.code := by
  obtain ⟨-, code, -⟩ := extractLsb'_code k
  unfold codeField
  rw [extractLsb'_composeOrder 4 (by decide), extractLsb'_orderBody, extractLsb'_tag_below (by decide),
    BitVec.or_zero, show (0x80000000#32).extractLsb' 8 4 = 0#4 from rfl, BitVec.or_zero, code]

theorem tagField_composeOrder (k : OrderKind) (t : Tag) : tagField (composeOrder k t) = t := by
  obtain ⟨-, -, code, -⟩ := extractLsb'_code k
  unfold tagField
  rw [extractLsb'_composeOrder 8 (by decide), extractLsb'_orderBody, extractLsb'_tag, code, BitVec.zero_or,
    show (0x80000000#32).extractLsb' 12 8 = 0#8 from rfl, BitVec.or_zero]

theorem screenMark_composeOrder (k : OrderKind) (t : Tag) :
    (composeOrder k t).extractLsb' 20 12 = 0x800#12 := by
  obtain ⟨-, -, -, code⟩ := extractLsb'_code k
  rw [extractLsb'_composeOrder 12 (by decide), extractLsb'_orderBody, extractLsb'_tag_above 12 (by decide), code]
  rfl

theorem composeArgument_lower (v : Nat) : (composeArgument v).extractLsb' 0 16 = BitVec.ofNat 16 v := by
  unfold composeArgument
  ext i hi
  simp [show i < 32 by omega, BitVec.getLsbD_eq_getElem hi]

theorem composeArgument_upper (v : Nat) : (composeArgument v).extractLsb' 16 16 = 0 := by
  unfold composeArgument
  ext i hi
  simp

/-- Settles O13: the fields of the words read, and of the words composed. -/
theorem orderWords : Obligations.OrderWords := by
  unfold Obligations.OrderWords
  refine ⟨fun w n => ⟨rfl, rfl, rfl, by simp [checkGood], rfl⟩, readOrder_eq_some_iff, readGroup_eq_some_iff,
    fun k t v => ⟨codeField_composeOrder k t, tagField_composeOrder k t, screenMark_composeOrder k t, ?_,
      composeArgument_lower v, composeArgument_upper v⟩⟩
  exact byteSum_checked (byteAt_orderBody_zero k t)

/-- Settles O14: a word that reads is screened. -/
theorem ordersScreened : Obligations.OrdersScreened := by
  unfold Obligations.OrdersScreened
  refine ⟨fun i n w k t s row takes good read => ?_, fun i w k t s row takes read => ?_⟩
  · rw [exec_orderRow row, hostWrite_order takes, writeOrder_read good read]
  · rw [exec_groupRow row, hostWrite_group takes, writeGroup_read read]
    rfl

/-- Settles O15: the argument word's form decides between the two. -/
theorem argumentWordLatches : Obligations.ArgumentWordLatches := by
  unfold Obligations.ArgumentWordLatches
  intro n w be s takes
  have write : exec (.argumentWordWrite n w be) s = .next (arbitrate (writeArgument n w be (hostActivity s))) :=
    congrArg Host.Outcome.next (hostWrite_argument takes n w be)
  have latch : readArgument w be =
      if be = 15 ∧ w.extractLsb' 16 16 = 0 then some ⟨(w.extractLsb' 0 16).toNat, 0⟩ else none := by
    unfold readArgument
    simp [isFull]
  rw [write, ← latch]
  rfl

/-- Settles O18: the tables of R42 and R43, row by row. -/
theorem allowanceTables : Obligations.AllowanceTables := by
  unfold Obligations.AllowanceTables
  refine ⟨fun k p => ?_, fun k p stowed st => ?_⟩
  · cases k <;> cases p <;> decide
  · cases st <;> cases k <;> simp [stateAllows, passIf]

/-- Settles O48: the phases STARTING and HALTED drop every guarded word. -/
theorem silentPhasesDrop : Obligations.SilentPhasesDrop := by
  unfold Obligations.SilentPhasesDrop
  intro i n w be s power free phase
  have silent : s.berth.phase.silent = true := by rcases phase with h | h <;> rw [h] <;> rfl
  have dropped : ∀ j, j < 28 ∨ j = 29 →
      (.next (hostWrite j w be s) : Host.Outcome State Fault Refusal) = .next (arbitrate s) :=
    fun j hj => congrArg Host.Outcome.next (hostWrite_dropped power free silent hj w be)
  refine ⟨fun straps => ?_, ?_⟩
  · exact congrArg Host.Outcome.next
      (hostWrite_dropped (s := setStraps straps s) power free silent (.inl (by decide)) w be)
  · have order : orderAt n < 28 ∨ orderAt n = 29 := .inl (by unfold orderAt; omega)
    have argument : argumentAt n < 28 ∨ argumentAt n = 29 := .inl (by unfold argumentAt; omega)
    rintro (row | row | row | rfl | rfl | rfl | rfl)
    · rw [exec_orderRow row, dropped _ order]
    · rw [exec_groupRow row, dropped _ (.inl (by decide))]
    · rw [exec_requestRow row, dropped _ (.inl (by decide))]
    · exact dropped _ argument
    · exact dropped 26 (.inl (by decide))
    · exact dropped 27 (.inl (by decide))
    · exact dropped 29 (.inr rfl)

/-! ### Screening up to the hold step -/

theorem needsLoaded_iff (k : OrderKind) :
    k.needsLoaded = true ↔ k ∈ [OrderKind.haul, .tend, .ease, .slip] := by
  cases k <;> decide

/-- The fallback restriction lets an order go on (R41). -/
theorem unrestricted {s : State} {k : OrderKind}
    (h : ¬ (s.profile.source = .fallback ∧ k ∈ [OrderKind.haul, .tend, .ease, .slip])) :
    s.profile.source = .loaded ∨ k.needsLoaded = false := by
  cases source : s.profile.source with
  | loaded => exact .inl rfl
  | fallback =>
    rw [← needsLoaded_iff] at h
    exact .inr (Bool.eq_false_iff.mpr fun needs => h ⟨source, needs⟩)

/-- An order whose screening ends in a refusal, the latch used, is refused. -/
theorem exec_refused {i : Instr} {n : LineId} {k : OrderKind} {t : Tag} {o : Origin} {s : State}
    {r : RefusalReason} (h : Carries i n k t o) (takes : s.takesWords)
    (ends : screen n k t o (hostActivity s) = refuse n (some (t, k)) r (useLatch n k (hostActivity s))) :
    ∃ u, exec i s = .next (arbitrate u) ∧ RefusedOrder s u n (some (t, k)) r
      (if k = .haul ∨ k = .ease then none else (s.line n).latch) := by
  refine ⟨_, exec_carries h takes, ?_⟩
  rw [ends]
  exact refusedOrder_refuse takes (useLatch_eq n k (hostActivity s))

theorem screen_unfitted {n : LineId} {k : OrderKind} {t : Tag} {o : Origin} {s : State}
    (h : (s.line n).fitted = false) :
    screen n k t o s = refuse n (some (t, k)) .notFitted (useLatch n k s) := if_pos h

theorem screen_restricted {n : LineId} {k : OrderKind} {t : Tag} {o : Origin} {s : State}
    (fitted : (s.line n).fitted = true) (new : (s.line n).lastHost.order ≠ some (t, k))
    (fallback : s.profile.source = .fallback) (needs : k.needsLoaded = true) :
    screen n k t o s = refuse n (some (t, k)) .fallbackProfile (useLatch n k s) := by
  rw [screen_new fitted new, useLatch_eq]
  exact if_pos ⟨fallback, needs⟩

theorem screen_wrongPhase {n : LineId} {k : OrderKind} {t : Tag} {o : Origin} {s : State}
    (fitted : (s.line n).fitted = true) (new : (s.line n).lastHost.order ≠ some (t, k))
    (free : s.profile.source = .loaded ∨ k.needsLoaded = false) (phase : phaseAllows k s.berth.phase = false) :
    screen n k t o s = refuse n (some (t, k)) .wrongPhase (useLatch n k s) := by
  rw [screen_new fitted new, useLatch_eq]
  unfold judgeOrder
  rw [if_neg, if_pos (by simp [phase])]
  rintro ⟨fallback, needs⟩
  rcases free with loaded | kind
  · cases loaded.symm.trans fallback
  · cases kind.symm.trans needs

theorem stowed_eq (l : Line) : l.stowed = (decide (l.payout = 0) && l.stowMade) := by
  unfold Line.stowed
  cases l.payout <;> rfl

/-- Settles O20: the four steps of screening that refuse before the argument is read. -/
theorem screeningRefusals : Obligations.ScreeningRefusals := by
  unfold Obligations.ScreeningRefusals
  intro i n k t o s carries takes
  refine ⟨fun unfitted => ?_, fun fitted new => ⟨fun ⟨fallback, kind⟩ => ?_, fun free phase => ?_,
    fun free phase r state => ?_⟩⟩
  · exact exec_refused carries takes (screen_unfitted unfitted)
  · exact exec_refused carries takes (screen_restricted fitted new fallback ((needsLoaded_iff k).mpr kind))
  · exact exec_refused carries takes (screen_wrongPhase fitted new (unrestricted free) phase)
  · refine exec_refused carries takes ?_
    rw [← stowed_eq] at state
    rw [screen_allowed (s := hostActivity s) fitted new (unrestricted free) phase, hostActivity_phase,
      hostActivity_line, state]

/-! ### The argument and the hold step -/

/-- A latch that is empty or stale gives no value (R30). -/
theorem freshValue_stale {s : State} {latch : Option Latch}
    (h : ∀ x, latch = some x → argumentFreshness s.image < x.age) : freshValue s latch = none := by
  cases latch with
  | none => rfl
  | some x => exact if_neg (Nat.not_le.mpr (h x rfl))

theorem argumentInRange_haul {s : State} {n : LineId} {v : Nat}
    (h : v < bandMin s.image n ∨ bandMax s.image n < v) : argumentInRange s n .haul v = false := by
  unfold argumentInRange within
  simp
  omega

theorem argumentInRange_ease {s : State} {n : LineId} {v : Nat} (h : v < 1 ∨ 4000 < v ∨
      (s.line n).lengthUnknown = true ∨ maxPayout s.image n < (s.line n).payout + v) :
    argumentInRange s n .ease v = false := by
  unfold argumentInRange within
  rcases h with low | high | unknown | long
  · simp [show ¬ 1 ≤ v by omega]
  · simp [show ¬ v ≤ 4000 by omega]
  · simp [unknown]
  · simp [show ¬ (s.line n).payout + v ≤ maxPayout s.image n by omega]

theorem completeOrder_stale {n : LineId} {k : OrderKind} {t : Tag} {o : Origin} {latch : Option Latch}
    {hold : Bool} {s : State} (kind : k = .haul ∨ k = .ease) (stale : freshValue s latch = none) :
    completeOrder n k t o latch hold s = refuse n (some (t, k)) .argumentStale s := by
  rcases kind with rfl | rfl <;> unfold completeOrder <;> rw [stale]

theorem completeOrder_range {n : LineId} {k : OrderKind} {t : Tag} {o : Origin} {latch : Option Latch}
    {hold : Bool} {s : State} {v : Nat} (kind : k = .haul ∨ k = .ease) (fresh : freshValue s latch = some v)
    (range : argumentInRange s n k v = false) :
    completeOrder n k t o latch hold s = refuse n (some (t, k)) .argumentRange s := by
  rcases kind with rfl | rfl <;> unfold completeOrder <;> rw [fresh] <;> exact if_neg (by simp [range])

/-- Only SLIP and REWIND are held. -/
theorem kind_of_hold {k : OrderKind} {p : Phase} {stowed : Bool} {st : LineState}
    (h : stateAllows k p stowed st = .hold) : k = .slip ∨ k = .rewind := by
  have passes : ∀ c r, passIf c r ≠ .hold := fun c r => by cases c <;> simp [passIf]
  cases k with
  | slip => exact .inl rfl
  | rewind => exact .inr rfl
  | lock | haul | tend | ease | park | restate =>
    unfold stateAllows at h
    dsimp only at h
    split at h <;> simp [passes] at h

/-- The hold of an order that state allowance holds is the hold step of its kind. -/
theorem completeOrder_hold {n : LineId} {k : OrderKind} {t : Tag} {o : Origin} {latch : Option Latch}
    (kind : k = .slip ∨ k = .rewind) (s : State) : ∃ h : HeldKind, h.order = k ∧
      completeOrder n k t o latch true s = holdOrder n h t o s := by
  rcases kind with rfl | rfl
  · exact ⟨.slip, rfl, rfl⟩
  · exact ⟨.rewind, rfl, rfl⟩

theorem holdOrder_full {n : LineId} {h : HeldKind} {t : Tag} {o : Origin} {s : State}
    (full : 8 ≤ s.queue.length) (new : s.entry n = none) :
    holdOrder n h t o s = refuse n (some (t, h.order)) .queueFull s := by
  unfold holdOrder
  rw [new]
  exact if_pos full

/-- Settles O21: the argument step and the hold step refuse. -/
theorem argumentAndQueueRefusals : Obligations.ArgumentAndQueueRefusals := by
  unfold Obligations.ArgumentAndQueueRefusals
  intro i n k t o s carries takes fitted new free phase
  have allowed := screen_allowed (s := hostActivity s) (o := o) fitted new (unrestricted free) phase
  rw [hostActivity_phase, hostActivity_line, stowed_eq] at allowed
  intro allowance
  refine ⟨fun kind pass => ?_, fun hold full alone => ?_⟩
  · have emptied : (if k = .haul ∨ k = .ease then none else (s.line n).latch) = none := if_pos kind
    have image : (useLatch n k (hostActivity s)).image = s.image := by rw [useLatch_eq]; rfl
    have line : ((useLatch n k (hostActivity s)).line n).lengthUnknown = (s.line n).lengthUnknown ∧
        ((useLatch n k (hostActivity s)).line n).payout = (s.line n).payout := by
      rw [useLatch_eq, line_modLine_self]
      exact ⟨rfl, rfl⟩
    rw [show stateAllows _ _ _ _ = Allow.pass from pass] at allowed
    dsimp only at allowed
    rw [← emptied]
    refine ⟨fun stale => ?_, fun x latch fresh range => ?_⟩
    · refine exec_refused carries takes ?_
      rw [allowed, completeOrder_stale kind (freshValue_stale (by rwa [image]))]
    · refine exec_refused carries takes ?_
      rw [allowed, completeOrder_range kind (freshValue_of latch (by rwa [image]))]
      rcases range with ⟨rfl, range⟩ | ⟨rfl, range⟩
      · exact argumentInRange_haul (by rwa [image])
      · exact argumentInRange_ease (by rwa [image, line.1, line.2])
  · have kind := kind_of_hold hold
    have kept : (if k = .haul ∨ k = .ease then none else (s.line n).latch) = (s.line n).latch := by
      rcases kind with rfl | rfl <;> rfl
    rw [show stateAllows _ _ _ _ = Allow.hold from hold] at allowed
    dsimp only at allowed
    rw [← kept]
    refine exec_refused carries takes ?_
    obtain ⟨held, rfl, step⟩ := completeOrder_hold (n := n) (t := t) (o := o) (latch := (s.line n).latch) kind
      (useLatch n k (hostActivity s))
    have same : (useLatch n held.order (hostActivity s)).queue = s.queue := by rw [useLatch_eq]; rfl
    rw [allowed, step, holdOrder_full (by rwa [same]) (by rwa [entry_congr same])]

end Sys2Proof.Machine
end

section
/-! SUPPORT. The orders that pass (R46, R48 to R54): the state each gives its line, and the berth after it. -/

namespace Sys2Proof.Machine

variable {n : LineId}

/-! ### A line at rest -/

theorem Line.rests_enter {st : LineState} (moves : st.moves = false) (hauls : st.isHauling = false)
    (slips : st ≠ .slipping) (img : List Word) (f : Nat → Nat) (l : Line) : (Line.enter img f st l).Rests := by
  unfold Line.enter Line.Rests
  simp [moves, hauls, slips]

/-- The timers of a sound line run in their states alone (R112, R114, R115). -/
theorem Line.Sound.rests {l : Line} (h : l.Sound) (moves : l.state.moves = false)
    (hauls : l.state.isHauling = false) (slips : l.state ≠ .slipping) : l.Rests := by
  have empty : ∀ {α : Type} {o : Option α} {P : Prop}, (o.isSome = true → P) → ¬ P → o = none :=
    fun {α o P} some no => Option.not_isSome_iff_eq_none.mp fun c => no (some c)
  exact ⟨empty h.run (by simp [moves]), empty h.stall (by simp [moves]), empty h.haul (by simp [hauls]),
    empty h.slip slips⟩

/-! ### The part after host activity and the use of the latch -/

/-- The state of line `n` before the effect of its order. -/
theorem state_beforeEffect_taken (k : OrderKind) (t : Tag) (arg : Nat) (s : State) :
    ((beforeEffect n k t arg (taken n k s)).line n).state = (s.line n).state := by
  rw [line_beforeEffect_taken]
  rfl

/-- The berth after a pass that leaves its line fitted and not PARKED. -/
theorem passOrder_berth_taken {k : OrderKind} {t : Tag} {arg : Nat} {s : State} {l : Line}
    (own : (passOrder n k t arg (taken n k s)).line n = l) (fitted : l.fitted = true)
    (out : l.state ≠ .parked) : (passOrder n k t arg (taken n k s)).berth = (hostActivity s).berth := by
  rw [(Kept.passOrder_own n k t arg _).line] at own
  exact passOrder_berth (by rw [own, fitted]) (by rw [own]; exact out)

/-! ### Orders that take their line into another state -/

/-- An order that passes and takes its line into state `st`. -/
theorem exec_enters {i : Instr} {k : OrderKind} {t : Tag} {o : Origin} {s : State} {st : LineState} (arg : Nat)
    (carries : Carries i n k t o) (takes : s.takesWords) (fitted : (s.line n).fitted = true)
    (new : (s.line n).lastHost.order ≠ some (t, k))
    (free : s.profile.source = .loaded ∨ k.needsLoaded = false)
    (phase : phaseAllows k s.berth.phase = true)
    (pass : stateAllows k s.berth.phase (s.line n).stowed (s.line n).state = .pass)
    (complete : completeOrder n k t o (s.line n).latch false (taken n k s) = passOrder n k t arg (taken n k s))
    (other : st ≠ (s.line n).state) (kind : k ≠ .rewind)
    (effect : ∀ u, applyEffect n k arg u = enterState n st u) :
    exec i s = .next (arbitrate (passOrder n k t arg (taken n k s))) ∧
      PassedOrder s (passOrder n k t arg (taken n k s)) n k t arg ∧
      (passOrder n k t arg (taken n k s)).line n =
        Line.enter s.image s.ticksFor st ((s.line n).passed k t (s.entry n)) := by
  obtain ⟨passed, own⟩ := passed_enterState (t := t) kind other (effect _)
  exact ⟨exec_pass arg carries takes fitted new free phase pass complete, passed, own⟩

/-- A HAUL or EASE with a fresh argument in its range passes (R44). -/
theorem completeOrder_argument {k : OrderKind} {t : Tag} {o : Origin} {s : State} {x : Latch}
    (kind : k = .haul ∨ k = .ease) (latch : (s.line n).latch = some x)
    (fresh : x.age ≤ argumentFreshness s.image) (range : argumentInRange (taken n k s) n k x.value = true) :
    completeOrder n k t o (s.line n).latch false (taken n k s) = passOrder n k t x.value (taken n k s) := by
  have value : freshValue (taken n k s) (s.line n).latch = some x.value :=
    freshValue_of (s := taken n k s) latch fresh
  rcases kind with rfl | rfl <;> unfold completeOrder <;> rw [value] <;> exact if_pos range

/-- Settles O23: HAUL takes its line to HAULING. -/
theorem haulPasses : Obligations.HaulPasses := by
  unfold Obligations.HaulPasses
  intro i n t o s x carries takes fitted new loaded phase state latch fresh low high
  have phase' : phaseAllows .haul s.berth.phase = true := by rcases phase with h | h <;> rw [h] <;> rfl
  have pass : stateAllows .haul s.berth.phase (s.line n).stowed (s.line n).state = .pass := by
    rcases state with ⟨v, h⟩ | h | h | h <;> rw [h] <;> rfl
  have other : LineState.hauling x.value ≠ (s.line n).state := by
    rcases state with ⟨v, h⟩ | h | h | h <;> simp [h]
  have idle : (s.line n).state.isHauling = false := by rcases state with ⟨v, h⟩ | h | h | h <;> rw [h] <;> rfl
  have range : argumentInRange (taken n .haul s) n .haul x.value = true := by
    change within (bandMin s.image n) (bandMax s.image n) x.value = true
    simp [within, low, high]
  obtain ⟨run, passed, own⟩ := exec_enters (st := .hauling x.value) x.value carries takes fitted new (.inl loaded)
    phase' pass (completeOrder_argument (.inl rfl) latch fresh range) other (by simp) (fun u => rfl)
  refine ⟨_, run, passed, passOrder_berth_taken own fitted (by simp [Line.enter]), ?_⟩
  rw [own]
  refine ⟨rfl, ?_, rfl, rfl, rfl⟩
  change (if (s.line n).state.isHauling = true then _ else _) = _
  rw [if_neg (by simp [idle])]

/-- Settles O24: TEND takes its line to TENDING. -/
theorem tendPasses : Obligations.TendPasses := by
  unfold Obligations.TendPasses
  intro i n t o s carries takes fitted new loaded phase state
  have phase' : phaseAllows .tend s.berth.phase = true := by rw [phase]; rfl
  have pass : stateAllows .tend s.berth.phase (s.line n).stowed (s.line n).state = .pass := by
    rcases state with ⟨v, h⟩ | h <;> rw [h] <;> rfl
  have other : LineState.tending ≠ (s.line n).state := by rcases state with ⟨v, h⟩ | h <;> simp [h]
  obtain ⟨run, passed, own⟩ := exec_enters (st := .tending) 0 carries takes fitted new (.inl loaded) phase' pass rfl
    other (by simp) (fun u => rfl)
  refine ⟨_, run, passed, passOrder_berth_taken own fitted (by simp [Line.enter]), ?_⟩
  rw [own]
  exact ⟨rfl, Line.rests_enter rfl rfl (by simp) _ _ _⟩

/-- The berth changes by what the phase was, and by nothing else of the part before. -/
theorem VacatesBy.of_phase {s s' u : State} {b : Berth} (h : VacatesBy s' u b)
    (phase : s'.berth.phase = s.berth.phase) : VacatesBy s u b := by
  unfold VacatesBy at h ⊢
  rwa [phase] at h

/-- The berth after a pass that changes its line's state (R5, R127). -/
theorem vacatesBy_passOrder {k : OrderKind} {t : Tag} {arg : Nat} {s : State}
    (other : ((passOrder n k t arg (taken n k s)).line n).state ≠ (s.line n).state) :
    VacatesBy s (passOrder n k t arg (taken n k s)) (hostActivity s).berth := by
  have changed : ((applyEffect n k arg (beforeEffect n k t arg (taken n k s))).line n).state ≠
      ((beforeEffect n k t arg (taken n k s)).line n).state := by
    rw [← (Kept.passOrder_own n k t arg (taken n k s)).line, state_beforeEffect_taken]
    exact other
  have berth : (applyEffect n k arg (beforeEffect n k t arg (taken n k s))).berth = (hostActivity s).berth := by
    rw [applyEffect_berth, beforeEffect_berth]
    rfl
  rw [passOrder_eq, if_neg changed]
  have vacates := vacatesBy_settle n (applyEffect n k arg (beforeEffect n k t arg (taken n k s)))
  rw [berth] at vacates
  exact vacates.of_phase (by rw [berth]; rfl)

/-- Settles O26: PARK takes its line to PARKED. -/
theorem parkPasses : Obligations.ParkPasses := by
  unfold Obligations.ParkPasses
  intro i n t o s carries takes fitted new phase state count stow
  have phase' : phaseAllows .park s.berth.phase = true := by rcases phase with h | h | h <;> rw [h] <;> rfl
  have stowed : (s.line n).stowed = true := by simp [Line.stowed, count, stow]
  have pass : stateAllows .park s.berth.phase (s.line n).stowed (s.line n).state = .pass := by
    rw [stowed]
    rcases state with h | h <;> rw [h] <;> rfl
  have other : LineState.parked ≠ (s.line n).state := by rcases state with h | h <;> simp [h]
  obtain ⟨run, passed, own⟩ := exec_enters (st := .parked) 0 carries takes fitted new (.inr rfl) phase' pass rfl
    other (by simp) (fun u => rfl)
  refine ⟨_, run, passed, ?_, ?_, ?_, vacatesBy_passOrder (by rw [own]; exact other)⟩
  · rw [own]
    rfl
  · rw [own]
    exact Line.rests_enter rfl rfl (by simp) _ _ _
  · rw [own]
    rfl

/-! ### EASE -/

/-- The line that an EASE has set PAYING, its run counter and stall timer loaded (R51, R112, R114). -/
def Line.paysOut (img : List Word) (f : Nat → Nat) (v : Nat) (l : Line) : Line :=
  { Line.enter img f (.paying v) l with run := some ⟨v, v⟩, stall := some (f (stallTime img)) }

theorem line_easeEffect (t : Tag) (v : Nat) (s : State) :
    (applyEffect n .ease v (beforeEffect n .ease t v (taken n .ease s))).line n =
      Line.paysOut s.image s.ticksFor v ((s.line n).passed .ease t (s.entry n)) := by
  have enter := enterState_beforeEffect n .ease t v s (.paying v)
  have image : (beforeEffect n .ease t v (taken n .ease s)).image = s.image := beforeEffect_image _ _ _ _ _
  have ticks : ∀ ms, (beforeEffect n .ease t v (taken n .ease s)).ticksFor ms = s.ticksFor ms :=
    fun ms => beforeEffect_ticksFor _ _ _ _ ms _
  change (loadRun n v (enterState n (.paying v) _)).line n = _
  unfold loadRun
  rw [line_modLine_self, enter]
  change ({ Line.enter _ _ _ _ with
    run := _, stall := some ((beforeEffect n .ease t v (taken n .ease s)).ticksFor
      (stallTime (beforeEffect n .ease t v (taken n .ease s)).image)) } : Line) = _
  rw [image, ticks]
  rfl

/-- Settles O25: EASE takes its line to PAYING. -/
theorem easePasses : Obligations.EasePasses := by
  unfold Obligations.EasePasses
  intro i n t o s x carries takes fitted new loaded phase state latch fresh low high length known
  have phase' : phaseAllows .ease s.berth.phase = true := by rcases phase with h | h <;> rw [h] <;> rfl
  have pass : stateAllows .ease s.berth.phase (s.line n).stowed (s.line n).state = .pass := by
    rcases state with ⟨h, p⟩ | h | h | h
    · rw [h, p]
      rfl
    all_goals
      rw [h]
      rfl
  have other : LineState.paying x.value ≠ (s.line n).state := by
    rcases state with ⟨h, -⟩ | h | h | h <;> simp [h]
  have range : argumentInRange (taken n .ease s) n .ease x.value = true := by
    have payout : ((taken n .ease s).line n).payout = (s.line n).payout := by simp [taken]
    have unknown : ((taken n .ease s).line n).lengthUnknown = false := by simp [taken, known]
    have image : (taken n .ease s).image = s.image := rfl
    simp [argumentInRange, within, payout, unknown, image, low, high, length]
  have own := line_easeEffect (n := n) t x.value s
  have drum : TakenIn s (s.line n) (Line.enter s.image s.ticksFor (.paying x.value)
      ((s.line n).passed .ease t (s.entry n))) := .enter other rfl rfl
  have passed : PassedOrder s (passOrder n .ease t x.value (taken n .ease s)) n .ease t x.value := by
    refine passedOrder_passOrder rfl own rfl rfl rfl rfl ?_ (drum.congr rfl rfl rfl) ?_
    · exact ⟨⟨rfl, rfl, rfl⟩, ⟨rfl, rfl, rfl, rfl, rfl⟩, ⟨rfl, rfl⟩, ⟨rfl, rfl, rfl⟩, rfl⟩
    · rw [applyEffect_bus (by simp)]
      exact pair_beforeEffect n .ease t x.value _
  rw [← (Kept.passOrder_own n .ease t x.value _).line] at own
  refine ⟨_, exec_pass x.value carries takes fitted new (.inl loaded) phase' pass
    (completeOrder_argument (.inr rfl) latch fresh range), passed,
    passOrder_berth_taken own fitted (by simp [Line.paysOut, Line.enter]), ?_⟩
  rw [own]
  exact ⟨rfl, rfl, rfl, rfl, rfl⟩

/-! ### LOCK -/

/-- The states a LOCK gives or keeps are none of those with a timer (R48, R112 to R115). -/
theorem lockState_atRest {st : LineState} (h : ∀ r x, st ≠ .rendering r x) (c : Classification) :
    (lockState st c).moves = false ∧ (lockState st c).isHauling = false ∧ lockState st c ≠ .slipping := by
  have rest : (restState c).moves = false ∧ (restState c).isHauling = false ∧ restState c ≠ .slipping := by
    cases c <;> decide
  cases st with
  | rendering r x => exact absurd rfl (h r x)
  | slipping =>
    unfold lockState
    dsimp only
    split
    · decide
    · exact rest
  | paying _ | hauling _ | tending | locked | standing => exact rest
  | rewinding | slack | adopting | parked | faulted _ => exact ⟨rfl, rfl, by simp [lockState]⟩

/-- A LOCK gives PARKED to no line that was not PARKED. -/
theorem lockState_ne_parked {st : LineState} (h : st ≠ .parked) (c : Classification) :
    lockState st c ≠ .parked := by
  have rest : restState c ≠ .parked := by cases c <;> decide
  cases st with
  | parked => exact absurd rfl h
  | slipping =>
    unfold lockState
    dsimp only
    split
    · decide
    · exact rest
  | paying _ | hauling _ | tending | locked | standing => exact rest
  | rewinding | slack | adopting | rendering _ _ | faulted _ => simp [lockState]

/-- What a LOCK makes of its line: the state of the effect table, no timer left running. -/
theorem passOrder_lock {t : Tag} {s : State} (sound : (s.line n).Sound)
    (still : ∀ r x, (s.line n).state ≠ .rendering r x) :
    PassedOrder s (passOrder n .lock t 0 (taken n .lock s)) n .lock t 0 ∧
      ∃ l, (passOrder n .lock t 0 (taken n .lock s)).line n = l ∧ l.fitted = (s.line n).fitted ∧ l.Rests ∧
        l.state = lockState (s.line n).state (s.line n).cls := by
  obtain ⟨moves, hauls, slips⟩ := lockState_atRest still (s.line n).cls
  have line := line_beforeEffect_taken n .lock t 0 s
  by_cases same : lockState (s.line n).state (s.line n).cls = (s.line n).state
  · have effect : applyEffect n .lock 0 (beforeEffect n .lock t 0 (taken n .lock s)) =
        beforeEffect n .lock t 0 (taken n .lock s) := by
      change lockEffect n _ = _
      unfold lockEffect
      rw [line]
      exact if_pos same
    have own : (applyEffect n .lock 0 (beforeEffect n .lock t 0 (taken n .lock s))).line n =
        (s.line n).passed .lock t (s.entry n) := by rw [effect, line]
    rw [same] at moves hauls slips
    refine ⟨passedOrder_passOrder rfl own rfl rfl rfl rfl ?_ (.of_kept rfl rfl rfl) ?_,
      _, (Kept.passOrder_own n .lock t 0 _).line.trans own, rfl, sound.rests moves hauls slips, same.symm⟩
    · exact ⟨⟨rfl, rfl, rfl⟩, ⟨rfl, rfl, rfl, rfl, rfl⟩, ⟨rfl, rfl⟩, ⟨rfl, rfl, rfl⟩, rfl⟩
    · rw [effect]
      exact pair_beforeEffect n .lock t 0 _
  · have effect : applyEffect n .lock 0 (beforeEffect n .lock t 0 (taken n .lock s)) =
        enterState n (lockState (s.line n).state (s.line n).cls) (beforeEffect n .lock t 0 (taken n .lock s)) := by
      change lockEffect n _ = _
      unfold lockEffect
      rw [line]
      exact if_neg same
    obtain ⟨passed, own⟩ := passed_enterState (t := t) (by simp) same effect
    exact ⟨passed, _, own, rfl, Line.rests_enter moves hauls slips _ _ _, rfl⟩

/-- Settles O22: LOCK in the states that allow it. -/
theorem lockPasses : Obligations.LockPasses := by
  unfold Obligations.LockPasses
  intro i n t o s carries takes sound fitted new adopted parked still
  have phase : phaseAllows .lock s.berth.phase = true := by simp [phaseAllows, takes.2.2]
  have pass : stateAllows .lock s.berth.phase (s.line n).stowed (s.line n).state = .pass := by
    cases state : (s.line n).state with
    | adopting => exact absurd state adopted
    | parked => exact absurd state parked
    | rendering r x => exact absurd state (still r x)
    | paying _ | standing | hauling _ | locked | tending | slipping | slack | rewinding | faulted _ => rfl
  obtain ⟨passed, l, own, fitted', rests, state⟩ := passOrder_lock (t := t) sound still
  have out : l.state ≠ .parked := by
    rw [state]
    exact lockState_ne_parked parked _
  refine ⟨_, exec_pass 0 carries takes fitted new (.inr rfl) phase pass rfl, passed,
    passOrder_berth_taken own (fitted'.trans fitted) out, ?_⟩
  rw [own, state]
  refine ⟨rests, ?_⟩
  cases state : (s.line n).state with
  | adopting => exact absurd state adopted
  | parked => exact absurd state parked
  | rendering r x => exact absurd state (still r x)
  | rewinding | slack | faulted _ => rfl
  | slipping => cases (s.line n).cls <;> simp [lockState, restState]
  | paying _ | standing | hauling _ | locked | tending => cases (s.line n).cls <;> simp [lockState, restState]

end Sys2Proof.Machine
end

section
/-! SUPPORT. REWIND and RESTATE: what a rewind begun makes of its line (R53, R113; log 20), and derivation
(R204). -/

namespace Sys2Proof.Machine

variable {n : LineId}

/-! ### A rewind begun -/

/-- A rewound line with its stow switch made, PARKED by a PARK of the part's own (R22). -/
def Line.home (img : List Word) (f : Nat → Nat) (l : Line) : Line :=
  { Line.enter img f .parked (Line.enter img f .rewinding l) with lastPart := some ⟨.park, .runComplete⟩ }

/-- A rewound line without it, FAULTED (R22). -/
def Line.away (img : List Word) (f : Nat → Nat) (l : Line) : Line :=
  { Line.enter img f (.faulted .stowMismatch) (Line.enter img f .rewinding l) with
    notice := true, lastPart := some ⟨.lock, .stowMismatch⟩ }

/-- A line rewinding with a run of its payout count, or of unknown length (R53, R112, R114). -/
def Line.rewinds (img : List Word) (f : Nat → Nat) (l : Line) : Line :=
  { Line.enter img f .rewinding l with
    run := if l.lengthUnknown then l.run else some ⟨l.payout, l.payout⟩
    stall := some (f (stallTime img)) }

theorem enterState_line (st : LineState) (s : State) :
    (enterState n st s).line n = Line.enter s.image s.ticksFor st (s.line n) := line_modLine_self n _ s

theorem rewindEffect_eq (s : State) : rewindEffect n s =
    if (s.line n).lengthUnknown then loadStall n (enterState n .rewinding s)
    else if (s.line n).payout = 0 then rewindComplete n (enterState n .rewinding s)
    else loadRun n (s.line n).payout (enterState n .rewinding s) := by
  unfold rewindEffect
  dsimp only
  rw [enterState_line]
  rfl

/-- A rewind with a length to run, or of unknown length. -/
theorem rewindEffect_runs {s : State} (h : (s.line n).lengthUnknown = true ∨ (s.line n).payout ≠ 0) :
    (rewindEffect n s).line n = Line.rewinds s.image s.ticksFor (s.line n) ∧ (rewindEffect n s).bus = s.bus := by
  have line := enterState_line (n := n) .rewinding s
  rw [rewindEffect_eq]
  cases unknown : (s.line n).lengthUnknown with
  | true =>
    rw [if_pos rfl]
    unfold loadStall
    refine ⟨?_, rfl⟩
    rw [line_modLine_self, line]
    unfold Line.rewinds
    rw [unknown]
    rfl
  | false =>
    have run : (s.line n).payout ≠ 0 := h.resolve_left (by simp [unknown])
    rw [if_neg (by simp), if_neg run]
    unfold loadRun
    refine ⟨?_, rfl⟩
    rw [line_modLine_self, line]
    unfold Line.rewinds
    rw [unknown]
    rfl

theorem rewindEffect_zero {s : State} (known : (s.line n).lengthUnknown = false) (zero : (s.line n).payout = 0) :
    rewindEffect n s = rewindComplete n (enterState n .rewinding s) := by
  rw [rewindEffect_eq, if_neg (by simp [known]), if_pos zero]

theorem stowComing_congr {s t : State} (h : t.pending = s.pending) : t.stowComing n = s.stowComing n := by
  unfold State.stowComing
  rw [h]

/-- A run complete at the end of a rewind, the stow switch made or about to be (R22; log 27). -/
theorem rewindComplete_home {s : State} (h : ((s.line n).stowMade || s.stowComing n) = true) :
    rewindComplete n s = partOrder n .park .runComplete (enterState n .parked s) := if_pos h

theorem rewindComplete_away {s : State} (h : ((s.line n).stowMade || s.stowComing n) = false) :
    rewindComplete n s = faultEntry n .stowMismatch (some .stowMismatch) s := if_neg (by simp [h])

/-- A rewind of count 0 that finds its line stowed. -/
theorem rewindEffect_home {s : State} (known : (s.line n).lengthUnknown = false) (zero : (s.line n).payout = 0)
    (stow : ((s.line n).stowMade || s.stowComing n) = true) :
    (rewindEffect n s).line n = Line.home s.image s.ticksFor (s.line n) ∧
      makePair n .park 0 0 ∈ (rewindEffect n s).bus.orderLane := by
  have line := enterState_line (n := n) .rewinding s
  have stow' : (((enterState n .rewinding s).line n).stowMade || (enterState n .rewinding s).stowComing n) = true := by
    rw [line, stowComing_congr (enterState_pending n .rewinding s)]
    exact stow
  rw [rewindEffect_zero known zero, rewindComplete_home stow']
  refine ⟨?_, pair_partOrder .park .runComplete _⟩
  rw [partOrder_line (by simp), enterState_line, line]
  rfl

/-- A rewind of count 0 that finds it not stowed. -/
theorem rewindEffect_away {s : State} (known : (s.line n).lengthUnknown = false) (zero : (s.line n).payout = 0)
    (stow : ((s.line n).stowMade || s.stowComing n) = false) :
    (rewindEffect n s).line n = Line.away s.image s.ticksFor (s.line n) ∧
      makePair n .lock 0 0 ∈ (rewindEffect n s).bus.orderLane := by
  have line := enterState_line (n := n) .rewinding s
  have stow' : (((enterState n .rewinding s).line n).stowMade || (enterState n .rewinding s).stowComing n) = false := by
    rw [line, stowComing_congr (enterState_pending n .rewinding s)]
    exact stow
  rw [rewindEffect_zero known zero, rewindComplete_away stow']
  refine ⟨?_, pair_faultEntry _ _ _⟩
  rw [faultEntry_line, line]
  rfl

/-! ### What a rewind begun keeps -/

theorem Line.KeptByOrder.rewinds {l k : Line} (h : l.KeptByOrder k) (img : List Word) (f : Nat → Nat) :
    l.KeptByOrder (k.rewinds img f) := ⟨h.flags, h.record, h.counts, h.inputs, h.seq⟩

theorem Line.KeptByOrder.home {l k : Line} (h : l.KeptByOrder k) (img : List Word) (f : Nat → Nat) :
    l.KeptByOrder (k.home img f) := ⟨h.flags, h.record, h.counts, h.inputs, h.seq⟩

theorem Line.KeptByOrder.away {l k : Line} (h : l.KeptByOrder k) (img : List Word) (f : Nat → Nat) :
    l.KeptByOrder (k.away img f) := ⟨h.flags, h.record, h.counts, h.inputs, h.seq⟩

theorem Line.KeptByOrder.passed (k : OrderKind) (t : Tag) (e : Option Entry) (l : Line) :
    l.KeptByOrder (l.passed k t e) :=
  ⟨⟨rfl, rfl, rfl⟩, ⟨rfl, rfl, rfl, rfl, rfl⟩, ⟨rfl, rfl⟩, ⟨rfl, rfl, rfl⟩, rfl⟩

/-- Drum supervision at the start of a rewind, and at its immediate end. -/
theorem TakenIn.rewinds {s : State} {l k : Line} (other : l.state ≠ .rewinding) (brake : k.brakeSet = l.brakeSet)
    (creep : k.creep = l.creep) : TakenIn s l (k.rewinds s.image s.ticksFor) :=
  (TakenIn.enter (st := .rewinding) other.symm brake creep).congr rfl rfl rfl

theorem TakenIn.home {s : State} {l k : Line} (other : l.state ≠ .parked) (brake : k.brakeSet = l.brakeSet)
    (creep : k.creep = l.creep) : TakenIn s l (k.home s.image s.ticksFor) :=
  (TakenIn.enter (k := Line.enter s.image s.ticksFor .rewinding k) (st := .parked) other.symm brake creep).congr
    rfl rfl rfl

theorem TakenIn.away {s : State} {l k : Line} (other : l.state ≠ .faulted .stowMismatch)
    (brake : k.brakeSet = l.brakeSet) (creep : k.creep = l.creep) : TakenIn s l (k.away s.image s.ticksFor) :=
  (TakenIn.enter (k := Line.enter s.image s.ticksFor .rewinding k) (st := .faulted .stowMismatch) other.symm brake
    creep).congr rfl rfl rfl

theorem Line.rests_home (img : List Word) (f : Nat → Nat) (l : Line) : (l.home img f).Rests :=
  Line.rests_enter (st := .parked) rfl rfl (by simp) img f (Line.enter img f .rewinding l)

theorem Line.rests_away (img : List Word) (f : Nat → Nat) (l : Line) : (l.away img f).Rests :=
  Line.rests_enter (st := .faulted .stowMismatch) rfl rfl (by simp) img f (Line.enter img f .rewinding l)

/-! ### REWIND that passes -/

theorem stow_iff (s : State) : ((s.line n).stowMade || s.stowComing n) = true ↔
    (s.line n).stowMade = true ∨ s.StowComes n := by
  rw [Bool.or_eq_true, stowComing_iff]

/-- The part before a REWIND takes effect: image, ticks, line and stow are those of `s`. -/
theorem beforeRewind (t : Tag) (s : State) :
    (beforeEffect n .rewind t 0 (taken n .rewind s)).image = s.image ∧
      (beforeEffect n .rewind t 0 (taken n .rewind s)).ticksFor = s.ticksFor ∧
      (beforeEffect n .rewind t 0 (taken n .rewind s)).line n = (s.line n).passed .rewind t (s.entry n) ∧
      (beforeEffect n .rewind t 0 (taken n .rewind s)).stowComing n = s.stowComing n := by
  refine ⟨beforeEffect_image _ _ _ _ _, ?_, line_beforeEffect_taken _ _ _ _ _, stowComing_congr ?_⟩
  · funext ms
    exact beforeEffect_ticksFor _ _ _ _ ms _
  · unfold beforeEffect
    simp [taken, hostActivity, modLine]

/-- What a REWIND that passes leaves, from what its effect makes of the line. -/
theorem rewind_leaves {t : Tag} {s : State} {l : Line}
    (own : (applyEffect n .rewind 0 (beforeEffect n .rewind t 0 (taken n .rewind s))).line n = l)
    (other : l.state ≠ (s.line n).state)
    (verdict : l.lastHost = ⟨some (t, .rewind), some .passed, (s.entry n).map (·.tag)⟩)
    (kept : (s.line n).KeptByOrder l) (drum : TakenIn s (s.line n) l) :
    (passOrder n .rewind t 0 (taken n .rewind s)).line n = l ∧
      ((passOrder n .rewind t 0 (taken n .rewind s)).line n).lastHost =
        ⟨some (t, .rewind), some .passed, (s.entry n).map (·.tag)⟩ ∧
      (passOrder n .rewind t 0 (taken n .rewind s)).entry n = none ∧
      (s.line n).KeptByOrder ((passOrder n .rewind t 0 (taken n .rewind s)).line n) ∧
      TakenIn s (s.line n) ((passOrder n .rewind t 0 (taken n .rewind s)).line n) ∧
      (∀ m, m ≠ n → s.entry m = none →
        (passOrder n .rewind t 0 (taken n .rewind s)).line m = s.line m) ∧
      VacatesBy s (passOrder n .rewind t 0 (taken n .rewind s)) (hostActivity s).berth := by
  have keeps := Kept.passOrder_own n .rewind t 0 (taken n .rewind s)
  have line := keeps.line.trans own
  rw [line]
  refine ⟨rfl, verdict, ?_, kept, drum, fun m hm alone => ?_, vacatesBy_passOrder (by rw [line]; exact other)⟩
  · rw [keeps.entry, entry_congr (applyEffect_queue _ _ _ _)]
    exact entry_beforeEffect n .rewind t 0 _
  · rw [(Kept.passOrder_other hm (s := taken n .rewind s) alone .rewind t 0).line]
    unfold taken
    rw [line_modLine, if_neg hm, hostActivity_line]

/-- Settles O27: a REWIND that passes, by the length it has to run and the stow switch. -/
theorem rewindPasses : Obligations.RewindPasses := by
  unfold Obligations.RewindPasses
  intro i n t o s carries takes sound fitted new allowed
  have phase : phaseAllows .rewind s.berth.phase = true := by
    rcases allowed with ⟨-, h | h⟩ | ⟨-, h | h | h⟩ <;> rw [h] <;> rfl
  have pass : stateAllows .rewind s.berth.phase (s.line n).stowed (s.line n).state = .pass := by
    rcases allowed with ⟨h, p | p⟩ | ⟨h, -⟩
    · rw [h, p]
      rfl
    · rw [h, p]
      rfl
    · rw [h]
      rfl
  have state : (s.line n).state = .standing ∨ (s.line n).state = .slack :=
    allowed.imp (fun h => h.1) fun h => h.1
  have other : ∀ st, st ≠ .standing → st ≠ .slack → st ≠ (s.line n).state := fun st h h' same =>
    state.elim (fun e => h (same.trans e)) fun e => h' (same.trans e)
  have rests : (s.line n).Rests := by
    apply sound.rests <;> rcases state with h | h <;> simp [h, LineState.moves, LineState.isHauling]
  obtain ⟨image, ticks, line, coming⟩ := beforeRewind (n := n) t s
  have pair := Kept.passOrder_own n .rewind t 0 (taken n .rewind s)
  have kept := Line.KeptByOrder.passed .rewind t (s.entry n) (s.line n)
  refine ⟨_, exec_pass 0 carries takes fitted new (.inr rfl) phase pass rfl, ?_⟩
  by_cases runs : (s.line n).lengthUnknown = true ∨ (s.line n).payout ≠ 0
  · obtain ⟨own, bus⟩ := rewindEffect_runs (n := n) (s := beforeEffect n .rewind t 0 (taken n .rewind s))
      (by rw [line]; exact runs)
    rw [image, ticks, line] at own
    have drum := TakenIn.rewinds (s := s) (k := (s.line n).passed .rewind t (s.entry n))
      (other .rewinding (by simp) (by simp)).symm rfl rfl
    obtain ⟨final, verdict, entry, kept', drum', others, vacates⟩ :=
      rewind_leaves own (other .rewinding (by simp) (by simp)) rfl (kept.rewinds _ _) drum
    refine ⟨verdict, entry, kept', drum', others, vacates, fun _ => ⟨?_, ?_, ?_, ?_, ?_⟩,
      fun known zero => absurd runs (by simp [known, zero]), fun known zero => absurd runs (by simp [known, zero])⟩
    · refine passedOrder_passOrder rfl own rfl rfl rfl rfl (kept.rewinds _ _) drum ?_
      change _ ∈ (rewindEffect n _).bus.orderLane
      rw [bus]
      exact pair_beforeEffect n .rewind t 0 _
    · exact passOrder_berth_taken final fitted (by simp [Line.rewinds, Line.enter])
    · rw [final]
      rfl
    · rw [final]
      rfl
    · rw [final]
      unfold Line.rewinds Line.passed
      dsimp only
      rw [rests.1]
  · obtain ⟨known, zero⟩ := not_or.mp runs
    rw [Bool.not_eq_true] at known
    rw [not_not] at zero
    by_cases stow : ((s.line n).stowMade || s.stowComing n) = true
    · obtain ⟨own, park⟩ := rewindEffect_home (n := n) (s := beforeEffect n .rewind t 0 (taken n .rewind s))
        (by rw [line]; exact known) (by rw [line]; exact zero) (by rw [line, coming]; exact stow)
      rw [image, ticks, line] at own
      obtain ⟨final, verdict, entry, kept', drum', others, vacates⟩ :=
        rewind_leaves own (other .parked (by simp) (by simp)) rfl (kept.home _ _)
          (.home (other .parked (by simp) (by simp)).symm rfl rfl)
      refine ⟨verdict, entry, kept', drum', others, vacates, fun h => absurd h runs, fun _ _ _ => ?_,
        fun _ _ lost gone => ?_⟩
      · rw [final]
        exact ⟨rfl, rfl, Line.rests_home _ _ _, pair.pair rfl park⟩
      · exact absurd ((stow_iff s).mp stow) (by simp [lost, gone])
    · rw [Bool.not_eq_true] at stow
      obtain ⟨own, lock⟩ := rewindEffect_away (n := n) (s := beforeEffect n .rewind t 0 (taken n .rewind s))
        (by rw [line]; exact known) (by rw [line]; exact zero) (by rw [line, coming]; exact stow)
      rw [image, ticks, line] at own
      obtain ⟨final, verdict, entry, kept', drum', others, vacates⟩ :=
        rewind_leaves own (other (.faulted .stowMismatch) (by simp) (by simp)) rfl (kept.away _ _)
          (.away (other (.faulted .stowMismatch) (by simp) (by simp)).symm rfl rfl)
      refine ⟨verdict, entry, kept', drum', others, vacates, fun h => absurd h runs, fun _ _ made => ?_,
        fun _ _ _ _ => ?_⟩
      · exact absurd ((stow_iff s).mpr made) (by simp [stow])
      · rw [final]
        exact ⟨rfl, rfl, Line.rests_away _ _ _, rfl, pair.pair rfl lock⟩

/-! ### Derivation -/

/-- A line as derivation leaves it (R204): the LOCK for a released brake noted, the count of a stowed line 0,
the derived state entered. -/
def Line.derived (img : List Word) (f : Nat → Nat) (l : Line) : Line :=
  Line.enter img f (derivedState l) { l with
    lastPart := if l.brakeSet then l.lastPart else some ⟨.lock, .derivation⟩
    payout := if l.stowMade then 0 else l.payout }

/-- The LOCK of a derivation, where the brake is released (R204 step 1). -/
def derivationLock (n : LineId) (s : State) : State :=
  if (s.line n).brakeSet then s else partOrder n .lock .derivation s

theorem line_derivationLock (s : State) : (derivationLock n s).line n = { s.line n with
    lastPart := if (s.line n).brakeSet then (s.line n).lastPart else some ⟨.lock, .derivation⟩ } := by
  unfold derivationLock
  split
  · rfl
  · rw [partOrder_line (by simp)]

theorem derivationLock_image (s : State) : (derivationLock n s).image = s.image := by
  unfold derivationLock
  split <;> simp

theorem derivationLock_ticksFor (s : State) : (derivationLock n s).ticksFor = s.ticksFor := by
  funext ms
  unfold derivationLock State.ticksFor
  split <;> simp

/-- The count of a line found stowed is 0 (R204 step 4). -/
def countStowed (n : LineId) (s : State) : State :=
  if (s.line n).stowMade then modLine n (fun l => { l with payout := 0 }) s else s

theorem line_countStowed (s : State) : (countStowed n s).line n = { s.line n with
    payout := if (s.line n).stowMade then 0 else (s.line n).payout } := by
  unfold countStowed
  split
  · rw [line_modLine_self]
  · rfl

theorem deriveLine_eq (s : State) : deriveLine n s =
    enterState n (derivedState ((countStowed n (derivationLock n s)).line n))
      (countStowed n (derivationLock n s)) := rfl

theorem countStowed_fields (s : State) : (countStowed n s).image = s.image ∧
    (countStowed n s).ticksFor = s.ticksFor ∧ (countStowed n s).bus = s.bus := by
  unfold countStowed
  split <;> exact ⟨rfl, rfl, rfl⟩

theorem line_deriveLine (s : State) :
    (deriveLine n s).line n = Line.derived s.image s.ticksFor (s.line n) := by
  obtain ⟨image, ticks, -⟩ := countStowed_fields (n := n) (derivationLock n s)
  rw [deriveLine_eq, enterState_line, image, ticks, derivationLock_image, derivationLock_ticksFor, line_countStowed,
    line_derivationLock]
  rfl

theorem deriveLine_bus (s : State) : (deriveLine n s).bus = (derivationLock n s).bus :=
  (countStowed_fields (derivationLock n s)).2.2

/-- A derivation with the brake set places no pair. -/
theorem deriveLine_bus_of_set {s : State} (h : (s.line n).brakeSet = true) : (deriveLine n s).bus = s.bus := by
  rw [deriveLine_bus]
  exact congrArg State.bus (if_pos h)

/-- A derivation with the brake released places a LOCK. -/
theorem pair_deriveLine {s : State} (h : (s.line n).brakeSet = false) :
    makePair n .lock 0 0 ∈ (deriveLine n s).bus.orderLane := by
  rw [deriveLine_bus]
  unfold derivationLock
  rw [if_neg (by simp [h])]
  exact pair_partOrder .lock .derivation s

theorem Kept.deriveLine {m : LineId} (h : m ≠ n) (s : State) : Kept m s (deriveLine n s) := by
  have lock : Kept m s (derivationLock n s) := by
    unfold derivationLock
    split
    · exact .refl m s
    · exact .partOrder h _ _ s
  have count : ∀ t, Kept m t (countStowed n t) := fun t => by
    unfold countStowed
    split
    · exact .modLine h _ t
    · exact .refl m t
  rw [deriveLine_eq]
  exact (lock.trans (count _)).trans (.enterState h _ _)

/-- What derivation leaves outside the line and the lanes. -/
theorem deriveLine_fields (n : LineId) (s : State) : (deriveLine n s).queue = s.queue ∧
    (deriveLine n s).scan = s.scan ∧ (deriveLine n s).berth = s.berth ∧
    (deriveLine n s).profile = s.profile ∧ (deriveLine n s).report = s.report ∧
    (deriveLine n s).supply = s.supply ∧ (deriveLine n s).atTick = s.atTick := by
  rw [deriveLine_eq]
  unfold countStowed derivationLock
  split <;> split <;> simp

/-- A line that was in another state is taken in by drum supervision in the derived one. -/
theorem TakenIn.derived {s : State} {l k : Line} (other : derivedState k ≠ l.state)
    (brake : k.brakeSet = l.brakeSet) (creep : k.creep = l.creep) :
    TakenIn s l (k.derived s.image s.ticksFor) := .enter other brake creep

/-- The state derivation gives to a line not stowed, by its classification (R204). -/
theorem derivedState_unstowed {l : Line} (h : l.stowMade = false) :
    (l.cls = .inBand ∨ l.cls = .high ∨ l.cls = .over → derivedState l = .locked) ∧
      (l.cls = .slack ∨ l.cls = .low ∨ l.cls = .noClass → derivedState l = .standing) := by
  unfold derivedState
  rw [if_neg (by simp [h])]
  constructor
  · rintro (c | c | c) <;> rw [c] <;> rfl
  · rintro (c | c | c) <;> rw [c] <;> rfl

theorem derivedState_stowed {l : Line} (h : l.stowMade = true) : derivedState l = .parked := if_pos h

/-- Derivation gives PARKED, LOCKED or STANDING. -/
theorem derivedState_cases (l : Line) :
    derivedState l = .parked ∨ derivedState l = .locked ∨ derivedState l = .standing := by
  unfold derivedState restState
  split
  · simp
  · split <;> simp

/-! ### RESTATE -/

/-- The part that has passed a RESTATE, before the derivation (R55). -/
def beforeDerivation (n : LineId) (t : Tag) (s : State) : State :=
  supersede n (recordHost n ⟨some (t, .restate), some .passed, displacedTag s n⟩ s)

theorem passRestate_eq (t : Tag) (s : State) :
    passRestate n t s = settle n (deriveLine n (beforeDerivation n t s)) := rfl

theorem line_beforeDerivation (t : Tag) (s : State) : (beforeDerivation n t (taken n .restate s)).line n =
    (s.line n).passed .restate t (s.entry n) :=
  line_beforeEffect_taken n .restate t 0 s

theorem Kept.beforeDerivation {m : LineId} (h : m ≠ n) (t : Tag) (s : State) :
    Kept m s (beforeDerivation n t s) := (Kept.recordHost h _ s).trans (.supersede h _)

theorem supersede_bare (s : State) : (supersede n s).bus.bare = s.bus.bare := by
  unfold supersede
  split
  · rfl
  · rw [askBerth_bare, setLineNotice_bare]
    rfl

theorem beforeDerivation_fields (n : LineId) (t : Tag) (s : State) :
    (beforeDerivation n t s).entry n = none ∧
    (beforeDerivation n t s).bus.orderLane = s.bus.orderLane ∧ (beforeDerivation n t s).berth = s.berth ∧
    (beforeDerivation n t s).profile = s.profile ∧ (beforeDerivation n t s).supply = s.supply ∧
    (beforeDerivation n t s).report.notices = s.report.notices ∧
    (beforeDerivation n t s).atTick = s.atTick := by
  unfold beforeDerivation
  refine ⟨entry_supersede _, ?_, ?_, ?_, ?_, ?_, ?_⟩
  · rw [Bus.bare_orderLane (supersede_bare _), Bus.bare_orderLane (recordHost_bare _ _ _)]
  all_goals simp

/-- An order that state allowance lets pass goes on to its argument step. -/
theorem exec_allowed {i : Instr} {k : OrderKind} {t : Tag} {o : Origin} {s : State} (carries : Carries i n k t o)
    (takes : s.takesWords) (fitted : (s.line n).fitted = true) (new : (s.line n).lastHost.order ≠ some (t, k))
    (free : s.profile.source = .loaded ∨ k.needsLoaded = false) (phase : phaseAllows k s.berth.phase = true)
    (pass : stateAllows k s.berth.phase (s.line n).stowed (s.line n).state = .pass) :
    exec i s = .next (arbitrate (completeOrder n k t o (s.line n).latch false (taken n k s))) := by
  have run := exec_carries carries takes
  rw [screen_allowed (s := hostActivity s) fitted new free phase, hostActivity_line, hostActivity_phase, pass] at run
  dsimp only at run
  rw [run, useLatch_eq]
  rfl

/-- Settles O30: a RESTATE derives its line. -/
theorem restateDerives : Obligations.RestateDerives := by
  unfold Obligations.RestateDerives
  intro i n t o s r carries takes fitted new state
  have phase : phaseAllows .restate s.berth.phase = true := by simp [phaseAllows, takes.2.2]
  have pass : stateAllows .restate s.berth.phase (s.line n).stowed (s.line n).state = .pass := by rw [state]; rfl
  have run := exec_allowed carries takes fitted new (.inr rfl) phase pass
  change _ = Host.Outcome.next (arbitrate (passRestate n t (taken n .restate s))) at run
  rw [passRestate_eq] at run
  obtain ⟨entry, lane, berth, profile, supply, notices, tick⟩ := beforeDerivation_fields n t (taken n .restate s)
  have passed := line_beforeDerivation (n := n) t s
  have image : (beforeDerivation n t (taken n .restate s)).image = s.image := congrArg Profile.active profile
  have ticks : (beforeDerivation n t (taken n .restate s)).ticksFor = s.ticksFor := by
    funext ms
    unfold State.ticksFor
    rw [tick]
    rfl
  have own := line_deriveLine (n := n) (beforeDerivation n t (taken n .restate s))
  rw [passed, image, ticks] at own
  obtain ⟨queue', -, berth', profile', report', supply', -⟩ :=
    deriveLine_fields n (beforeDerivation n t (taken n .restate s))
  have settled := Kept.settle ((entry_congr queue' n).trans entry) n
  have others : ∀ m, m ≠ n → s.entry m = none →
      (settle n (deriveLine n (beforeDerivation n t (taken n .restate s)))).line m = s.line m := by
    intro m hm alone
    have kept := ((Kept.modLine hm _ (hostActivity s)).trans (Kept.beforeDerivation hm t (taken n .restate s))).trans
      (.deriveLine hm _)
    exact (Kept.settle (kept.entry.trans alone) n).line.trans kept.line
  refine ⟨_, run, ?_⟩
  rw [settled.line, settled.entry, own]
  refine ⟨rfl, (entry_congr queue' n).trans entry, .derived ?_ rfl rfl, fun stowed => ⟨?_, ?_⟩,
    fun lost => ⟨?_, ?_, ?_⟩, fun released => ⟨?_, ?_⟩, fun set => ⟨?_, fun e he => ?_⟩, others, ?_, ?_, ?_, ?_⟩
  · rw [state]
    rcases derivedState_cases ((s.line n).passed .restate t (s.entry n)) with h | h | h <;> simp [h]
  · exact derivedState_stowed (l := (s.line n).passed .restate t (s.entry n)) stowed
  · exact if_pos stowed
  · exact if_neg (show ¬ (s.line n).stowMade = true by simp [lost])
  · exact (derivedState_unstowed (l := (s.line n).passed .restate t (s.entry n)) lost).1
  · exact (derivedState_unstowed (l := (s.line n).passed .restate t (s.entry n)) lost).2
  · exact if_neg (show ¬ (s.line n).brakeSet = true by simp [released])
  · exact settled.pair rfl (pair_deriveLine (by rw [passed]; exact released))
  · exact if_pos set
  · rw [mem_laneOf he, settled.lane, ← mem_laneOf he, deriveLine_bus_of_set (by rw [passed]; exact set), lane]
    rfl
  · have vacates := vacatesBy_settle n (deriveLine n (beforeDerivation n t (taken n .restate s)))
    rw [berth', berth] at vacates
    exact vacates.of_phase (by rw [berth', berth]; rfl)
  · rw [settle_profile, profile', profile]
    rfl
  · rw [settle_supply, supply', supply]
    rfl
  · rw [settle_notices, report', notices]
    rfl

end Sys2Proof.Machine
end

section
/-! SUPPORT. Held orders (R45, R60, R66): the entry an order leaves in the hold queue, and its probe request. -/

namespace Sys2Proof.Machine

variable {n : LineId}

/-! ### Entries after a change of the queue -/

/-- An entry is looked up by its line, which an update in place keeps. -/
theorem find_map_line {f : Entry → Entry} (keeps : ∀ x, (f x).line = x.line) (q : List Entry) :
    (q.map f).find? (fun e => e.line == n) = (q.find? fun e => e.line == n).map f := by
  rw [List.find?_map]
  congr 1
  exact congrArg (List.find? · q) (funext fun x => by simp [keeps])

theorem find_none_iff (q : List Entry) :
    q.find? (fun e => e.line == n) = none ↔ ∀ x ∈ q, x.line ≠ n := by simp

theorem entry_none_iff (s : State) : s.entry n = none ↔ ∀ x ∈ s.queue, x.line ≠ n := find_none_iff s.queue

/-! ### An order placed in the queue -/

/-- Entry `e` of line `n` has been placed with verdict field `h`: in the place of the line's entry, or at the
tail (R45). -/
structure Placed (n : LineId) (e : Entry) (h : LastHost) (s z : State) : Prop where
  line : z.line n = { s.line n with
    lastHost := h, notice := (s.line n).notice || (s.entry n).isSome,
    probeWaiting := (z.line n).probeWaiting }
  queue : z.queue = if (s.entry n).isSome then s.queue.map fun x => if x.line = n then e else x
    else s.queue ++ [e]
  entry : z.entry n = some e
  others : ∀ m, m ≠ n → Kept m s z
  lane : z.bus.orderLane = s.bus.orderLane
  record : n.castSucc ∈ z.bus.reportLane
  berthRecord : s.entry n = none → 12 ∈ z.bus.reportLane
  blocks : z.berth = s.berth ∧ z.profile = s.profile ∧ z.supply = s.supply
  notices : z.report.notices = s.report.notices

theorem entry_putEntry {e old : Entry} {s : State} (h : s.entry e.line = some old) :
    (putEntry e s).entry e.line = some e := by
  have keeps : ∀ x : Entry, (if x.line = e.line then e else x).line = x.line := fun x => by
    split
    · exact (‹x.line = e.line›).symm
    · rfl
  have found : old.line = e.line := entry_line h
  unfold State.entry at h ⊢
  unfold putEntry
  rw [find_map_line keeps, h, Option.map_some, if_pos found]

theorem recordHost_orderLane (h : LastHost) (s : State) :
    (recordHost n h s).bus.orderLane = s.bus.orderLane := Bus.bare_orderLane (recordHost_bare n h s)

theorem setLineNotice_orderLane (s : State) : (setLineNotice n s).bus.orderLane = s.bus.orderLane :=
  Bus.bare_orderLane (setLineNotice_bare n s)

@[simp] theorem recordHost_probeWaiting (m : LineId) (h : LastHost) (s : State) :
    ((recordHost n h s).line m).probeWaiting = (s.line m).probeWaiting := by
  rw [line_recordHost]
  split
  · rename_i e
    rw [e]
  · rfl

theorem mem_recordHost {h : LastHost} {s : State} (speaks : s.berth.phase.silent = false) :
    n.castSucc ∈ (recordHost n h s).bus.reportLane := mem_askLine speaks

/-- The line's entry is replaced in place, with its notice (R45). -/
theorem placed_replaced {e old : Entry} {h : LastHost} {s : State} (own : e.line = n)
    (held : s.entry n = some old) (speaks : s.berth.phase.silent = false) :
    Placed n e h s (setLineNotice n (putEntry e (recordHost n h s))) := by
  subst own
  have same : (recordHost e.line h s).entry e.line = some old := (entry_congr (recordHost_queue _ h s) _).trans held
  refine ⟨?_, ?_, ?_, fun m hm => ?_, ?_, ?_, fun alone => ?_, ⟨?_, ?_, ?_⟩, ?_⟩
  · rw [line_setLineNotice, if_pos rfl]
    change { (recordHost e.line h s).line e.line with notice := true } = _
    rw [line_recordHost, if_pos rfl, held]
    simp
  · rw [setLineNotice_queue, held]
    change (recordHost e.line h s).queue.map _ = _
    rw [recordHost_queue]
    rfl
  · rw [entry_congr (setLineNotice_queue _ _)]
    exact entry_putEntry same
  · exact ((Kept.recordHost hm h s).trans (.putEntry hm _)).trans (.setLineNotice hm _)
  · rw [setLineNotice_orderLane]
    exact recordHost_orderLane h s
  · exact setLineNotice_mem (mem_recordHost speaks)
  · cases alone.symm.trans held
  · rw [setLineNotice_berth]
    exact recordHost_berth _ h s
  · rw [setLineNotice_profile]
    exact recordHost_profile _ h s
  · rw [setLineNotice_supply]
    exact recordHost_supply _ h s
  · rw [setLineNotice_notices]
    exact congrArg Reporting.notices (recordHost_report _ h s)

/-- A new entry joins at the tail, and asks for the berth record (R45). -/
def appendEntry (e : Entry) (s : State) : State := askBerth { s with queue := s.queue ++ [e] }

theorem Kept.appendEntry {e : Entry} {m : LineId} (h : m ≠ e.line) (s : State) : Kept m s (appendEntry e s) := by
  refine Kept.trans (t := { s with queue := s.queue ++ [e] }) ⟨rfl, ?_, rfl⟩ (.askBerth _)
  unfold State.entry
  rw [List.find?_append, List.find?_singleton, if_neg (by simpa using h.symm), Option.or_none]

theorem placed_appended {e : Entry} {h : LastHost} {s : State} (own : e.line = n)
    (alone : s.entry n = none) (speaks : s.berth.phase.silent = false) :
    Placed n e h s (appendEntry e (recordHost n h s)) := by
  subst own
  have same : (recordHost e.line h s).entry e.line = none := (entry_congr (recordHost_queue _ h s) _).trans alone
  unfold appendEntry
  refine ⟨?_, ?_, ?_, fun m hm => ?_, ?_, ?_, fun _ => ?_, ⟨?_, ?_, ?_⟩, ?_⟩
  · have queued : ∀ q, State.line { recordHost e.line h s with queue := q } e.line =
        (recordHost e.line h s).line e.line := fun _ => rfl
    rw [line_askBerth, queued, alone, recordHost_probeWaiting, line_recordHost, if_pos rfl]
    simp
  · rw [askBerth_queue, alone]
    change (recordHost e.line h s).queue ++ [e] = _
    rw [recordHost_queue]
    rfl
  · rw [entry_congr (askBerth_queue _)]
    unfold State.entry at same ⊢
    rw [List.find?_append, same]
    simp
  · exact (Kept.recordHost hm h s).trans (.appendEntry hm _)
  · rw [Bus.bare_orderLane (askBerth_bare _)]
    exact recordHost_orderLane h s
  · exact askRecord_mem (mem_recordHost speaks)
  · refine mem_askBerth ?_
    change (recordHost e.line h s).berth.phase ≠ .starting
    rw [recordHost_berth]
    exact Phase.not_starting speaks
  · rw [askBerth_berth]
    exact recordHost_berth _ h s
  · rw [askBerth_profile]
    exact recordHost_profile _ h s
  · rw [askBerth_supply]
    exact recordHost_supply _ h s
  · rw [askBerth_report]
    exact congrArg Reporting.notices (recordHost_report _ h s)

/-! ### The probe it asks for -/

/-- A probe request begins at once, or waits behind the probe that runs (R96 to R98). -/
theorem requestProbe_cases (n : LineId) (s : State) :
    (∃ resume, requestProbe n s = beginProbe n resume s ∧ AsksProbe s (beginProbe n resume s) n ∧
      ∀ m r, s.scan.pass ≠ .probing m r) ∨
    (requestProbe n s = joinProbe n s ∧ AsksProbe s (joinProbe n s) n ∧ ∃ m r, s.scan.pass = .probing m r) := by
  have waiting : ∀ resume, ((beginProbe n resume s).line n).probeWaiting = false := fun resume => by
    rw [line_beginProbe]
  unfold requestProbe AsksProbe
  cases pass : s.scan.pass with
  | idle => exact .inl ⟨none, rfl, ⟨rfl, waiting none⟩, by simp⟩
  | running p => exact .inl ⟨some p, rfl, ⟨rfl, waiting (some p)⟩, by simp⟩
  | probing m r =>
    refine .inr ⟨rfl, ⟨rfl, ?_⟩, m, r, rfl⟩
    rw [line_joinProbe]

theorem entry_markBegun (s : State) : (markBegun n s).entry n =
    (s.entry n).map fun e => if e.line = n ∧ e.stage = .probing then { e with probeBegun := true } else e :=
  find_map_line (fun x => by split <;> rfl) s.queue

/-- The entry whose probe begins is marked (R65, log 18). -/
theorem Placed.beginProbe {e : Entry} {h : LastHost} {s z : State} (placed : Placed n e h s z)
    (probing : e.stage = .probing) (resume : Option Nat) :
    Placed n { e with probeBegun := true } h s (beginProbe n resume z) := by
  have own : e.line = n := entry_line placed.entry
  have line : (Machine.beginProbe n resume z).line n = { z.line n with probeWaiting := false } := by
    rw [line_beginProbe]
  refine ⟨?_, ?_, ?_, fun m hm => (placed.others m hm).trans (.beginProbe hm resume z), placed.lane,
    placed.record, placed.berthRecord, placed.blocks, placed.notices⟩
  · rw [line, placed.line]
  · change z.queue.map _ = _
    rw [placed.queue]
    split
    · rw [List.map_map]
      refine List.map_congr_left fun x _ => ?_
      by_cases mine : x.line = n <;> simp [mine, own, probing]
    · rename_i none
      have alone := (entry_none_iff s).mp (Option.not_isSome_iff_eq_none.mp none)
      rw [List.map_append, List.map_singleton, if_pos ⟨own, probing⟩]
      congr 1
      conv_rhs => rw [← List.map_id s.queue]
      exact List.map_congr_left fun x hx => if_neg fun c => alone x hx c.1
  · change (markBegun n z).entry n = _
    rw [entry_markBegun, placed.entry, Option.map_some, if_pos ⟨own, probing⟩]

theorem Placed.joinProbe {e : Entry} {h : LastHost} {s z : State} (placed : Placed n e h s z) :
    Placed n e h s (joinProbe n z) := by
  have line : (Machine.joinProbe n z).line n = { z.line n with probeWaiting := true } := by
    rw [line_joinProbe]
  refine ⟨?_, placed.queue, placed.entry, fun m hm => (placed.others m hm).trans (.joinProbe hm z), placed.lane,
    placed.record, placed.berthRecord, placed.blocks, placed.notices⟩
  rw [line, placed.line]

/-! ### The hold step -/

/-- The order placed by the hold step, its probe not yet asked for. -/
def holdPlace (n : LineId) (k : HeldKind) (t : Tag) (o : Origin) (s : State) : State :=
  match s.entry n with
  | some old => setLineNotice n (putEntry (newEntry s n k t o)
      (recordHost n ⟨some (t, k.order), some .held, some old.tag⟩ s))
  | none => appendEntry (newEntry s n k t o) (recordHost n ⟨some (t, k.order), some .held, none⟩ s)

/-- With an entry of the line or a free place the hold step places the order. -/
theorem holdOrder_placed {k : HeldKind} {t : Tag} {o : Origin} {s : State}
    (room : (∃ e, s.entry n = some e) ∨ s.queue.length < 8) :
    holdOrder n k t o s = askProbe (newEntry s n k t o) (holdPlace n k t o s) := by
  unfold holdOrder holdPlace
  cases entry : s.entry n with
  | some old => rfl
  | none =>
    have free : s.queue.length < 8 := room.resolve_left (by simp [entry])
    exact if_neg (show ¬ 8 ≤ s.queue.length by omega)

theorem placed_holdPlace (n : LineId) (k : HeldKind) (t : Tag) (o : Origin) {s : State}
    (speaks : s.berth.phase.silent = false) : Placed n (newEntry s n k t o)
      ⟨some (t, k.order), some .held, (s.entry n).map (·.tag)⟩ s (holdPlace n k t o s) := by
  unfold holdPlace
  cases entry : s.entry n with
  | some old => exact placed_replaced rfl entry speaks
  | none => exact placed_appended rfl entry speaks

theorem holdPlace_scan (n : LineId) (k : HeldKind) (t : Tag) (o : Origin) (s : State) :
    (holdPlace n k t o s).scan = s.scan ∧
      ((holdPlace n k t o s).line n).probeWaiting = (s.line n).probeWaiting := by
  unfold holdPlace
  split
  · refine ⟨?_, ?_⟩
    · rw [setLineNotice_scan]
      exact recordHost_scan n _ s
    · rw [line_setLineNotice, if_pos rfl]
      exact recordHost_probeWaiting n _ s
  · unfold appendEntry
    refine ⟨?_, ?_⟩
    · rw [askBerth_scan]
      exact recordHost_scan n _ s
    · rw [line_askBerth]
      exact recordHost_probeWaiting n _ s

/-- An order that state allowance holds goes on to the hold step. -/
theorem exec_held {i : Instr} {k : HeldKind} {t : Tag} {o : Origin} {s : State}
    (carries : Carries i n k.order t o) (takes : s.takesWords) (fitted : (s.line n).fitted = true)
    (new : (s.line n).lastHost.order ≠ some (t, k.order))
    (free : s.profile.source = .loaded ∨ k.order.needsLoaded = false)
    (phase : phaseAllows k.order s.berth.phase = true)
    (hold : stateAllows k.order s.berth.phase (s.line n).stowed (s.line n).state = .hold) :
    exec i s = .next (arbitrate (holdOrder n k t o (hostActivity s))) := by
  have run := exec_carries carries takes
  have latch : useLatch n k.order (hostActivity s) = hostActivity s := by cases k <;> rfl
  rw [screen_allowed (s := hostActivity s) fitted new free phase, hostActivity_line, hostActivity_phase, hold,
    latch] at run
  dsimp only at run
  rw [run]
  cases k <;> rfl

/-- What a held SLIP shows of its gates and its probe. -/
theorem slip_held {t : Tag} {o : Origin} {s : State} (speaks : s.berth.phase.silent = false) :
    ∃ e, Placed n e ⟨some (t, .slip), some .held, (s.entry n).map (·.tag)⟩ s
        (askProbe (newEntry s n .slip t o) (holdPlace n .slip t o s)) ∧
      e = { newEntry s n .slip t o with probeBegun := e.probeBegun } ∧
      (s.Open n → e.stage = .probing ∧
        AsksProbe s (askProbe (newEntry s n .slip t o) (holdPlace n .slip t o s)) n) ∧
      (¬ s.Open n → e.stage = .waiting ∧
        (askProbe (newEntry s n .slip t o) (holdPlace n .slip t o s)).scan = s.scan ∧
        ((askProbe (newEntry s n .slip t o) (holdPlace n .slip t o s)).line n).probeWaiting =
          (s.line n).probeWaiting) ∧
      (e.probeBegun = true ↔ s.Open n ∧ ∀ m r, s.scan.pass ≠ .probing m r) := by
  have placed := placed_holdPlace n .slip t o speaks
  obtain ⟨scan, waiting⟩ := holdPlace_scan n .slip t o s
  by_cases opened : s.Open n
  · have stage : (newEntry s n .slip t o).stage = .probing := if_pos ((gatesOpen_iff s n).mpr opened)
    have asks : ∀ u, AsksProbe (holdPlace n .slip t o s) u n → AsksProbe s u n := fun u => by
      unfold AsksProbe
      rw [scan]
      exact id
    have asked : askProbe (newEntry s n .slip t o) (holdPlace n .slip t o s) =
        requestProbe n (holdPlace n .slip t o s) := if_pos stage
    rw [asked]
    rcases requestProbe_cases n (holdPlace n .slip t o s) with ⟨resume, begins, asks', idle⟩ | ⟨joins, asks', m, r, busy⟩
    · rw [begins]
      rw [scan] at idle
      exact ⟨_, placed.beginProbe stage resume, rfl, fun _ => ⟨stage, asks _ asks'⟩, fun shut => absurd opened shut,
        iff_of_true rfl ⟨opened, idle⟩⟩
    · rw [joins]
      rw [scan] at busy
      exact ⟨_, placed.joinProbe, rfl, fun _ => ⟨stage, asks _ asks'⟩, fun shut => absurd opened shut,
        iff_of_false (by simp [newEntry]) fun idle => idle.2 m r busy⟩
  · have stage : (newEntry s n .slip t o).stage = .waiting :=
      if_neg fun c => opened ((gatesOpen_iff s n).mp c)
    have asked : askProbe (newEntry s n .slip t o) (holdPlace n .slip t o s) = holdPlace n .slip t o s :=
      if_neg (by rw [stage]; decide)
    rw [asked]
    exact ⟨_, placed, rfl, fun h => absurd h opened, fun _ => ⟨stage, scan, waiting⟩,
      iff_of_false (by simp [newEntry]) fun idle => opened idle.1⟩

theorem rewind_held {t : Tag} {o : Origin} (s : State) :
    askProbe (newEntry s n .rewind t o) (holdPlace n .rewind t o s) = holdPlace n .rewind t o s :=
  if_neg (by simp [newEntry])

/-- What the entry of a held order shows, kind by kind (R60, R66). -/
def HeldAs (k : HeldKind) (n : LineId) (e : Entry) (s u : State) : Prop :=
  match k with
  | .slip => s.Closed n e.closed ∧ (s.Open n → e.stage = .probing ∧ AsksProbe s u n) ∧
      (¬ s.Open n → e.stage = .waiting ∧ u.scan = s.scan ∧
        (u.line n).probeWaiting = (s.line n).probeWaiting) ∧
      (e.probeBegun = true ↔ s.Open n ∧ ∀ m r, s.scan.pass ≠ .probing m r) ∧
      e.deadline = s.ticksFor (slipHoldLimit s.image)
  | .rewind => e.closed = ⟨false, false, false, false, true⟩ ∧ e.stage = .waiting ∧
      e.deadline = s.ticksFor (rewindHoldLimit s.image) ∧ u.scan = s.scan

/-- The order held, the verdict field apart from the kind. -/
theorem placed_held (k : HeldKind) {t : Tag} {o : Origin} {s : State} (speaks : s.berth.phase.silent = false) :
    ∃ e, Placed n e ⟨some (t, k.order), some .held, (s.entry n).map (·.tag)⟩ s
        (askProbe (newEntry s n k t o) (holdPlace n k t o s)) ∧
      e = { newEntry s n k t o with probeBegun := e.probeBegun } ∧
      HeldAs k n e s (askProbe (newEntry s n k t o) (holdPlace n k t o s)) := by
  cases k with
  | slip =>
    obtain ⟨e, placed, made, opened, shut, begun⟩ := slip_held (n := n) (t := t) (o := o) speaks
    refine ⟨e, placed, made, ?_, opened, shut, begun, ?_⟩
    · rw [made]
      exact closed_slipGates s n
    · rw [made]
      rfl
  | rewind =>
    rw [rewind_held]
    exact ⟨_, placed_holdPlace n .rewind t o speaks, rfl, rfl, rfl, rfl, (holdPlace_scan n .rewind t o s).1⟩

/-- Settles O28: SLIP and REWIND are held. -/
theorem ordersHeld : Obligations.OrdersHeld := by
  unfold Obligations.OrdersHeld
  intro i n k t o s carries takes fitted new allowed room
  have run : exec i s = .next (arbitrate (holdOrder n k t o (hostActivity s))) := by
    cases k with
    | slip =>
      obtain ⟨loaded, phase, state⟩ := allowed
      refine exec_held carries takes fitted new (.inl loaded) (by rw [phase]; rfl) ?_
      rcases state with ⟨v, h⟩ | h | ⟨v, h⟩ | h | h <;> rw [h] <;> rfl
    | rewind =>
      obtain ⟨phase, state⟩ := allowed
      refine exec_held carries takes fitted new (.inr rfl) ?_ (by rw [state]; rfl)
      rcases phase with h | h | h <;> rw [h] <;> rfl
  rw [holdOrder_placed (s := hostActivity s) room] at run
  obtain ⟨e, placed, made, stage⟩ := placed_held (n := n) (t := t) (o := o) k (s := hostActivity s) takes.2.2
  have line := placed.line
  obtain ⟨berth, profile, supply⟩ := placed.blocks
  refine ⟨_, e, run, placed.entry, ?_, ?_, ?_, ?_, ?_, ?_, ?_, ?_, ?_, placed.lane, fun m hm => ?_, placed.queue,
    ?_, placed.record, placed.berthRecord, berth, profile, supply, placed.notices⟩
  iterate 4
    · rw [made]
      rfl
  · cases k <;> exact stage
  iterate 3
    · rw [line]
      rfl
  · rw [line]
    exact ⟨⟨rfl, rfl, rfl⟩, ⟨rfl, rfl, rfl, rfl, rfl⟩, ⟨rfl, rfl⟩, ⟨rfl, rfl, rfl⟩, rfl⟩
  · exact ⟨(placed.others m hm).line, (placed.others m hm).entry⟩
  · rw [line]
    rfl

end Sys2Proof.Machine
end

section
/-! SUPPORT. The hold queue's judgements (R67 to R71): what forwarding leaves, what a judgement of a SLIP leaves,
and the walks. -/

namespace Sys2Proof.Machine

variable {n : LineId}

/-! ### Forwarding -/

/-- The part with the entry forwarded, before the effect on its line (R71). -/
def beforeForward (e : Entry) (s : State) : State :=
  placePair (makePair e.line e.kind.order e.tag 0)
    (askBerth (dropEntry e.line (recordEnding e.line e.tag e.kind.order .forwarded s)))

theorem forward_eq (e : Entry) (s : State) :
    forward e s = askLine e.line (applyEffect e.line e.kind.order 0 (beforeForward e s)) := rfl

/-- The line with its entry's verdict. -/
def Line.forwarded (e : Entry) (l : Line) : Line :=
  { l with lastHost := ⟨some (e.tag, e.kind.order), some .forwarded, l.lastHost.superseded⟩ }

theorem line_beforeForward (e : Entry) (s : State) :
    (beforeForward e s).line e.line = (s.line e.line).forwarded e := by
  unfold beforeForward recordEnding
  rw [line_placePair, line_askBerth, line_dropEntry, line_recordHost, if_pos rfl]
  rfl

theorem beforeForward_fields (e : Entry) (s : State) : (beforeForward e s).image = s.image ∧
    (beforeForward e s).ticksFor = s.ticksFor ∧
    (∀ n, (beforeForward e s).stowComing n = s.stowComing n) ∧
    (beforeForward e s).queue = s.queue.filter fun x => x.line != e.line := by
  unfold beforeForward
  refine ⟨by simp, funext fun ms => by simp [State.ticksFor], fun n => stowComing_congr (by simp), ?_⟩
  rw [placePair_queue, askBerth_queue]
  unfold dropEntry
  rw [recordEnding_queue]
  rfl

theorem pair_beforeForward (e : Entry) (s : State) :
    makePair e.line e.kind.order e.tag 0 ∈ (beforeForward e s).bus.orderLane := mem_placeIn _ _

theorem line_forward (e : Entry) (s : State) : (forward e s).line e.line =
    (applyEffect e.line e.kind.order 0 (beforeForward e s)).line e.line := by
  rw [forward_eq, line_askLine]

theorem pair_forward {e : Entry} {s : State} {x : LaneEntry}
    (h : x ∈ (applyEffect e.line e.kind.order 0 (beforeForward e s)).bus.orderLane) :
    x ∈ (forward e s).bus.orderLane := by
  rw [forward_eq]
  change x ∈ (askRecord _ _).bus.orderLane
  rwa [askRecord_orderLane]

/-- What forwarding makes of the line of a SLIP (R52). -/
theorem forward_slip {e : Entry} (kind : e.kind = .slip) (s : State) :
    (forward e s).line e.line =
      Line.enter s.image s.ticksFor .slipping ((s.line e.line).forwarded e) ∧
    makePair e.line .slip e.tag 0 ∈ (forward e s).bus.orderLane := by
  obtain ⟨image, ticks, -, -⟩ := beforeForward_fields e s
  have order : e.kind.order = .slip := by rw [kind]; rfl
  have effect : applyEffect e.line e.kind.order 0 (beforeForward e s) =
      enterState e.line .slipping (beforeForward e s) := by rw [order]; rfl
  constructor
  · rw [line_forward, effect, enterState_line, image, ticks, line_beforeForward]
  · have pair := pair_beforeForward e s
    rw [order] at pair
    refine pair_forward ?_
    rw [effect, enterState_bus]
    exact pair

/-- What forwarding does to a REWIND is what a rewind begun does. -/
theorem forward_rewind {e : Entry} (kind : e.kind = .rewind) (s : State) :
    (forward e s).line e.line = (rewindEffect e.line (beforeForward e s)).line e.line ∧
    ∀ x, x ∈ (rewindEffect e.line (beforeForward e s)).bus.orderLane → x ∈ (forward e s).bus.orderLane := by
  have order : e.kind.order = .rewind := by rw [kind]; rfl
  have effect : applyEffect e.line e.kind.order 0 (beforeForward e s) =
      rewindEffect e.line (beforeForward e s) := by rw [order]; rfl
  constructor
  · rw [line_forward, effect]
  · intro x hx
    exact pair_forward (by rw [effect]; exact hx)

theorem forward_rewind_runs {e : Entry} (kind : e.kind = .rewind) {s : State}
    (runs : (s.line e.line).lengthUnknown = true ∨ (s.line e.line).payout ≠ 0) :
    (forward e s).line e.line = Line.rewinds s.image s.ticksFor ((s.line e.line).forwarded e) ∧
    makePair e.line .rewind e.tag 0 ∈ (forward e s).bus.orderLane := by
  obtain ⟨image, ticks, -, -⟩ := beforeForward_fields e s
  have line := line_beforeForward e s
  obtain ⟨own, pairs⟩ := forward_rewind kind s
  obtain ⟨rewinds, bus⟩ := rewindEffect_runs (n := e.line) (s := beforeForward e s) (by rw [line]; exact runs)
  refine ⟨by rw [own, rewinds, image, ticks, line], pairs _ ?_⟩
  have pair := pair_beforeForward e s
  rw [kind] at pair
  rw [bus]
  exact pair

theorem forward_rewind_home {e : Entry} (kind : e.kind = .rewind) {s : State}
    (known : (s.line e.line).lengthUnknown = false) (zero : (s.line e.line).payout = 0)
    (stow : ((s.line e.line).stowMade || s.stowComing e.line) = true) :
    (forward e s).line e.line = Line.home s.image s.ticksFor ((s.line e.line).forwarded e) ∧
    makePair e.line .park 0 0 ∈ (forward e s).bus.orderLane := by
  obtain ⟨image, ticks, coming, -⟩ := beforeForward_fields e s
  have line := line_beforeForward e s
  obtain ⟨own, pairs⟩ := forward_rewind kind s
  obtain ⟨home, pair⟩ := rewindEffect_home (n := e.line) (s := beforeForward e s) (by rw [line]; exact known)
    (by rw [line]; exact zero) (by rw [line, coming]; exact stow)
  exact ⟨by rw [own, home, image, ticks, line], pairs _ pair⟩

theorem forward_rewind_away {e : Entry} (kind : e.kind = .rewind) {s : State}
    (known : (s.line e.line).lengthUnknown = false) (zero : (s.line e.line).payout = 0)
    (stow : ((s.line e.line).stowMade || s.stowComing e.line) = false) :
    (forward e s).line e.line = Line.away s.image s.ticksFor ((s.line e.line).forwarded e) ∧
    makePair e.line .lock 0 0 ∈ (forward e s).bus.orderLane := by
  obtain ⟨image, ticks, coming, -⟩ := beforeForward_fields e s
  have line := line_beforeForward e s
  obtain ⟨own, pairs⟩ := forward_rewind kind s
  obtain ⟨away, pair⟩ := rewindEffect_away (n := e.line) (s := beforeForward e s) (by rw [line]; exact known)
    (by rw [line]; exact zero) (by rw [line, coming]; exact stow)
  exact ⟨by rw [own, away, image, ticks, line], pairs _ pair⟩

/-- Forwarding, said of the line it leaves. -/
theorem forwarded_of {e : Entry} {s : State} {l : Line} (own : (forward e s).line e.line = l)
    (verdict : l.lastHost = ⟨some (e.tag, e.kind.order), some .forwarded, (s.line e.line).lastHost.superseded⟩)
    (drum : (s.line e.line).state ≠ l.state → TakenIn s (s.line e.line) l) :
    ((forward e s).line e.line).lastHost =
        ⟨some (e.tag, e.kind.order), some .forwarded, (s.line e.line).lastHost.superseded⟩ ∧
      ((s.line e.line).state ≠ ((forward e s).line e.line).state →
        TakenIn s (s.line e.line) ((forward e s).line e.line)) := by
  rw [own]
  exact ⟨verdict, drum⟩

/-- The four ways an entry is forwarded, by kind, length to run and stow switch (R52, R53; log 20, log 27). -/
inductive ForwardCase (e : Entry) (s : State) : Prop
  | slip (kind : e.kind = .slip)
  | runs (kind : e.kind = .rewind)
      (length : (s.line e.line).lengthUnknown = true ∨ (s.line e.line).payout ≠ 0)
  | home (kind : e.kind = .rewind) (known : (s.line e.line).lengthUnknown = false)
      (zero : (s.line e.line).payout = 0) (stow : ((s.line e.line).stowMade || s.stowComing e.line) = true)
  | away (kind : e.kind = .rewind) (known : (s.line e.line).lengthUnknown = false)
      (zero : (s.line e.line).payout = 0) (stow : ((s.line e.line).stowMade || s.stowComing e.line) = false)

theorem forwardCase (e : Entry) (s : State) : ForwardCase e s := by
  cases kind : e.kind with
  | slip => exact .slip kind
  | rewind =>
    by_cases length : (s.line e.line).lengthUnknown = true ∨ (s.line e.line).payout ≠ 0
    · exact .runs kind length
    · obtain ⟨known, zero⟩ := not_or.mp length
      rw [Bool.not_eq_true] at known
      rw [not_not] at zero
      cases stow : (s.line e.line).stowMade || s.stowComing e.line with
      | true => exact .home kind known zero stow
      | false => exact .away kind known zero stow

/-- The verdict of a forwarded entry, and drum supervision of its line (R71, R118). -/
theorem forward_verdict (e : Entry) (s : State) : ((forward e s).line e.line).lastHost =
      ⟨some (e.tag, e.kind.order), some .forwarded, (s.line e.line).lastHost.superseded⟩ ∧
    ((s.line e.line).state ≠ ((forward e s).line e.line).state →
      TakenIn s (s.line e.line) ((forward e s).line e.line)) := by
  cases forwardCase e s with
  | slip kind => exact forwarded_of (forward_slip kind s).1 rfl fun other => .enter other.symm rfl rfl
  | runs kind length => exact forwarded_of (forward_rewind_runs kind length).1 rfl fun other => .rewinds other rfl rfl
  | home kind known zero stow =>
    exact forwarded_of (forward_rewind_home kind known zero stow).1 rfl fun other => .home other rfl rfl
  | away kind known zero stow =>
    exact forwarded_of (forward_rewind_away kind known zero stow).1 rfl fun other => .away other rfl rfl

theorem forward_queue (e : Entry) (s : State) :
    (forward e s).queue = s.queue.filter fun x => x.line != e.line := by
  obtain ⟨-, -, -, queue⟩ := beforeForward_fields e s
  rw [forward_eq, askLine_queue, applyEffect_queue, queue]

/-- The slip timer of a line newly SLIPPING (R115). -/
theorem Line.slip_enter (img : List Word) (f : Nat → Nat) {l : Line} (h : l.state ≠ .slipping) :
    (Line.enter img f .slipping l).slip = some (f (slipTimeLimit img)) := by
  unfold Line.enter
  simp [h]

/-- What forwarding leaves (R71). -/
theorem forwarded_forward (e : Entry) (s : State) : Forwarded e s (forward e s) where
  verdict := (forward_verdict e s).1
  queue := forward_queue e s
  slip kind := by
    obtain ⟨own, pair⟩ := forward_slip kind s
    rw [own]
    refine ⟨rfl, fun other => ?_, pair⟩
    exact Line.slip_enter _ _ other
  rewind kind length := by
    obtain ⟨own, pair⟩ := forward_rewind_runs kind length
    rw [own]
    exact ⟨rfl, rfl, fun known => if_neg (by simp [Line.forwarded, known]), pair⟩
  home kind known zero stow := by
    obtain ⟨own, pair⟩ := forward_rewind_home kind known zero ((stow_iff s).mpr stow)
    rw [own]
    exact ⟨rfl, rfl, pair⟩
  away kind known zero lost gone := by
    have stow : ((s.line e.line).stowMade || s.stowComing e.line) = false := by
      rw [← Bool.not_eq_true, stow_iff]
      simp [lost, gone]
    obtain ⟨own, pair⟩ := forward_rewind_away kind known zero stow
    rw [own]
    exact ⟨rfl, rfl, pair⟩
  drum := (forward_verdict e s).2
  others m hm := (Kept.forward hm s).line
  blocks := ⟨forward_scan e s, forward_berth e s, forward_profile e s, forward_supply e s⟩

/-! ### The judgement of a SLIP -/

/-- The entry after a judgement that finds a gate closed (R67, R68). -/
theorem judged_shut {e : Entry} {s : State} (shut : ¬ s.Open e.line) : judged s e =
    { e with closed := slipGates s e.line, stage := .waiting, failed := false, probeBegun := false } :=
  if_neg fun c => shut ((gatesOpen_iff s e.line).mp c)

/-- The entry that goes to PROBING (R67). -/
theorem judged_opens {e : Entry} {s : State} (opened : s.Open e.line) (stage : e.stage = .waiting)
    (mark : e.failed = false) :
    judged s e = { e with closed := slipGates s e.line, stage := .probing, probeBegun := false } := by
  unfold judged
  rw [if_pos ((gatesOpen_iff s e.line).mpr opened), if_neg (by simp [stage, mark])]

theorem judged_open {e : Entry} {s : State} (opened : s.Open e.line) (h : e.stage = .probing ∨ e.failed = true) :
    judged s e = { e with closed := slipGates s e.line } := by
  unfold judged
  rw [if_pos ((gatesOpen_iff s e.line).mpr opened), if_pos h]

/-- The request for the record of a judged entry, where it shows a change (R80). -/
def askJudged (e : Entry) (s : State) : State :=
  if (judged s e).stage = e.stage ∧ (judged s e).closed = e.closed then putEntry (judged s e) s
  else askLine e.line (putEntry (judged s e) s)

theorem judgeSlip_eq (e : Entry) (s : State) : judgeSlip e s =
    if e.stage = .waiting ∧ (judged s e).stage = .probing then joinProbe e.line (askJudged e s)
    else askJudged e s := rfl

theorem askJudged_fields (e : Entry) (s : State) : (askJudged e s).lines = s.lines ∧
    (askJudged e s).queue = (putEntry (judged s e) s).queue ∧ (askJudged e s).scan = s.scan ∧
    (askJudged e s).bus.orderLane = s.bus.orderLane ∧ (askJudged e s).berth = s.berth ∧
    (askJudged e s).profile = s.profile ∧ (askJudged e s).supply = s.supply ∧
    (askJudged e s).report = s.report := by
  unfold askJudged
  split
  · exact ⟨rfl, rfl, rfl, rfl, rfl, rfl, rfl, rfl⟩
  · refine ⟨?_, ?_, ?_, Bus.bare_orderLane (askLine_bare _ _), ?_, ?_, ?_, ?_⟩
    · exact lines_askLine _ _
    all_goals simp

/-- A judgement leaves everything but the entry, its probe request and its record (R67, R80, R96). -/
theorem judgeSlip_fields (e : Entry) (s : State) : (judgeSlip e s).queue = (putEntry (judged s e) s).queue ∧
    (judgeSlip e s).scan = s.scan ∧ (judgeSlip e s).bus.orderLane = s.bus.orderLane ∧
    (judgeSlip e s).berth = s.berth ∧ (judgeSlip e s).profile = s.profile ∧
    (judgeSlip e s).supply = s.supply ∧ (judgeSlip e s).report = s.report ∧
    (judgeSlip e s).bus.reportLane = (askJudged e s).bus.reportLane := by
  obtain ⟨-, queue, scan, lane, berth, profile, supply, report⟩ := askJudged_fields e s
  rw [judgeSlip_eq]
  split
  · exact ⟨queue, scan, lane, berth, profile, supply, report, rfl⟩
  · exact ⟨queue, scan, lane, berth, profile, supply, report, rfl⟩

theorem line_askJudged (e : Entry) (s : State) (m : LineId) : (askJudged e s).line m = s.line m := by
  unfold State.line
  rw [(askJudged_fields e s).1]

/-- The line of an entry that goes to PROBING asks for its probe; any other keeps its line (R96). -/
theorem line_judgeSlip (e : Entry) (s : State) : (judgeSlip e s).line e.line =
    if e.stage = .waiting ∧ (judged s e).stage = .probing then { s.line e.line with probeWaiting := true }
    else s.line e.line := by
  rw [judgeSlip_eq]
  split
  · rw [line_joinProbe, line_askJudged]
  · rw [line_askJudged]

theorem entry_judgeSlip {e : Entry} {s : State} (h : s.entry n = some e) :
    (judgeSlip e s).entry n = some (judged s e) := by
  obtain ⟨queue, -⟩ := judgeSlip_fields e s
  have own : e.line = n := entry_line h
  subst own
  rw [entry_congr queue]
  have same := entry_putEntry (e := judged s e) (old := e) (s := s) (by rw [judged_line, h])
  rwa [judged_line] at same

theorem record_judgeSlip {e : Entry} {s : State} (speaks : s.berth.phase.silent = false)
    (changed : ¬ ((judged s e).stage = e.stage ∧ (judged s e).closed = e.closed)) :
    e.line.castSucc ∈ (judgeSlip e s).bus.reportLane := by
  obtain ⟨-, -, -, -, -, -, -, record⟩ := judgeSlip_fields e s
  rw [record]
  unfold askJudged
  rw [if_neg changed]
  exact mem_askLine speaks

theorem judgeEntry_slip {e : Entry} {s : State} (h : s.entry n = some e) (kind : e.kind = .slip) :
    judgeEntry n s = judgeSlip e s := by
  unfold judgeEntry
  rw [h]
  dsimp only
  rw [kind]

theorem judgeEntry_rewind {e : Entry} {s : State} (h : s.entry n = some e) (kind : e.kind = .rewind) :
    judgeEntry n s = if (s.line n).state = .slack then forward e s else s := by
  unfold judgeEntry
  rw [h]
  dsimp only
  rw [kind]

/-- The closed set of an entry after its judgement (R67). -/
theorem judged_closed (s : State) (e : Entry) : (judged s e).closed = slipGates s e.line := by
  unfold judged
  split
  · split <;> rfl
  · rfl

/-! ### The walks -/

/-- A walk that forwards nothing is the last; fuel beyond the length of the queue is never used up (R69). -/
theorem walks_fuel (f g : Nat) (s : State) (hf : s.queue.length < f) (hg : s.queue.length < g) :
    walks f s = walks g s := by
  induction f generalizing g s with
  | zero => omega
  | succ f ih =>
    cases g with
    | zero => omega
    | succ g =>
      unfold walks
      split
      · rename_i shorter
        exact ih g (walkOnce s) (by omega) (by omega)
      · rfl

theorem rewalk_eq (s : State) :
    rewalk s = if (walkOnce s).queue.length < s.queue.length then rewalk (walkOnce s) else walkOnce s := by
  unfold rewalk
  conv_lhs => unfold walks
  split
  · rename_i shorter
    exact walks_fuel _ _ _ (by omega) (by omega)
  · rfl

/-! ### The hand-on of a change of state -/

/-- The hand-on adds to the re-evaluation the line's record and the change from DEPARTURE to VACANT (R5,
R127; log 23). -/
theorem settle_fields (n : LineId) (s : State) : (settle n s).lines = (reevaluate s).lines ∧
    (settle n s).queue = (reevaluate s).queue ∧
    (settle n s).bus.orderLane = (reevaluate s).bus.orderLane ∧ (settle n s).scan = (reevaluate s).scan ∧
    (settle n s).profile = (reevaluate s).profile ∧ (settle n s).supply = (reevaluate s).supply := by
  have vacant : ∀ t : State, (autoVacant t).lines = t.lines ∧ (autoVacant t).queue = t.queue ∧
      (autoVacant t).bus.orderLane = t.bus.orderLane ∧ (autoVacant t).scan = t.scan ∧
      (autoVacant t).profile = t.profile ∧ (autoVacant t).supply = t.supply := fun t => by
    unfold autoVacant
    split
    · obtain ⟨lines, queue, bus, scan, profile, supply, -⟩ := changePhase_fields .vacant t
      exact ⟨lines, queue, Bus.bare_orderLane bus, scan, profile, supply⟩
    · exact ⟨rfl, rfl, rfl, rfl, rfl, rfl⟩
  obtain ⟨lines, queue, lane, scan, profile, supply⟩ := vacant (askLine n (reevaluate s))
  unfold settle
  exact ⟨lines.trans (lines_askLine n _), queue.trans (askLine_queue n _),
    lane.trans (Bus.bare_orderLane (askLine_bare n _)), scan.trans (askLine_scan n _),
    profile.trans (askLine_profile n _), supply.trans (askLine_supply n _)⟩

theorem mem_autoVacant {r : RecId} {s : State} (h : r ∈ s.bus.reportLane) :
    r ∈ (autoVacant s).bus.reportLane := by
  unfold autoVacant
  split
  · unfold changePhase
    exact askRecord_mem h
  · exact h

theorem mem_settle {s : State} (speaks : s.berth.phase.silent = false) :
    n.castSucc ∈ (settle n s).bus.reportLane :=
  mem_autoVacant (mem_askLine (by rw [reevaluate_berth]; exact speaks))

theorem settle_vacant {s : State} (departs : (reevaluate s).berth.phase = .departure)
    (parked : ∀ m, ((reevaluate s).line m).fitted = true → ((reevaluate s).line m).state = .parked) :
    (settle n s).berth = { (reevaluate s).berth with phase := .vacant, silence := none } := by
  have all : (askLine n (reevaluate s)).allParked = true := by
    rw [allParked_iff]
    intro m
    rw [line_askLine]
    exact parked m
  unfold settle autoVacant
  rw [if_pos ⟨by rw [askLine_berth]; exact departs, all⟩, changePhase_berth, askLine_berth]
  rfl

theorem settle_berth_kept {s : State} (h : (reevaluate s).berth.phase ≠ .departure ∨
      ∃ m, ((reevaluate s).line m).fitted = true ∧ ((reevaluate s).line m).state ≠ .parked) :
    (settle n s).berth = (reevaluate s).berth := by
  unfold settle autoVacant
  rw [if_neg, askLine_berth]
  rintro ⟨departs, all⟩
  rw [askLine_berth] at departs
  rw [allParked_iff] at all
  rcases h with other | ⟨m, fitted, out⟩
  · exact other departs
  · have parked := all m
    rw [line_askLine] at parked
    exact out (parked fitted)

/-- Settles O29: one judgement, the walks, the probes and the hand-on. -/
theorem holdQueueReevaluated : Obligations.HoldQueueReevaluated := by
  unfold Obligations.HoldQueueReevaluated
  refine ⟨fun n s alone => judgeEntry_none alone, fun n e s entry kind => ⟨fun tight => ?_, fun slack => ?_⟩,
    fun n e s entry kind => ?_, rewalk_eq, fun s => ⟨rfl, probesTaken_takeProbes s⟩, fun n s => ?_⟩
  · rw [judgeEntry_rewind entry kind, if_neg tight]
  · rw [judgeEntry_rewind entry kind, if_pos slack]
    exact forwarded_forward e s
  · have own : e.line = n := entry_line entry
    subst own
    rw [judgeEntry_slip entry kind]
    have line := line_judgeSlip e s
    have found := entry_judgeSlip entry
    obtain ⟨queue, scan, lane, berth, profile, supply, -, -⟩ := judgeSlip_fields e s
    refine ⟨slipGates s e.line, closed_slipGates s e.line, fun opened stage mark => ?_, fun opened h => ?_,
      fun shut => ?_, fun m hm => ?_, scan, ?_, lane, berth, profile, supply, ?_, fun _ speaks changed => ?_⟩
    · rw [judged_opens opened stage mark] at line found
      exact ⟨line.trans (if_pos ⟨stage, rfl⟩), found⟩
    · rw [judged_open opened h] at line found
      refine ⟨found, line.trans (if_neg fun c => ?_)⟩
      cases c.1.symm.trans c.2
    · rw [judged_shut shut] at line found
      exact ⟨line.trans (if_neg fun c => by cases c.2), found⟩
    · have kept := Kept.judgeSlip hm s
      exact ⟨kept.line, kept.entry⟩
    · rw [line]
      split <;> rfl
    · rw [queue]
      exact List.length_map _
    · refine record_judgeSlip speaks fun same => ?_
      rw [found] at changed
      rw [judged_closed] at same
      exact changed.elim (fun h => h (congrArg some same.1)) fun h => h same.2
  · obtain ⟨lines, queue, lane, scan, profile, supply⟩ := settle_fields n s
    exact ⟨lines, queue, lane, scan, profile, supply, mem_settle, settle_vacant, settle_berth_kept⟩

end Sys2Proof.Machine
end

section
/-! SUPPORT. Berth requests (R123 to R126): how a request word reads, the rulings, what an accepted request
leaves, and the ways into LOCKDOWN (R131, R132). -/

namespace Sys2Proof.Machine

/-! ### Walks that reach one place -/

/-- What one turn of a walk brings about, and no later turn undoes, holds at its end. -/
theorem foldl_reaches {α : Type} {I P : State → Prop} {f : State → α → State} {a : α} {l : List α} {s : State}
    (mem : a ∈ l) (start : I s) (inv : ∀ t x, I t → I (f t x)) (place : ∀ t, I t → P (f t a))
    (keep : ∀ t x, P t → P (f t x)) : P (l.foldl f s) := by
  induction l generalizing s with
  | nil => cases mem
  | cons x l ih =>
    rw [List.foldl_cons]
    rcases List.mem_cons.mp mem with rfl | later
    · exact foldl_keeps keep l (place s start)
    · exact ih later (inv s x start)

theorem eachLine_reaches {I P : State → Prop} {f : LineId → State → State} (n : LineId) {s : State} (start : I s)
    (inv : ∀ m t, I t → I (f m t)) (place : ∀ t, I t → P (f n t)) (keep : ∀ m t, P t → P (f m t)) :
    P (eachLine f s) :=
  foldl_reaches (mem_allLines n) start (fun t m => inv m t) place fun t m => keep m t

/-! ### Request words -/

theorem requestOfCode_eq_some_iff (c : Nat) (q : Request) : requestOfCode c = some q ↔
    (q, c) ∈ [(Request.vacant, 1), (.arrival, 2), (.secured, 3), (.departure, 4), (.lockdown, 5), (.resume, 6),
      (.reset, 7)] := by
  constructor
  · intro h
    unfold requestOfCode at h
    split at h <;> cases h <;> simp
  · intro h
    simp only [List.mem_cons, Prod.mk.injEq, List.not_mem_nil, or_false] at h
    rcases h with ⟨rfl, rfl⟩ | ⟨rfl, rfl⟩ | ⟨rfl, rfl⟩ | ⟨rfl, rfl⟩ | ⟨rfl, rfl⟩ | ⟨rfl, rfl⟩ | ⟨rfl, rfl⟩ <;> rfl

theorem requestOfCode_eq_none {c : Nat} (h : c = 0 ∨ 8 ≤ c) : requestOfCode c = none := by
  unfold requestOfCode
  split
  case h_8 => rfl
  all_goals omega

/-- The form of a request word (R123). -/
theorem readRequest_eq_some_iff (w : Word) (be : ByteEnables) (q : Request) : readRequest w be = some q ↔
    be = 15 ∧ byteSum w = 0xC3#8 ∧ (w.extractLsb' 12 4).toNat = 15 - codeField w ∧
    w.extractLsb' 16 16 = 0 ∧ requestOfCode (codeField w) = some q := by
  unfold readRequest
  rw [ite_eq_iff]
  simp [isFull, checkGood, and_assoc]

theorem readRequest_eq_none {w : Word} {be : ByteEnables} (h : be ≠ 15 ∨ byteSum w ≠ 0xC3#8 ∨
      (w.extractLsb' 12 4).toNat ≠ 15 - codeField w ∨ codeField w = 0 ∨ 8 ≤ codeField w ∨
      w.extractLsb' 16 16 ≠ 0) : readRequest w be = none := by
  refine Option.eq_none_iff_forall_ne_some.mpr fun q read => ?_
  obtain ⟨full, check, confirm, upper, code⟩ := (readRequest_eq_some_iff w be q).mp read
  rcases h with h | h | h | h | h | h
  · exact h full
  · exact h check
  · exact h confirm
  · cases (requestOfCode_eq_none (.inl h)).symm.trans code
  · cases (requestOfCode_eq_none (.inr h)).symm.trans code
  · exact h upper

theorem writeRequest_unread {w : Word} {be : ByteEnables} (h : readRequest w be = none) (s : State) :
    writeRequest w be s = refuseRequest .badRequest s := by
  unfold writeRequest
  rw [h]

/-! ### The rulings (R124, R125) -/

theorem requiredHeld_iff (s : State) : requiredHeld s = true ↔ ∀ n, (s.line n).fitted = true →
    (s.line n).required = true → (s.line n).state = .locked ∨ (s.line n).state = .tending := by
  simp only [requiredHeld, List.all_eq_true, mem_allLines, forall_const]
  refine forall_congr' fun n => ?_
  cases (s.line n).fitted <;> cases (s.line n).required <;> simp

theorem noneLoose_iff (s : State) : noneLoose s = true ↔ ∀ n, (s.line n).fitted = true →
    (s.line n).state ≠ .slipping ∧ (s.line n).state ≠ .slack ∧ (s.line n).state ≠ .rewinding := by
  simp only [noneLoose, List.all_eq_true, mem_allLines, forall_const]
  refine forall_congr' fun n => ?_
  cases (s.line n).fitted <;> simp [and_assoc]

section
variable {s : State}

theorem ruling_arrival_vacant (h : s.berth.phase = .vacant) : ruling .arrival s =
    .when (s.profile.source == .loaded && s.profile.load == .idle) (changePhase .arrival id s) := by
  unfold ruling
  rw [h]

theorem ruling_arrival_secured (h : s.berth.phase = .secured) :
    ruling .arrival s = .when true (changePhase .arrival id s) := by
  unfold ruling
  rw [h]

theorem ruling_secured_arrival (h : s.berth.phase = .arrival) :
    ruling .secured s = .when (requiredHeld s) (changePhase .secured id s) := by
  unfold ruling
  rw [h]

theorem ruling_secured_departure (h : s.berth.phase = .departure) :
    ruling .secured s = .when (noneLoose s) (changePhase .secured flush s) := by
  unfold ruling
  rw [h]

theorem ruling_departure (h : s.berth.phase = .secured) :
    ruling .departure s = .when true (changePhase .departure id s) := by
  unfold ruling
  rw [h]

theorem ruling_vacant (h : s.berth.phase = .arrival ∨ s.berth.phase = .departure) :
    ruling .vacant s = .when s.allParked (changePhase .vacant id s) := by
  unfold ruling
  rcases h with h | h <;> rw [h]

theorem ruling_lockdown (h : s.berth.phase = .vacant ∨ s.berth.phase = .arrival ∨ s.berth.phase = .secured ∨
    s.berth.phase = .departure ∨ s.berth.phase = .lockdown) :
    ruling .lockdown s = .when true (raiseCause .hostRequest false s) := by
  unfold ruling
  rcases h with h | h | h | h | h <;> rw [h]

/-- A pairing that R124 does not list. -/
theorem ruling_wrongPhase {q : Request} (h : (q, s.berth.phase) ∉ [(Request.arrival, Phase.vacant),
      (.secured, .arrival), (.vacant, .arrival), (.departure, .secured), (.arrival, .secured),
      (.secured, .departure), (.vacant, .departure), (.lockdown, .vacant), (.lockdown, .arrival),
      (.lockdown, .secured), (.lockdown, .departure), (.lockdown, .lockdown), (.resume, .lockdown),
      (.reset, .vacant), (.reset, .lockdown)]) : ruling q s = .wrongPhase := by
  unfold ruling
  revert h
  cases q <;> cases s.berth.phase <;> simp

end

/-! ### Requests accepted -/

/-- An accepted change of phase without actions: the berth block, its record, and nothing else (R122, R126). -/
theorem exec_accepted {i : Instr} {w : Word} {q : Request} {s : State} {p : Phase} {c : Bool} {silence : Timer}
    (row : RequestRow i w 15) (takes : s.takesWords) (read : readRequest w 15 = some q)
    (rule : ruling q (hostActivity s) = .when c (changePhase p id (hostActivity s))) (holds : c = true)
    (stays : p ≠ .starting) (timer : silence = if p.runsSilence then
        (if s.berth.phase.runsSilence then s.berth.silence.map fun _ => s.ticksFor (hostSilenceTime s.image)
          else some (s.ticksFor (hostSilenceTime s.image))) else none) :
    ∃ u, exec i s = .next (arbitrate u) ∧ u.berth = { s.berth with phase := p, silence := silence } ∧
      u.lines = s.lines ∧ u.queue = s.queue ∧ u.bus.orderLane = s.bus.orderLane ∧ u.scan = s.scan ∧
      u.profile = s.profile ∧ u.supply = s.supply ∧ u.report = s.report ∧ 12 ∈ u.bus.reportLane := by
  obtain ⟨lines, queue, bus, scan, profile, supply, report⟩ := changePhase_fields p (hostActivity s)
  refine ⟨changePhase p id (hostActivity s), ?_, ?_, lines, queue, Bus.bare_orderLane bus, scan, profile, supply,
    report, changePhase_mem stays id fun _ => rfl⟩
  · rw [exec_requestRow_taken row takes, writeRequest_ruled read rule, if_pos holds]
  · rw [changePhase_berth, timer]
    rfl

/-- The flush asks for the record of every line it ends an entry of (R31). -/
theorem mem_flush {e : Entry} {s : State} (held : e ∈ s.queue) (speaks : s.berth.phase.silent = false) :
    e.line.castSucc ∈ (flush s).bus.reportLane := by
  unfold flush
  rw [if_neg (List.ne_nil_of_mem held)]
  refine askRecord_mem (foldl_reaches (I := fun t => t.berth.phase.silent = false)
    (P := fun t => e.line.castSucc ∈ t.bus.reportLane) held speaks (fun t x h => ?_) (fun t h => ?_) fun t x h => ?_)
  · rw [endEntry_berth]
    exact h
  · exact setLineNotice_mem (mem_askLine h)
  · exact setLineNotice_mem (askRecord_mem h)

theorem mem_of_entry {n : LineId} {e : Entry} {s : State} (h : s.entry n = some e) : e ∈ s.queue :=
  List.mem_of_find?_eq_some h

/-- The return from DEPARTURE to SECURED, with its flush (R122, R124). -/
theorem changePhase_flush (p : Phase) (s : State) :
    changePhase p flush s = askBerth (silenceAt s.berth.phase (flush { s with berth := { s.berth with phase := p } })) :=
  rfl

theorem silenceAt_berth (old : Phase) (s : State) : (silenceAt old s).berth = { s.berth with
    silence := if s.berth.phase.runsSilence then
        (if old.runsSilence then s.berth.silence else some (s.ticksFor (hostSilenceTime s.image)))
      else none } := rfl

/-- Settles O31: the pairings accepted. -/
theorem requestsAccepted : Obligations.RequestsAccepted := by
  unfold Obligations.RequestsAccepted
  intro i w q s row takes read
  refine ⟨?_, ?_, ?_, ?_, ?_, ?_⟩
  · rintro rfl vacant loaded idle
    exact exec_accepted row takes read (ruling_arrival_vacant vacant)
      (by simp [loaded, idle]) (by simp) (by rw [vacant]; rfl)
  · rintro rfl secured
    exact exec_accepted row takes read (ruling_arrival_secured secured) rfl (by simp) (by rw [secured]; rfl)
  · rintro rfl arrival held
    exact exec_accepted row takes read (ruling_secured_arrival arrival)
      ((requiredHeld_iff (hostActivity s)).mpr held) (by simp) (by rw [arrival]; rfl)
  · rintro rfl secured
    exact exec_accepted row takes read (ruling_departure secured) rfl (by simp) (by rw [secured]; rfl)
  · rintro rfl phase parked
    exact exec_accepted row takes read (ruling_vacant phase)
      ((allParked_iff (hostActivity s)).mpr parked) (by simp) rfl
  · rintro rfl departure sound tight
    have run := exec_requestRow_taken row takes
    rw [writeRequest_ruled (s := hostActivity s) read (ruling_secured_departure departure),
      if_pos ((noneLoose_iff (hostActivity s)).mpr tight), changePhase_flush] at run
    generalize start : { hostActivity s with berth := { (hostActivity s).berth with phase := .secured } } = z at run
    have entry : ∀ n, z.entry n = s.entry n := fun n => by rw [← start]; rfl
    have line : ∀ n, (flush z).line n = (s.line n).flushed (s.entry n) := fun n => by
      rw [line_flush (by rw [← start]; exact sound.queueLines), entry, ← start]
      rfl
    have speaks : z.berth.phase.silent = false := by rw [← start]; rfl
    refine ⟨_, run, ?_, ?_, fun n e held => ?_, fun n alone => ?_, ?_, ?_, fun n e held => ?_, ?_, ?_, ?_, ?_⟩
    · rw [askBerth_queue]
      exact flush_queue_empty z
    · have old : (hostActivity s).berth.phase = .departure := departure
      have ticks : (flush z).ticksFor = s.ticksFor ∧ (flush z).image = s.image := by
        unfold State.ticksFor State.image
        rw [flush_atTick, flush_profile, ← start]
        exact ⟨rfl, rfl⟩
      rw [askBerth_berth, silenceAt_berth, flush_berth, old, ticks.1, ticks.2, ← start]
      rfl
    · rw [line_askBerth]
      change (flush z).line n = _
      rw [line, held]
      rfl
    · rw [line_askBerth]
      change (flush z).line n = _
      rw [line, alone]
      rfl
    · rw [Bus.bare_orderLane (askBerth_bare _)]
      change (flush z).bus.orderLane = _
      rw [Bus.bare_orderLane (flush_bare z), ← start]
      rfl
    · refine mem_askBerth (Phase.not_starting ?_)
      change (flush z).berth.phase.silent = false
      rw [flush_berth]
      exact speaks
    · have own := entry_line held
      subst own
      exact askRecord_mem (mem_flush (mem_of_entry ((entry _).trans held)) speaks)
    · rw [askBerth_scan, silenceAt_scan, flush_scan, ← start]
      rfl
    · rw [askBerth_profile, silenceAt_profile, flush_profile, ← start]
      rfl
    · rw [askBerth_supply, silenceAt_supply, flush_supply, ← start]
      rfl
    · rw [askBerth_report, silenceAt_report, flush_notices, ← start]
      rfl

/-! ### Requests refused -/

/-- A row that writes the berth request word, and the part as it finds it: RESET shows its levels (log 10). -/
theorem exec_request {i : Instr} {w : Word} {be : ByteEnables} {s v : State} (takes : s.takesWords)
    (row : RequestRow i w be ∧ v = s ∨ ∃ straps, i = .resetRequest w be straps ∧ v = setStraps straps s) :
    v.takesWords ∧ exec i s = .next (arbitrate (writeRequest w be (hostActivity v))) := by
  rcases row with ⟨row, rfl⟩ | ⟨straps, rfl, rfl⟩
  · exact ⟨takes, exec_requestRow_taken row takes⟩
  · exact ⟨takes, exec_resetRequest takes w be straps⟩

theorem exec_request_refused {i : Instr} {w : Word} {be : ByteEnables} {s v : State} {r : RequestRefusal}
    (takes : s.takesWords)
    (row : RequestRow i w be ∧ v = s ∨ ∃ straps, i = .resetRequest w be straps ∧ v = setStraps straps s)
    (ends : writeRequest w be (hostActivity v) = refuseRequest r (hostActivity v)) :
    ∃ u, exec i s = .next (arbitrate u) ∧ RefusedRequest v u r := by
  obtain ⟨takes', run⟩ := exec_request takes row
  rw [ends] at run
  exact ⟨_, run, refusedRequest_refuseRequest takes' r⟩

/-- A condition of R125 that fails. -/
theorem writeRequest_notReady {w : Word} {be : ByteEnables} {q : Request} {s t : State} {c : Bool}
    (read : readRequest w be = some q) (rule : ruling q s = .when c t) (fails : c ≠ true) :
    writeRequest w be s = refuseRequest .notReady s := by
  rw [writeRequest_ruled read rule, if_neg fails]

/-- Settles O32: the three ways a request is refused. -/
theorem requestsRefused : Obligations.RequestsRefused := by
  unfold Obligations.RequestsRefused
  refine ⟨fun w be q => ?_, fun i w be s v takes row => ?_⟩
  · rw [← requestOfCode_eq_some_iff]
    exact readRequest_eq_some_iff w be q
  have same : v.berth = s.berth ∧ v.profile = s.profile ∧ v.lines = s.lines := by
    rcases row with ⟨-, rfl⟩ | ⟨straps, -, rfl⟩ <;> exact ⟨rfl, rfl, rfl⟩
  obtain ⟨berth, profile, lines⟩ := same
  have line : ∀ n, v.line n = s.line n := fun n => by
    unfold State.line
    rw [lines]
  have phase : (hostActivity v).berth.phase = s.berth.phase := by rw [hostActivity_phase, berth]
  refine ⟨fun form => exec_request_refused takes row (writeRequest_unread (readRequest_eq_none form) _),
    fun q read => ⟨fun unlisted => ?_, ?_, ?_, ?_, ?_, ?_⟩⟩
  · refine exec_request_refused takes row (writeRequest_wrongPhase read (ruling_wrongPhase ?_))
    rw [phase]
    exact unlisted
  · rintro rfl vacant busy
    refine exec_request_refused takes row (writeRequest_notReady read (ruling_arrival_vacant (phase.trans vacant)) ?_)
    rw [hostActivity_profile, profile]
    rcases busy with h | h <;> simp [h]
  · rintro rfl arrival ⟨n, fitted, required, unlocked, untended⟩
    refine exec_request_refused takes row (writeRequest_notReady read (ruling_secured_arrival (phase.trans arrival)) ?_)
    rw [Ne, requiredHeld_iff]
    intro held
    have own := held n
    rw [hostActivity_line, line] at own
    exact (own fitted required).elim unlocked untended
  · rintro rfl from_ ⟨n, fitted, out⟩
    refine exec_request_refused takes row (writeRequest_notReady read
      (ruling_vacant (from_.imp phase.trans phase.trans)) ?_)
    rw [Ne, allParked_iff]
    intro parked
    have own := parked n
    rw [hostActivity_line, line] at own
    exact out (own fitted)
  · rintro rfl departure ⟨n, fitted, loose⟩
    refine exec_request_refused takes row (writeRequest_notReady read
      (ruling_secured_departure (phase.trans departure)) ?_)
    rw [Ne, noneLoose_iff]
    intro tight
    have own := tight n
    rw [hostActivity_line, line] at own
    obtain ⟨slipping, slack, rewinding⟩ := own fitted
    exact loose.elim slipping fun h => h.elim slack rewinding
  · rintro rfl lockdown busy
    refine exec_request_refused takes row (writeRequest_resume_notReady read (phase.trans lockdown) ?_)
    rw [hostActivity_profile, profile]
    exact busy.imp_left fun h => by
      change v.berth.present ≠ 0
      rwa [berth]

end Sys2Proof.Machine
end

section
/-! SUPPORT. The ways into LOCKDOWN (R129, R131, R137), the supply flags (R137, R138) and the acknowledge word
(R173). -/

namespace Sys2Proof.Machine

/-! ### The notices of lockdown entry -/

/-- Lockdown entry sets no notice but LOCKDOWN_ENTERED (R132). -/
theorem notice_enterLockdown_other {k : BerthNotice} (h : k ≠ .lockdownEntered) (c : LockdownCause) (s : State) :
    (enterLockdown c s).notice k = s.notice k := by
  have locks : ∀ t : State, (eachLine (lockdownLock c) t).report.notices = t.report.notices := fun t =>
    eachLine_same (fun u => u.report.notices) (fun n u => by
      unfold lockdownLock transition
      split
      · rw [settle_notices, partOrder_report, enterState_report]
      · rfl) t
  have actions : ∀ t : State, (entryActions c t).notice k = t.notice k := fun t => by
    have locked := (locks (flush t)).trans (flush_notices t)
    unfold entryActions
    rw [notice_setBerthNotice_other h]
    generalize eachLine (lockdownLock c) (flush t) = y at *
    exact notice_of_notices ((congrArg Reporting.notices
      (eachLine_modLine_report (fun _ l => { l with latch := none }) (withdrawPairs y))).trans locked) k
  unfold enterLockdown changePhase
  rw [notice_askBerth]
  exact actions _

theorem notice_addCause (c : LockdownCause) (p : Bool) (s : State) (k : BerthNotice) :
    (addCause c p s).notice k = s.notice k := by
  obtain ⟨-, -, -, -, -, -, -, report, -⟩ := setCauses_fields (s.berth.causes ||| c.bit)
    (if p then s.berth.present ||| c.bit else s.berth.present) s
  exact notice_congr report k

theorem addCause_phase (c : LockdownCause) (p : Bool) (s : State) :
    (addCause c p s).berth.phase = s.berth.phase := by rw [addCause_berth]

/-- Raising a cause sets no notice but LOCKDOWN_ENTERED (R131). -/
theorem notice_raiseCause_other {k : BerthNotice} (h : k ≠ .lockdownEntered) (c : LockdownCause) (p : Bool)
    (s : State) : (raiseCause c p s).notice k = s.notice k := by
  have entered := (notice_enterLockdown_other h c (addCause c p s)).trans (notice_addCause c p s k)
  unfold raiseCause
  dsimp only
  split
  case h_5 =>
    split
    · rw [notice_setBerthNotice_other h, notice_addCause]
    · exact notice_addCause c p s k
  case h_6 | h_7 => exact notice_addCause c p s k
  all_goals exact entered

/-- In STARTING and HALTED a raised cause joins the sets alone (R131). -/
theorem raiseCause_silent {c : LockdownCause} {p : Bool} {s : State}
    (h : s.berth.phase = .starting ∨ s.berth.phase = .halted) : raiseCause c p s = addCause c p s := by
  unfold raiseCause
  dsimp only
  rw [addCause_phase]
  rcases h with h | h <;> rw [h]

/-- In LOCKDOWN a raised cause joins the sets, with the notice where it is new (R131). -/
theorem raiseCause_lockdown {c : LockdownCause} {p : Bool} {s : State} (h : s.berth.phase = .lockdown) :
    raiseCause c p s =
      if s.berth.causes.has c then addCause c p s else setBerthNotice .lockdownEntered (addCause c p s) := by
  unfold raiseCause
  dsimp only
  rw [addCause_phase, h]
  cases s.berth.causes.has c <;> rfl

/-- Outside VACANT to DEPARTURE a raised cause changes the two sets and no line (R131). -/
theorem raiseCause_kept {c : LockdownCause} {p : Bool} {s : State}
    (h : s.berth.phase = .starting ∨ s.berth.phase = .halted ∨ s.berth.phase = .lockdown) :
    (raiseCause c p s).berth = { s.berth with
      causes := s.berth.causes ||| c.bit
      present := if p then s.berth.present ||| c.bit else s.berth.present } ∧
    (raiseCause c p s).lines = s.lines ∧ (raiseCause c p s).queue = s.queue ∧
    (raiseCause c p s).bus.orderLane = s.bus.orderLane := by
  obtain ⟨-, lines, queue, bus, -⟩ := setCauses_fields (s.berth.causes ||| c.bit)
    (if p then s.berth.present ||| c.bit else s.berth.present) s
  have lane := Bus.bare_orderLane bus
  rw [← or_assoc] at h
  rcases h with h | h
  · rw [raiseCause_silent h]
    exact ⟨addCause_berth c p s, lines, queue, lane⟩
  · rw [raiseCause_lockdown h]
    split
    · exact ⟨addCause_berth c p s, lines, queue, lane⟩
    · rw [setBerthNotice_berth, lines_setBerthNotice, setBerthNotice_queue,
        Bus.bare_orderLane (setBerthNotice_bare _ _)]
      exact ⟨addCause_berth c p s, lines, queue, lane⟩

/-! ### Lockdown entered -/

/-- A request for the berth record leaves a lockdown entry as it is. -/
theorem EnteredLockdown.askBerth {c : LockdownCause} {s u : State} (h : EnteredLockdown c s u) :
    EnteredLockdown c s (askBerth u) := by
  have lane : (Machine.askBerth u).bus.orderLane = u.bus.orderLane := Bus.bare_orderLane (askBerth_bare u)
  refine ⟨?_, ?_, ?_, ?_, ?_, ?_, ?_, ?_, ?_, ?_, ?_, ?_, askRecord_mem h.record, ?_, ?_⟩
  · rw [askBerth_berth]
    exact h.phase
  · rw [askBerth_berth]
    exact h.causes
  · rw [askBerth_berth]
    exact h.silence
  · rw [askBerth_queue]
    exact h.queue
  · simpa only [line_askBerth] using h.flushed
  · simpa only [line_askBerth, lane] using h.moving
  · simpa only [line_askBerth] using h.drum
  · simpa only [line_askBerth] using h.still
  · simpa only [line_askBerth] using h.latches
  · simpa only [lane] using h.lane
  · simpa only [lane] using h.kept
  · rw [notice_askBerth]
    exact h.notice
  · simpa only [line_askBerth] using h.drums
  · rw [askBerth_profile]
    exact h.blocks

theorem setBerthNotice_orderLane (k : BerthNotice) (s : State) :
    (setBerthNotice k s).bus.orderLane = s.bus.orderLane := Bus.bare_orderLane (setBerthNotice_bare k s)

/-- The command of an expiry that stands due, with the supply up (log 3). -/
theorem exec_due {e : Expiry} {s : State} (power : s.supply.powered = true) (due : e.StandsDue s) :
    exec (e.command 0) s = .next (arbitrate { e.take { s with atTick := true } with atTick := false }) := by
  rw [exec_command]
  exact congrArg Host.Outcome.next (event_expire_due power ((due_iff e s).mpr due))

/-- The command of an expiry that does not stand due changes nothing (log 3). -/
theorem exec_idle {e : Expiry} {s : State} (power : s.supply.powered = true) (idle : ¬ e.StandsDue s) :
    exec (e.command 0) s = .next (arbitrate { s with atTick := false }) := by
  have later : e.due s = false := by
    rw [← Bool.not_eq_true, due_iff]
    exact idle
  rw [exec_command]
  exact congrArg Host.Outcome.next (event_expire_idle power later)

theorem exec_supplyWarning {s : State} (power : s.supply.powered = true) :
    exec .supplyWarning s = .next (arbitrate (supplyWarningEvent s)) := congrArg Host.Outcome.next (if_pos power)

theorem exec_supplyRecovery {s : State} (power : s.supply.powered = true) :
    exec .supplyRecovery s = .next (arbitrate (supplyRecoveryEvent s)) := congrArg Host.Outcome.next (if_pos power)

/-- A supply warning taken (R137). -/
theorem supplyWarningEvent_taken {s : State} (stage : s.supply.stage ≠ .reset) (clear : s.supply.live = false) :
    supplyWarningEvent s =
      askBerth (raiseCause .supplyLow true (setBerthNotice .supplyWarning (setSupplyFlags true true s))) :=
  if_neg (by simp [stage, clear])

/-- Settles O33: the three ways into LOCKDOWN, and the request in LOCKDOWN. -/
theorem lockdownEntered : Obligations.LockdownEntered := by
  unfold Obligations.LockdownEntered
  refine ⟨fun s power sound phase => ⟨fun i w row takes read => ?_, fun due => ?_, fun clear stage => ?_⟩,
    fun i w s row takes read lockdown => ?_⟩
  · have run := exec_requestRow_taken row takes
    rw [writeRequest_ruled (s := hostActivity s) read
      (ruling_lockdown (by rw [hostActivity_phase]; tauto)), if_pos rfl] at run
    obtain ⟨entered, present, supply, -⟩ := enteredLockdown_raiseCause (s := s) (z := hostActivity s)
      (c := .hostRequest) (p := false) sound.queueLines phase rfl rfl rfl rfl rfl rfl
    exact ⟨_, run, entered, fun k hk => notice_raiseCause_other hk _ _ (hostActivity s), present, supply⟩
  · have run := exec_due (e := .silence) power due
    obtain ⟨entered, present, supply, -⟩ := enteredLockdown_raiseCause (s := { s with atTick := true })
      (z := { s with atTick := true }) (c := .hostSilent) (p := false) sound.queueLines phase rfl rfl rfl rfl rfl rfl
    exact ⟨_, run, entered, fun k hk => notice_raiseCause_other hk _ _ { s with atTick := true }, present, supply⟩
  · have run := exec_supplyWarning power
    rw [supplyWarningEvent_taken stage clear] at run
    have berth : (setBerthNotice .supplyWarning (setSupplyFlags true true s)).berth = s.berth :=
      setBerthNotice_berth _ _
    obtain ⟨entered, present, supply, notices⟩ := enteredLockdown_raiseCause (s := s)
      (z := setBerthNotice .supplyWarning (setSupplyFlags true true s)) (c := .supplyLow) (p := true)
      sound.queueLines (by rw [berth]; exact phase) (lines_setBerthNotice _ _) (setBerthNotice_queue _ _)
      (setBerthNotice_profile _ _) (by rw [berth]) (setBerthNotice_orderLane _ _) (setBerthNotice_atTick _ _)
    refine ⟨_, run, entered.askBerth, ?_, ?_, ?_, fun k hk hw => ?_⟩
    · rw [askBerth_berth, present, berth]
      rfl
    · rw [askBerth_supply, supply, setBerthNotice_supply]
      rfl
    · rw [notice_askBerth]
      exact notices _ (notice_setBerthNotice _ _)
    · rw [notice_askBerth, notice_raiseCause_other hk, notice_setBerthNotice_other hw]
      rfl
  · have run := exec_requestRow_taken row takes
    have phase : (hostActivity s).berth.phase = .lockdown := lockdown
    rw [writeRequest_ruled (s := hostActivity s) read (ruling_lockdown (.inr (.inr (.inr (.inr phase))))),
      if_pos rfl] at run
    obtain ⟨berth, lines, queue, lane⟩ := raiseCause_kept (c := .hostRequest) (p := false) (s := hostActivity s)
      (.inr (.inr phase))
    refine ⟨_, run, berth, lines, queue, lane, fun k hk => notice_raiseCause_other hk _ _ (hostActivity s),
      fun new => ?_, fun old => ?_⟩
    · have new' : (hostActivity s).berth.causes.has .hostRequest = false := new
      rw [raiseCause_lockdown phase, new', if_neg (by simp)]
      exact notice_setBerthNotice _ _
    · have old' : (hostActivity s).berth.causes.has .hostRequest = true := old
      rw [raiseCause_lockdown phase, if_pos old']
      obtain ⟨-, -, -, -, -, -, -, report, -⟩ := setCauses_fields
        ((hostActivity s).berth.causes ||| LockdownCause.hostRequest.bit)
        (hostActivity s).berth.present (hostActivity s)
      exact report

/-- Settles O35: the supply flags, by stage and live flag. -/
theorem supplyFlags : Obligations.SupplyFlags := by
  unfold Obligations.SupplyFlags
  intro s power
  rw [exec_supplyWarning power, exec_supplyRecovery power]
  refine ⟨fun reset => ⟨?_, ?_⟩, fun stage live => ⟨?_, ?_⟩, fun stage clear => ⟨?_, fun phase => ?_⟩⟩
  · unfold supplyWarningEvent
    rw [if_pos (.inl reset)]
  · unfold supplyRecoveryEvent
    rw [if_neg (by simp [reset])]
  · unfold supplyWarningEvent
    rw [if_pos (.inr live)]
  · refine ⟨supplyRecoveryEvent s, rfl, ?_⟩
    obtain ⟨berth, lines, queue, -, -, -, supply, report, -⟩ := setCauses_fields s.berth.causes
      (s.berth.present &&& ~~~LockdownCause.supplyLow.bit) (setSupplyFlags false s.supply.latched s)
    unfold supplyRecoveryEvent
    rw [if_pos ⟨stage, live⟩, askBerth_supply, askBerth_berth, lines_askBerth, askBerth_queue, askBerth_report]
    exact ⟨supply, berth, lines, queue, report⟩
  · unfold supplyRecoveryEvent
    rw [if_neg (by simp [clear])]
  · refine ⟨supplyWarningEvent s, rfl, ?_⟩
    rw [supplyWarningEvent_taken stage clear]
    have berth' : (setBerthNotice .supplyWarning (setSupplyFlags true true s)).berth = s.berth :=
      setBerthNotice_berth _ _
    obtain ⟨berth, lines, queue, -⟩ := raiseCause_kept (c := .supplyLow) (p := true)
      (s := setBerthNotice .supplyWarning (setSupplyFlags true true s)) (by rw [berth']; exact phase)
    rw [askBerth_supply, askBerth_berth, lines_askBerth, askBerth_queue, notice_askBerth, raiseCause_supply, berth,
      lines, queue, berth', notice_raiseCause_other (by simp), notice_setBerthNotice, setBerthNotice_supply,
      lines_setBerthNotice, setBerthNotice_queue]
    exact ⟨rfl, rfl, rfl, rfl, rfl⟩

/-! ### The acknowledge word -/

theorem exec_acknowledge {s : State} (takes : s.takesWords) (w : Word) (be : ByteEnables) :
    exec (.acknowledgeWordWrite w be) s = .next (arbitrate (writeAcknowledge w be (hostActivity s))) :=
  congrArg Host.Outcome.next (hostWrite_acknowledge takes w be)

theorem ackForm_iff (w : Word) (be : ByteEnables) : ackForm w be = true ↔
    be = 15 ∧ w.extractLsb' 12 4 = 0 ∧ w.extractLsb' 24 8 = 0 := by
  simp [ackForm, isFull, and_assoc]

/-- The notices cleared, the latched flag with SUPPLY_WARNING, ATTN judged again (R173 steps 1 to 3). -/
def acknowledged (w : Word) (s : State) : State :=
  judgeAttn (if (ackBerth w).getLsbD BerthNotice.supplyWarning.code
    then setSupplyFlags (clearNotices w s).supply.live false (clearNotices w s) else clearNotices w s)

/-- The records of the lines whose notice the word clears. -/
def askNamed (w : Word) (old s : State) : State :=
  eachLine (fun n t => if (old.line n).notice && ackNames w n then askLine n t else t) s

theorem writeAcknowledge_formed {w : Word} {be : ByteEnables} (h : ackForm w be = true) (s : State) :
    writeAcknowledge w be s =
      if (allLines.any fun n => (s.line n).notice && ackNames w n)
        || (askNamed w s (acknowledged w s)).report.notices != s.report.notices
        || (askNamed w s (acknowledged w s)).supply.latched != s.supply.latched
      then askBerth (askNamed w s (acknowledged w s)) else askNamed w s (acknowledged w s) := if_pos h

theorem clearNotices_line (w : Word) (s : State) (n : LineId) : (clearNotices w s).line n =
    { s.line n with notice := (s.line n).notice && !ackNames w n } :=
  line_eachLine_modLine (fun n l => { l with notice := l.notice && !ackNames w n }) n s

/-- What the word's clearing leaves beside the notices and the latched flag. -/
theorem acknowledged_fields (w : Word) (s : State) :
    (∀ n, (acknowledged w s).line n = { s.line n with notice := (s.line n).notice && !ackNames w n }) ∧
    (acknowledged w s).report.notices = s.report.notices &&& ~~~(ackBerth w) ∧
    (acknowledged w s).report.attn = (acknowledged w s).anyNotice ∧
    (acknowledged w s).supply = { s.supply with
      latched := s.supply.latched && !((ackBerth w).getLsbD BerthNotice.supplyWarning.code) } ∧
    (acknowledged w s).queue = s.queue ∧ (acknowledged w s).bus = s.bus ∧ (acknowledged w s).scan = s.scan ∧
    (acknowledged w s).berth = s.berth ∧ (acknowledged w s).profile = s.profile := by
  have lines := clearNotices_line w s
  have rest := eachLine_keeps (f := fun n => modLine n fun l => { l with notice := l.notice && !ackNames w n })
    (P := fun t => t.queue = s.queue ∧ t.bus = s.bus ∧ t.scan = s.scan ∧ t.berth = s.berth ∧
      t.profile = s.profile ∧ t.report = s.report ∧ t.supply = s.supply)
    (fun n t h => h) (s := s) ⟨rfl, rfl, rfl, rfl, rfl, rfl, rfl⟩
  obtain ⟨queue, bus, scan, berth, profile, report, supply⟩ := rest
  have supply' : (clearNotices w s).supply = s.supply := supply
  have notices : (clearNotices w s).report.notices = s.report.notices &&& ~~~(ackBerth w) := by
    change (eachLine _ s).report.notices &&& _ = _
    rw [report]
  unfold acknowledged
  cases (ackBerth w).getLsbD BerthNotice.supplyWarning.code with
  | true =>
    rw [if_pos rfl]
    refine ⟨lines, notices, rfl, ?_, queue, bus, scan, berth, profile⟩
    have latched : (judgeAttn (setSupplyFlags (clearNotices w s).supply.live false (clearNotices w s))).supply =
        { (clearNotices w s).supply with latched := false } := rfl
    rw [latched, supply']
    simp
  | false =>
    rw [if_neg (by simp)]
    refine ⟨lines, notices, rfl, ?_, queue, bus, scan, berth, profile⟩
    change (clearNotices w s).supply = _
    rw [supply']
    simp

/-- The requests for records change no more than the report lane. -/
theorem askNamed_fields (w : Word) (old s : State) : (askNamed w old s).lines = s.lines ∧
    (askNamed w old s).report = s.report ∧ (askNamed w old s).supply = s.supply ∧
    (askNamed w old s).queue = s.queue ∧ (askNamed w old s).bus.bare = s.bus.bare ∧
    (askNamed w old s).scan = s.scan ∧ (askNamed w old s).berth = s.berth ∧
    (askNamed w old s).profile = s.profile := by
  refine eachLine_keeps (P := fun t => t.lines = s.lines ∧ t.report = s.report ∧ t.supply = s.supply ∧
    t.queue = s.queue ∧ t.bus.bare = s.bus.bare ∧ t.scan = s.scan ∧ t.berth = s.berth ∧ t.profile = s.profile)
    (fun n t h => ?_) ⟨rfl, rfl, rfl, rfl, rfl, rfl, rfl, rfl⟩
  split
  · simpa using h
  · exact h

theorem mem_askNamed {w : Word} {old s : State} {n : LineId} (speaks : s.berth.phase.silent = false)
    (named : ((old.line n).notice && ackNames w n) = true) :
    n.castSucc ∈ (askNamed w old s).bus.reportLane := by
  refine eachLine_reaches (I := fun t => t.berth.phase.silent = false)
    (P := fun t => n.castSucc ∈ t.bus.reportLane) n speaks (fun m t h => ?_) (fun t h => ?_) fun m t h => ?_
  · split
    · simpa using h
    · exact h
  · rw [if_pos named]
    exact mem_askLine h
  · split
    · exact askRecord_mem h
    · exact h

theorem notice_cleared {s t : State} {w : Word} (h : t.report.notices = s.report.notices &&& ~~~(ackBerth w))
    (k : BerthNotice) : t.notice k = (s.notice k && !(w.getLsbD (16 + k.code))) := by
  have lt := k.code_lt
  unfold State.notice
  rw [h]
  simp [ackBerth, lt]

/-- Notices that a mask meets do not outlast it. -/
theorem cleared_ne {x m : BitVec 8} (h : x &&& m ≠ 0) : x &&& ~~~m ≠ x := by
  intro same
  refine h ?_
  rw [← same, BitVec.and_assoc]
  simp

/-- Settles O36: the acknowledge word, by its form. -/
theorem acknowledgeClears : Obligations.AcknowledgeClears := by
  unfold Obligations.AcknowledgeClears
  intro w be s takes
  refine ⟨fun full low high => ?_, fun form => ?_⟩
  · have run := exec_acknowledge takes w be
    rw [writeAcknowledge_formed ((ackForm_iff w be).mpr ⟨full, low, high⟩)] at run
    obtain ⟨line, notices, attn, supply, queue, bus, scan, berth, profile⟩ := acknowledged_fields w (hostActivity s)
    obtain ⟨lines', report', supply', queue', bus', scan', berth', profile'⟩ :=
      askNamed_fields w (hostActivity s) (acknowledged w (hostActivity s))
    have speaks : (acknowledged w (hostActivity s)).berth.phase.silent = false := by
      rw [berth]
      exact takes.2.2
    have named : ∀ n : LineId, (s.line n).notice = true → w.getLsbD n.val = true →
        n.castSucc ∈ (askNamed w (hostActivity s) (acknowledged w (hostActivity s))).bus.reportLane :=
      fun n set names => mem_askNamed speaks (by simp [set, ackNames, names])
    have loud : (askNamed w (hostActivity s) (acknowledged w (hostActivity s))).berth.phase ≠ .starting := by
      rw [berth']
      exact Phase.not_starting speaks
    have anyNotice : ∀ t : State, t.lines = (acknowledged w (hostActivity s)).lines →
        t.report = (acknowledged w (hostActivity s)).report → t.report.attn = t.anyNotice := fun t hl hr => by
      unfold State.anyNotice State.line
      rw [hl, hr]
      exact attn
    generalize asked : askNamed w (hostActivity s) (acknowledged w (hostActivity s)) = a at *
    -- Whether or not the berth record is asked for, the rest is that of `a`.
    generalize cond : ((allLines.any fun n => ((hostActivity s).line n).notice && ackNames w n)
        || a.report.notices != (hostActivity s).report.notices
        || a.supply.latched != (hostActivity s).supply.latched) = c at run
    have asks : c = true → 12 ∈ (if c then askBerth a else a).bus.reportLane := fun h => by
      rw [if_pos h]
      exact mem_askBerth loud
    have kept : ∀ {q : RecId}, q ∈ a.bus.reportLane → q ∈ (if c then askBerth a else a).bus.reportLane := by
      intro q h
      split
      · exact askRecord_mem h
      · exact h
    have same : (if c then askBerth a else a).lines = a.lines ∧ (if c then askBerth a else a).report = a.report ∧
        (if c then askBerth a else a).supply = a.supply ∧ (if c then askBerth a else a).queue = a.queue ∧
        (if c then askBerth a else a).bus.bare = a.bus.bare ∧ (if c then askBerth a else a).scan = a.scan ∧
        (if c then askBerth a else a).berth = a.berth ∧ (if c then askBerth a else a).profile = a.profile := by
      split
      · simp
      · exact ⟨rfl, rfl, rfl, rfl, rfl, rfl, rfl, rfl⟩
    generalize (if c then askBerth a else a) = u at *
    obtain ⟨lines'', report'', supply'', queue'', bus'', scan'', berth'', profile''⟩ := same
    have bits : (ackBerth w).getLsbD BerthNotice.supplyWarning.code = w.getLsbD 20 := by
      simp [ackBerth, BerthNotice.code]
    have latched : a.supply.latched = (s.supply.latched && !(w.getLsbD 20)) := by
      rw [supply', supply, bits]
      rfl
    refine ⟨u, run, fun n => ?_, ?_, fun k => ?_, anyNotice u (lines''.trans lines') (report''.trans report'), ?_,
      fun n set names => ⟨kept (named n set names), asks ?_⟩, fun met => asks ?_, fun up names => asks ?_,
      queue''.trans (queue'.trans queue), ?_, scan''.trans (scan'.trans scan), berth''.trans (berth'.trans berth),
      profile''.trans (profile'.trans profile)⟩
    · have own : u.line n = (acknowledged w (hostActivity s)).line n := by
        unfold State.line
        rw [lines'', lines']
      exact own.trans (line n)
    · rw [report'', report', notices]
      rfl
    · exact notice_cleared (s := s) (by rw [report'', report', notices]; rfl) k
    · rw [supply'', supply', supply, bits]
      rfl
    · rw [← cond]
      simp only [Bool.or_eq_true, List.any_eq_true]
      exact .inl (.inl ⟨n, mem_allLines n, by simp [set, ackNames, names]⟩)
    · rw [← cond]
      simp only [Bool.or_eq_true, bne_iff_ne]
      refine .inl (.inr ?_)
      rw [report', notices]
      exact cleared_ne met
    · rw [← cond]
      simp only [Bool.or_eq_true, bne_iff_ne]
      refine .inr ?_
      rw [latched, names]
      simp [up]
    · rw [Bus.bare_orderLane bus'', Bus.bare_orderLane bus', bus]
      rfl
  · have unformed : ackForm w be = false := by
      rw [← Bool.not_eq_true, ackForm_iff]
      tauto
    rw [exec_acknowledge takes]
    unfold writeAcknowledge
    rw [if_neg (by simp [unformed])]

end Sys2Proof.Machine
end

section
/-! SUPPORT. Host transfers (R140 to R149), the snapshot lock (R159, R160), the completions and fetches (R149,
R150, R157, R202) and the validation of an image (R184, R185, R191). -/

namespace Sys2Proof.Machine

/-! ### Transfers of the host -/

/-- A row of the host puts its transfer on the port. -/
theorem exec_transfer {i : Instr} {t : Transfer} {s : State} (h : transferOf s.bus.base i = some t) :
    exec i s = .next (present t (s.strapped i)) := by
  cases i <;> cases h <;> rfl

/-- Straps shown leave all but the straps. -/
theorem strapped_fields (i : Instr) (s : State) : (s.strapped i).bus = s.bus ∧
    (s.strapped i).supply.powered = s.supply.powered ∧ (s.strapped i).uwait = s.uwait := by
  cases i <;> exact ⟨rfl, rfl, rfl⟩

/-- A transfer that finds UWAIT driven is kept (log 5). -/
theorem present_kept {t : Transfer} {s : State} (power : s.supply.powered = true) (busy : s.uwait = true) :
    present t s = { s with bus := { s.bus with held := s.bus.held ++ [t] } } := by
  unfold present
  rw [if_neg (by simp [power]), if_pos busy]

theorem present_taken {t : Transfer} {s : State} (power : s.supply.powered = true) (free : s.uwait = false) :
    present t s = arbitrate (takeTransfer t s) := by
  unfold present
  rw [if_neg (by simp [power]), if_neg (by simp [free])]

/-- A read of a status record waits for memory, word 0 under the snapshot lock (R159). -/
theorem exec_statusRecordRead {s : State} (power : s.supply.powered = true) (free : s.uwait = false) (r : RecId)
    (k : Fin 4) (be : ByteEnables) : exec (.statusRecordRead r k be) s = .next (arbitrate (passTransfer
      ⟨false, regionWord s.bus.base (64 + 4 * r.val + k.val), 0, be⟩ (some (r, k)) (lockRecord r k s))) := by
  have run : exec (.statusRecordRead r k be) s = .next (present _ s) := rfl
  rw [run, present_read power free (by omega), targetOf_status]
  rfl

/-- Settles O40: the lock is set, let go by its timer, and heeded. -/
theorem snapshotLock : Obligations.SnapshotLock := by
  unfold Obligations.SnapshotLock
  refine ⟨fun r k be s power free => ?_, fun r s power locked => ?_, fun s l locked granted => ?_⟩
  · rw [exec_statusRecordRead power free]
    unfold lockRecord
    by_cases first : k = 0
    · rw [if_pos first, if_pos first]
      rfl
    · rw [if_neg first, if_neg first]
      rfl
  · exact exec_due (e := .snap) power ⟨⟨r, 0⟩, locked, rfl⟩
  · obtain ⟨-, -, -, unlocked, -⟩ := eligibleRecord_eq_some_iff.mp granted
    exact unlocked (snapLocked_iff.mpr ⟨l, locked, rfl⟩)

/-! ### Stray writes and passed transfers -/

theorem exec_strayWrite {s : State} (power : s.supply.powered = true) (free : s.uwait = false) (j : Fin 52)
    (w : Word) (be : ByteEnables) : exec (.strayWrite j w be) s = .next (arbitrate (strayWrite s)) := by
  have run : exec (.strayWrite j w be) s = .next (present _ s) := rfl
  obtain ⟨r, k, status⟩ := targetOf_statusArea j
  rw [run, present_write power free (by omega), status]
  rfl

theorem strayWrite_speaking {s : State} (speaks : s.berth.phase.silent = false) :
    strayWrite s = setBerthNotice .strayWrite s := if_neg (by simp [speaks])

/-- The offsets of the region without a handling of their own (R141). -/
theorem targetOf_plain {j : Nat} (h : 30 ≤ j ∧ j < 64 ∨ 116 ≤ j ∧ j < 128 ∨ 256 ≤ j) : targetOf j = .plain := by
  unfold targetOf
  rw [if_neg (by omega), if_neg (by omega), if_neg (by omega), if_neg (by omega), if_neg (by omega),
    if_neg (by omega), if_neg (by omega), if_neg (by omega), if_neg (by omega)]

/-- A read passes as the host made it, but of the sample port and of the status area (R149, R159). -/
theorem takeRead_targetOf {j : Nat} (port : j ≠ 28) (status : ¬ (64 ≤ j ∧ j < 116)) (t : Transfer) (s : State) :
    takeRead t (targetOf j) s = passTransfer t none s := by
  unfold targetOf
  rw [if_neg port, if_neg status]
  split
  · split <;> rfl
  · (repeat' split) <;> rfl

theorem classify_inside {base : BitVec 6} {a : Address} (h : a.toNat / 4096 = base.toNat) :
    classify base a = targetOf (a.toNat % 4096 / 4) := if_pos h

theorem classify_outside {base : BitVec 6} {a : Address} (h : a.toNat / 4096 ≠ base.toNat) :
    classify base a = .plain := if_neg h

theorem exec_passedWrite {s : State} (power : s.supply.powered = true) (free : s.uwait = false) (a : Address)
    (w : Word) (be : ByteEnables) : exec (.passedWrite a w be) s =
      .next (arbitrate (takeWrite ⟨true, a, w, be⟩ (classify s.bus.base a) s)) :=
  congrArg Host.Outcome.next (present_taken power free)

theorem exec_hostReadPassed {s : State} (power : s.supply.powered = true) (free : s.uwait = false) (a : Address)
    (be : ByteEnables) : exec (.hostReadPassed a be) s =
      .next (arbitrate (takeRead ⟨false, a, 0, be⟩ (classify s.bus.base a) s)) :=
  congrArg Host.Outcome.next (present_taken power free)

/-- Settles O41: writes to the status area, and transfers that pass. -/
theorem strayAndPassedTransfers : Obligations.StrayAndPassedTransfers := by
  unfold Obligations.StrayAndPassedTransfers
  refine ⟨fun j w be s power free => ?_, fun a w be s power free => ?_⟩
  · rw [exec_strayWrite power free]
    refine ⟨fun quiet => ?_, fun speaks => ?_⟩
    · by_cases silent : s.berth.phase.silent = true
      · unfold strayWrite
        rw [if_pos silent]
      · rw [strayWrite_speaking (by simpa using silent), setBerthNotice_of_set (quiet.resolve_left silent)]
    · refine ⟨_, rfl, ?_⟩
      rw [strayWrite_speaking speaks]
      refine ⟨notice_setBerthNotice _ s, fun k hk => notice_setBerthNotice_other hk s,
        fun new => berth_mem_setBerthNotice new (Phase.not_starting speaks),
        Bus.bare_snap (setBerthNotice_bare _ s), setBerthNotice_orderLane _ s, lines_setBerthNotice _ s, ?_⟩
      simp
  · intro offset outside elsewhere
    have inside : a.toNat / 4096 = s.bus.base.toNat → classify s.bus.base a = targetOf (offset / 4) :=
      classify_inside
    have plain : outside ∨ elsewhere → classify s.bus.base a = .plain := fun h => by
      by_cases out : a.toNat / 4096 = s.bus.base.toNat
      · have there : 0x078 ≤ offset ∧ offset < 0x100 ∨ 0x1D0 ≤ offset ∧ offset < 0x200 ∨ 0x400 ≤ offset :=
          h.resolve_left fun c => c out
        rw [inside out]
        exact targetOf_plain (by omega)
      · exact classify_outside out
    refine ⟨fun h => ?_, fun h => ?_⟩
    · rw [exec_passedWrite power free, plain h]
      rfl
    · rw [exec_hostReadPassed power free]
      by_cases out : a.toNat / 4096 = s.bus.base.toNat
      · have there : (0x078 ≤ offset ∧ offset < 0x100 ∨ 0x1D0 ≤ offset ∧ offset < 0x200 ∨ 0x400 ≤ offset) ∨
            offset < 0x070 ∨ 0x074 ≤ offset ∧ offset < 0x078 ∨ 0x200 ≤ offset ∧ offset < 0x400 :=
          h.resolve_left fun c => c out
        rw [inside out, takeRead_targetOf (by omega) (by omega)]
        rfl
      · rw [classify_outside out]
        rfl

/-! ### Completions -/

/-- A completing read of word 3 of the locked record lets the lock go (R159). -/
theorem releaseSnap_last {h : HostAccess} {s : State}
    (last : ∃ r, h.statusWord = some (r, 3) ∧ snapLocked s r = true) :
    releaseSnap h s = { s with bus := { s.bus with snap := none } } := by
  obtain ⟨r, word, locked⟩ := last
  unfold releaseSnap
  rw [word]
  exact if_pos ⟨rfl, locked⟩

/-- Any other completion keeps it. -/
theorem releaseSnap_other {h : HostAccess} {s : State}
    (other : ¬ ∃ r, h.statusWord = some (r, 3) ∧ snapLocked s r = true) : releaseSnap h s = s := by
  unfold releaseSnap
  split
  · rename_i r k word
    refine if_neg ?_
    rintro ⟨rfl, locked⟩
    exact other ⟨r, word, locked⟩
  · rfl

theorem presentData_fields (h : HostAccess) (w : Word) (s : State) : presentData h w s =
    { s with bus := { s.bus with readData := if h.transfer.write then s.bus.readData else w } } := by
  unfold presentData
  split <;> rfl

/-- The part after a host transfer has ended, before the arbiter meets the claims (R149, R159). -/
theorem presentData_eq (h : HostAccess) (w : Word) (s : State)
    [Decidable (∃ r, h.statusWord = some (r, 3) ∧ snapLocked s r = true)] :
    presentData h w (releaseSnap h (freePort s)) = { s with bus := { s.bus with
      dport := none
      snap := if ∃ r, h.statusWord = some (r, 3) ∧ snapLocked s r = true then none else s.bus.snap
      readData := if h.transfer.write then s.bus.readData else w } } := by
  rw [presentData_fields]
  by_cases last : ∃ r, h.statusWord = some (r, 3) ∧ snapLocked s r = true
  · rw [if_pos last, releaseSnap_last (s := freePort s) last]
    rfl
  · rw [if_neg last, releaseSnap_other (s := freePort s) last]
    rfl

theorem exec_hostTransferComplete {h : HostAccess} {w : Word} {s : State} (port : s.bus.dport = some (.host h)) :
    exec (.hostTransferComplete w) s =
      .next (drainHeld s.bus.held (arbitrate (presentData h w (releaseSnap h (freePort s))))) := by
  have held : (arbitrate (presentData h w (releaseSnap h (freePort s)))).bus.held = s.bus.held := by
    classical
    rw [(Served.arbitrate _).held, presentData_eq]
  have run : exec (.hostTransferComplete w) s = .next (hostComplete w s) := rfl
  rw [run, ← held]
  unfold hostComplete
  rw [port]

theorem exec_partWriteComplete {s : State} (port : (∃ n a o, s.bus.dport = some (.pair n a o)) ∨
      ∃ r w0 w1 w2 w3, s.bus.dport = some (.record r w0 w1 w2 w3)) :
    exec .partWriteComplete s = .next (arbitrate (freePort s)) := by
  have run : exec .partWriteComplete s = .next (partComplete s) := rfl
  rw [run]
  unfold partComplete
  rcases port with ⟨n, a, o, port⟩ | ⟨r, w0, w1, w2, w3, port⟩ <;> rw [port]

/-- Nothing kept, nothing taken. -/
theorem drainHeld_nil {s : State} (h : s.bus.held = []) : drainHeld [] s = s := by
  have bus : ({ s.bus with held := [] } : Bus) = s.bus := by rw [← h]
  unfold drainHeld
  rw [bus]

theorem drainHeld_busy {t : Transfer} {ts : List Transfer} {s : State} (h : s.uwait = true) :
    drainHeld (t :: ts) s = { s with bus := { s.bus with held := t :: ts } } := if_pos h

theorem drainHeld_free {t : Transfer} {ts : List Transfer} {s : State} (h : s.uwait = false) :
    drainHeld (t :: ts) s = drainHeld ts (arbitrate (takeTransfer t s)) := if_neg (by simp [h])

/-- Settles O42: transfers kept, ended and taken. -/
theorem transfersComplete : Obligations.TransfersComplete := by
  unfold Obligations.TransfersComplete
  refine ⟨fun i t s transfer power busy => ?_, fun w h s port none => ?_, ⟨drainHeld, fun s => rfl,
    fun t ts s => drainHeld_busy, fun t ts s i power free transfer => ?_, fun w h s port => ?_⟩,
    fun s port => exec_partWriteComplete port⟩
  · obtain ⟨bus, powered, uwait⟩ := strapped_fields i s
    rw [exec_transfer transfer, present_kept (powered.trans power) (uwait.trans busy), bus]
  · have held : (arbitrate (presentData h w (releaseSnap h (freePort s)))).bus.held = [] := by
      classical
      rw [(Served.arbitrate _).held, presentData_eq]
      exact none
    rw [exec_hostTransferComplete port, none, drainHeld_nil held, presentData_eq]
  · obtain ⟨-, powered, uwait⟩ := strapped_fields i s
    have after : s.after i = present t (s.strapped i) := by
      unfold State.after
      rw [exec_transfer transfer]
    rw [drainHeld_free (uwait.trans free), after, present_taken (powered.trans power) (uwait.trans free)]
  · rw [exec_hostTransferComplete port, presentData_eq]

end Sys2Proof.Machine
end

section
/-! SUPPORT. Fetches (R157, R158, R189, R202) and the validation of an image (R184, R185, R191). -/

namespace Sys2Proof.Machine

/-! ### The word of the adoption read -/

/-- What the adoption read takes for an order word (R202). -/
theorem recoverOrder_eq_some_iff (v : Word) (t : Tag) (k : OrderKind) : recoverOrder v = some (t, k) ↔
    byteSum v = 0xC3#8 ∧ tagField v = t ∧ t ≠ 0 ∧ codeField v = k.code ∧ k ≠ .restate := by
  have range : 1 ≤ k.code ∧ (k.code ≤ 7 ↔ k ≠ .restate) := by cases k <;> decide
  unfold recoverOrder
  rw [ite_eq_iff]
  simp only [Bool.and_eq_true, decide_eq_true_eq, bne_iff_ne, Option.map_eq_some_iff, checkGood, beq_iff_eq]
  constructor
  · rintro (⟨⟨⟨⟨check, tag⟩, -⟩, top⟩, k', kind, same⟩ | ⟨-, none⟩)
    · obtain ⟨rfl, rfl⟩ := Prod.mk.inj same
      have code := (kindOfCode_eq_some_iff _ _).mp kind
      exact ⟨check, rfl, tag, code, range.2.mp (code ▸ top)⟩
    · cases none
  · rintro ⟨check, rfl, tag, code, other⟩
    exact .inl ⟨⟨⟨⟨check, tag⟩, code ▸ range.1⟩, code ▸ range.2.mpr other⟩, k,
      (kindOfCode_eq_some_iff _ _).mpr code, rfl⟩

/-! ### The lowest line of a kind -/

/-- A search of the lines in ascending order finds the lowest (R96, R202). -/
theorem find_lowest {p : LineId → Bool} {m : LineId} (own : p m = true) (below : ∀ k, k < m → p k = false) :
    allLines.find? p = some m := by
  have ascending : allLines.Pairwise (· < ·) := by decide
  obtain ⟨before, after, split⟩ := List.append_of_mem (mem_allLines m)
  rw [List.find?_eq_some_iff_append]
  refine ⟨own, before, after, split, fun k hk => ?_⟩
  rw [split] at ascending
  have lower := (List.pairwise_append.mp ascending).2.2 k hk m List.mem_cons_self
  simp [below k lower]

theorem find_no_line {p : LineId → Bool} (h : ∀ m, p m = false) : allLines.find? p = none := by
  rw [List.find?_eq_none]
  intro m _
  simp [h m]

/-! ### A fetch delivered -/

theorem exec_fetchComplete {v : Word} {f : Fetch} {discard : Bool} {s : State}
    (port : s.bus.dport = some (.fetch f discard)) : exec (.fetchComplete v) s =
      .next (arbitrate (if discard then freePort s else deliver f v (freePort s))) := by
  have run : exec (.fetchComplete v) s = .next (fetchComplete v s) := rfl
  rw [run]
  unfold fetchComplete
  rw [port]

/-- An image word below the last joins the buffer (R189). -/
theorem deliverImage_more {v : Word} {i : Nat} {s : State} (load : s.profile.load = .loading i) (more : i < 127) :
    deliverImage v s = askFetch (.image (i + 1)) { s with profile := { s.profile with
      load := .loading (i + 1), buffer := s.profile.buffer ++ [v], sum := s.profile.sum + v } } := by
  unfold deliverImage
  rw [load]
  exact if_pos (show i + 1 < 128 by omega)

/-- The line whose order word the adoption read has delivered, the recovered tag and kind its record (R202). -/
def recovered (n : LineId) (v : Word) (s : State) : State := recordHost n ⟨recoverOrder v, none, none⟩ s

theorem deliverOrderWord_eq (n : LineId) (v : Word) (s : State) :
    deliverOrderWord n v s = adoptFrom (n.val + 1) (recovered n v s) := rfl

/-- The adoption read goes on with the next fitted line. -/
theorem adoptFrom_next {k : Nat} {m : LineId} {s : State} (above : k ≤ m.val) (fitted : (s.line m).fitted = true)
    (between : ∀ j : LineId, k ≤ j.val → j < m → (s.line j).fitted = false) :
    adoptFrom k s = askFetch (.orderWord m) s := by
  have next : nextFitted s k = some m := by
    refine find_lowest (by simp [above, fitted]) fun j lower => ?_
    by_cases reached : k ≤ j.val
    · simp [between j reached lower]
    · simp [reached]
  unfold adoptFrom
  rw [next]

/-- After the last fitted line the first pass starts. -/
theorem adoptFrom_last {k : Nat} {s : State} (none : ∀ m : LineId, k ≤ m.val → (s.line m).fitted = false) :
    adoptFrom k s = startFirstPass s := by
  have next : nextFitted s k = Option.none := find_no_line fun m => by
    by_cases reached : k ≤ m.val
    · simp [none m reached]
    · simp [reached]
  unfold adoptFrom
  rw [next]

/-- The adoption read touches no line. -/
theorem adoptFrom_lines (k : Nat) (s : State) : (adoptFrom k s).lines = s.lines := by
  unfold adoptFrom
  split <;> rfl

theorem line_recovered (n m : LineId) (v : Word) (s : State) : (recovered n v s).line m =
    if m = n then { s.line n with lastHost := ⟨recoverOrder v, none, none⟩ } else s.line m :=
  line_recordHost n m _ s

theorem fitted_recovered (n m : LineId) (v : Word) (s : State) :
    ((recovered n v s).line m).fitted = (s.line m).fitted := by
  rw [line_recovered]
  split
  · rename_i e
    rw [e]
  · rfl

/-- Settles O43: words recovered, and fetches delivered. -/
theorem fetchDelivered : Obligations.FetchDelivered := by
  unfold Obligations.FetchDelivered
  refine ⟨recoverOrder_eq_some_iff, fun v s => ⟨fun f port => ?_, fun i j port load more => ?_, fun n port => ?_⟩⟩
  · rw [exec_fetchComplete port, if_pos rfl]
    rfl
  · rw [exec_fetchComplete port, if_neg (by simp)]
    change Host.Outcome.next (arbitrate (deliverImage v (freePort s))) = _
    rw [deliverImage_more (s := freePort s) load more]
    rfl
  · have run := exec_fetchComplete (v := v) port
    rw [if_neg (by simp)] at run
    change exec _ s = .next (arbitrate (deliverOrderWord n v (freePort s))) at run
    rw [deliverOrderWord_eq] at run
    have line : ∀ m, (adoptFrom (n.val + 1) (recovered n v (freePort s))).line m =
        if m = n then { s.line n with lastHost := ⟨recoverOrder v, none, none⟩ } else s.line m := fun m => by
      unfold State.line
      rw [adoptFrom_lines]
      exact line_recovered n m v (freePort s)
    have fitted : ∀ m, ((recovered n v (freePort s)).line m).fitted = (s.line m).fitted :=
      fun m => fitted_recovered n m v (freePort s)
    have supply : (recovered n v (freePort s)).supply = s.supply := recordHost_supply n _ (freePort s)
    have scan : (recovered n v (freePort s)).scan = s.scan := recordHost_scan n _ (freePort s)
    refine ⟨_, run, (line n).trans (if_pos rfl), fun m other => (line m).trans (if_neg other),
      fun m above fit between => ?_, fun last => ?_⟩
    · rw [adoptFrom_next (m := m) above (by rw [fitted, fit]) fun j reached lower => by
        rw [fitted]
        exact between j reached lower]
      exact ⟨rfl, supply, scan⟩
    · rw [adoptFrom_last fun m reached => by
        rw [fitted]
        exact last m reached]
      have image : (recovered n v (freePort s)).image = s.image :=
        congrArg Profile.active (recordHost_profile n _ (freePort s))
      have ticks : (recovered n v (freePort s)).ticksFor = s.ticksFor := by
        funext ms
        unfold State.ticksFor
        rw [show (recovered n v (freePort s)).atTick = s.atTick from recordHost_atTick n _ (freePort s)]
      have fetch : (recovered n v (freePort s)).bus.fetch = s.bus.fetch :=
        Bus.bare_fetch (c := (freePort s).bus) (recordHost_bare n _ (freePort s))
      refine ⟨?_, ?_, fetch⟩
      · unfold startFirstPass startPacing setPass setStage
        dsimp only
        rw [supply]
      · have pacing : pacingFor (recovered n v (freePort s)) = pacingFor s := by
          unfold pacingFor
          rw [scan, image, ticks]
        change { (recovered n v (freePort s)).scan with
          pass := .running 0, pacing := pacingFor (recovered n v (freePort s)) } = _
        rw [scan, pacing]
        rfl

/-! ### Half-words and fields as numbers -/

section
variable (img : List Word)

theorem low_eq (i : Nat) : low img i = loAt img i := by
  unfold low loAt numAt imageWord
  simp

theorem high_eq (i : Nat) : high img i = hiAt img i := by
  have bound := (imageWord img i).isLt
  unfold high hiAt numAt
  rw [BitVec.extractLsb'_toNat, Nat.shiftRight_eq_div_pow]
  exact Nat.mod_eq_of_lt (by unfold imageWord at bound; omega)

theorem imageWord_eq_zero_iff (i : Nat) : imageWord img i = 0 ↔ numAt img i = 0 := by
  unfold numAt imageWord
  rw [← BitVec.toNat_inj]
  rfl

/-- A field of a word is 0 where the number's digits there are. -/
theorem extract_eq_zero_iff (w : Word) (start len : Nat) :
    w.extractLsb' start len = 0 ↔ w.toNat / 2 ^ start % 2 ^ len = 0 := by
  rw [← BitVec.toNat_inj, BitVec.extractLsb'_toNat, Nat.shiftRight_eq_div_pow]
  simp

theorem fittedBit_iff (n : LineId) : fittedBit img n = false ↔ numAt img 0 / 2 ^ (8 + n.val) % 2 = 0 := by
  unfold fittedBit numAt imageWord
  rw [← BitVec.testBit_toNat, Nat.testBit_eq_decide_div_mod_eq]
  simp

end

theorem hiAt_lt (img : List Word) (i : Nat) : hiAt img i < 65536 := by
  have bound := (imageWord img i).isLt
  unfold hiAt numAt
  unfold imageWord at bound
  omega

theorem loAt_lt (img : List Word) (i : Nat) : loAt img i < 65536 := Nat.mod_lt _ (by decide)

theorem within_iff (lo hi v : Nat) : within lo hi v = true ↔ lo ≤ v ∧ v ≤ hi := by
  simp [within]

/-! ### The words of an image judged -/

/-- Word 0: the mark, the bits above the mask, and the lines left out of it (R184). -/
theorem berthWordValid_zero (img : List Word) (keep : LineId → Bool) : berthWordValid img keep 0 = true ↔
    numAt img 0 % 256 = 0x4C ∧ numAt img 0 / 2 ^ 20 = 0 ∧
      ∀ n : LineId, numAt img 0 / 2 ^ (8 + n.val) % 2 = 0 → keep n = true := by
  have bound := (imageWord img 0).isLt
  have mark : (imageWord img 0).extractLsb' 0 8 = 0x4C#8 ↔ numAt img 0 % 256 = 0x4C := by
    rw [← BitVec.toNat_inj, BitVec.extractLsb'_toNat]
    simp [numAt, imageWord]
  have spare : (imageWord img 0).extractLsb' 20 12 = 0 ↔ numAt img 0 / 2 ^ 20 = 0 := by
    rw [extract_eq_zero_iff]
    change numAt img 0 / 2 ^ 20 % 2 ^ 12 = 0 ↔ _
    change numAt img 0 < 2 ^ 32 at bound
    omega
  have mask : (allLines.all fun n => fittedBit img n || keep n) = true ↔
      ∀ n : LineId, numAt img 0 / 2 ^ (8 + n.val) % 2 = 0 → keep n = true := by
    simp only [List.all_eq_true, mem_allLines, forall_const, ← fittedBit_iff]
    refine forall_congr' fun n => ?_
    cases fittedBit img n <;> simp
  change ((imageWord img 0).extractLsb' 0 8 == 0x4C#8 && (imageWord img 0).extractLsb' 20 12 == 0 &&
    allLines.all fun n => fittedBit img n || keep n) = true ↔ _
  rw [Bool.and_eq_true, Bool.and_eq_true, beq_iff_eq, beq_iff_eq, mark, spare, mask, and_assoc]

/-- The berth-wide words (R184). -/
theorem berthWordValid_iff (img : List Word) (sum : Word) (keep : LineId → Bool) {i : Nat} (h : i < 16) :
    berthWordValid img keep i = true ↔ WordRule img sum keep i := by
  by_cases first : i = 0
  · subst first
    exact berthWordValid_zero img keep
  by_cases spare : 10 ≤ i
  · have valid : berthWordValid img keep i = (imageWord img i == 0) := by
      unfold berthWordValid
      split
      case h_11 => rfl
      all_goals omega
    have rule : WordRule img sum keep i ↔ numAt img i = 0 := by
      unfold WordRule
      simp only [show i ≠ 0 by omega, show i ≠ 1 by omega, show i ≠ 2 by omega, show i ≠ 3 by omega,
        show i ≠ 4 by omega, show i ≠ 5 by omega, show i ≠ 6 by omega, show i ≠ 7 by omega, show i ≠ 8 by omega,
        show i ≠ 9 by omega, h, if_true, if_false]
    rw [valid, rule, beq_iff_eq, imageWord_eq_zero_iff]
  · have range : 1 ≤ i ∧ i < 10 := by omega
    obtain ⟨from_, upto⟩ := range
    interval_cases i <;> simp [berthWordValid, WordRule, within_iff, low_eq, high_eq] <;> omega

/-- Word 5 of a line block: the bits outside rank and required flag (R185). -/
theorem blockWordValid_five (img : List Word) (n : LineId) : blockWordValid img n 5 = true ↔
    numAt img (block n + 5) / 4 % 4 = 0 ∧ numAt img (block n + 5) / 32 = 0 := by
  have bound := (imageWord img (block n + 5)).isLt
  have upper : (imageWord img (block n + 5)).extractLsb' 5 27 = 0 ↔ numAt img (block n + 5) / 32 = 0 := by
    rw [extract_eq_zero_iff]
    change numAt img (block n + 5) / 2 ^ 5 % 2 ^ 27 = 0 ↔ _
    change numAt img (block n + 5) < 2 ^ 32 at bound
    omega
  change ((imageWord img (block n + 5)).extractLsb' 2 2 == 0 &&
    (imageWord img (block n + 5)).extractLsb' 5 27 == 0) = true ↔ _
  rw [Bool.and_eq_true, beq_iff_eq, beq_iff_eq, upper, extract_eq_zero_iff]
  rfl

/-- The words of a line block (R185). -/
theorem blockWordValid_iff (img : List Word) (n : LineId) (k : Nat) :
    blockWordValid img n k = true ↔ BlockRule img (block n) k := by
  have lo := loAt_lt img
  have hi := hiAt_lt img
  match k with
  | 0 =>
    have := hi (block n)
    simp [blockWordValid, BlockRule, within_iff, zeroOffset, spanFactor, low_eq, high_eq]
    omega
  | 1 => simp [blockWordValid, BlockRule, within_iff, slackLimit, bandMin, low_eq, high_eq, and_assoc]
  | 2 => simp [blockWordValid, BlockRule, within_iff, bandMin, bandMax, renderLimit, low_eq, high_eq, and_assoc]
  | 3 =>
    simp [blockWordValid, BlockRule, within_iff, slackLimit, bandMax, slipLimit, surgeLimit, low_eq, high_eq, and_assoc]
  | 4 =>
    have := lo (block n + 4)
    simp [blockWordValid, BlockRule, within_iff, maxPayout, renderStep, low_eq, high_eq]
    omega
  | 5 => exact blockWordValid_five img n
  | k + 6 => simp [blockWordValid, BlockRule, ← imageWord_eq_zero_iff]

/-- A word is valid where its rule holds (R184, R185, R191). -/
theorem wordValid_iff (img : List Word) (sum : Word) (keep : LineId → Bool) {i : Nat} (h : i < 128) :
    wordValid img sum keep i = true ↔ WordRule img sum keep i := by
  have past : 16 ≤ i → (WordRule img sum keep i ↔
      if i < 112 then BlockRule img (16 + 8 * ((i - 16) / 8)) ((i - 16) % 8)
      else if i < 127 then numAt img i = 0 else sum = 0) := fun from_ => by
    unfold WordRule
    simp only [show i ≠ 0 by omega, show i ≠ 1 by omega, show i ≠ 2 by omega, show i ≠ 3 by omega,
      show i ≠ 4 by omega, show i ≠ 5 by omega, show i ≠ 6 by omega, show i ≠ 7 by omega, show i ≠ 8 by omega,
      show i ≠ 9 by omega, show ¬ i < 16 by omega, if_false]
  unfold wordValid
  by_cases berth : i < 16
  · rw [if_pos berth]
    exact berthWordValid_iff img sum keep berth
  rw [if_neg berth, past (by omega)]
  by_cases line : i < 112
  · have at_ : block (Fin.ofNat 12 ((i - 16) / 8)) = 16 + 8 * ((i - 16) / 8) := by
      change 16 + 8 * ((i - 16) / 8 % 12) = _
      omega
    rw [if_pos line, if_pos line, blockWordValid_iff, at_]
  rw [if_neg line, if_neg line]
  by_cases spare : i < 127
  · rw [if_pos spare, if_pos spare, beq_iff_eq, imageWord_eq_zero_iff]
  · rw [if_neg spare, if_neg spare, beq_iff_eq]

/-- The first failing word is the lowest whose rule does not hold (R191). -/
theorem firstFailing_none_iff (img : List Word) (sum : Word) (keep : LineId → Bool) :
    firstFailing img sum keep = none ↔ ∀ i, i < 128 → WordRule img sum keep i := by
  unfold firstFailing
  rw [List.find?_eq_none]
  refine forall_congr' fun i => ?_
  rw [List.mem_range]
  refine forall_congr' fun h => ?_
  rw [← wordValid_iff img sum keep h]
  simp

theorem firstFailing_some_iff (img : List Word) (sum : Word) (keep : LineId → Bool) (i : Nat) :
    firstFailing img sum keep = some i ↔
      i < 128 ∧ ¬ WordRule img sum keep i ∧ ∀ j, j < i → WordRule img sum keep j := by
  unfold firstFailing
  rw [List.find?_range_eq_some, List.mem_range]
  constructor
  · rintro ⟨fails, h, before⟩
    rw [Config.imageWords] at h
    refine ⟨h, ?_, fun j lower => ?_⟩
    · rw [← wordValid_iff img sum keep h]
      simpa using fails
    · rw [← wordValid_iff img sum keep (by omega)]
      simpa using before j lower
  · rintro ⟨h, fails, before⟩
    refine ⟨?_, h, fun j lower => ?_⟩
    · rw [← wordValid_iff img sum keep h] at fails
      simpa using fails
    · have valid := before j lower
      rw [← wordValid_iff img sum keep (by omega)] at valid
      simp [valid]

/-- Settles O44: the image judged word by word. -/
theorem profileValidated : Obligations.ProfileValidated := by
  unfold Obligations.ProfileValidated
  refine ⟨fun img sum keep => ⟨firstFailing_none_iff img sum keep, firstFailing_some_iff img sum keep⟩,
    fun s n => ?_⟩
  simp [mayUnfit, or_assoc]

end Sys2Proof.Machine
end

section
/-! SUPPORT. The timers that expire: the pacing timer, the four time-outs of a line and the hold deadline, each
as the state its command leaves when it stands at 0. -/

namespace Sys2Proof.Machine

variable {n : LineId}

/-! ### The pacing timer (R83, R84, R86, R99) -/

/-- The scan with the pacing timer loaded afresh from the active profile, on a tick (R83). -/
def State.repaced (s : State) : State := { s with scan := { s.scan with pacing := some (pacingPeriod s.image) } }

theorem pacingEvent_idle {s : State} (tick : s.atTick = true) (h : s.scan.pass = .idle) :
    pacingEvent s = setPass (.running 0) s.repaced := by
  simp [pacingEvent, State.repaced, State.ticksFor, tick, h]

theorem pacingEvent_probing {s : State} (tick : s.atTick = true) (h : s.scan.pass = .probing n none) :
    pacingEvent s = setPass (.probing n (some 0)) s.repaced := by
  simp [pacingEvent, State.repaced, State.ticksFor, tick, h]

/-- The pass goes over its conversions, or waits to go on behind a probe. -/
def Pass.UnderWay (p : Pass) : Prop := (∃ i, p = .running i) ∨ ∃ n i, p = .probing n (some i)

theorem pacingEvent_overrun {s : State} (tick : s.atTick = true) (h : s.scan.pass.UnderWay) :
    pacingEvent s = setBerthNotice .scanOverrun s.repaced := by
  rcases h with ⟨i, h⟩ | ⟨m, i, h⟩ <;> simp [pacingEvent, State.repaced, State.ticksFor, tick, h]

/-- Settles O54: the three cases of the pass the timer can fall into. -/
theorem pacingExpiry : Obligations.PacingExpiry := by
  intro s power due
  have run := exec_due (e := .pacing) power due
  refine ⟨fun h => ?_, fun m h => ?_, fun h => ?_⟩
  · exact run.trans (congrArg (fun t : State => Host.Outcome.next (arbitrate { t with atTick := false }))
      (pacingEvent_idle (s := { s with atTick := true }) rfl h))
  · exact run.trans (congrArg (fun t : State => Host.Outcome.next (arbitrate { t with atTick := false }))
      (pacingEvent_probing (s := { s with atTick := true }) rfl h))
  · have shape := pacingEvent_overrun (s := { s with atTick := true }) rfl h
    refine ⟨{ setBerthNotice .scanOverrun (State.repaced { s with atTick := true }) with atTick := false },
      run.trans (congrArg (fun t : State => Host.Outcome.next (arbitrate { t with atTick := false })) shape),
      setBerthNotice_scan _ _, notice_setBerthNotice _ _, fun k other => notice_setBerthNotice_other other _,
      lines_setBerthNotice _ _, setBerthNotice_queue _ _, setBerthNotice_orderLane _ _,
      setBerthNotice_berth _ _, setBerthNotice_profile _ _⟩

/-! ### The time-outs of a line (R24, R26, R114 to R116) -/

/-- Fault entry after a change of the line's timers is fault entry: the timers are stopped there anyway. -/
theorem FaultedBy.of_timers {s u : State} {r : FaultReason} {c : PartCause} {f : Line → Line} (b : Bool)
    (h : FaultedBy (modLine n f { s with atTick := b }) u n r c)
    (kept : (s.line n).KeptByOrder (f (s.line n)))
    (verdict : (f (s.line n)).lastHost = (s.line n).lastHost ∧ (f (s.line n)).latch = (s.line n).latch) :
    FaultedBy s u n r c := by
  have own : (modLine n f { s with atTick := b }).line n = f (s.line n) := line_modLine_self n f _
  obtain ⟨state, notice, part, pair, drum, verdict', kept', others, blocks, notices⟩ := h
  rw [own] at verdict' kept'
  obtain ⟨flags, record, counts, inputs, seq⟩ := kept
  obtain ⟨flags', record', counts', inputs', seq'⟩ := kept'
  refine ⟨state, notice, part, pair, drum, ⟨verdict'.1.trans verdict.1, verdict'.2.trans verdict.2⟩, ?_,
    fun m other bare => ?_, blocks, notices⟩
  · refine ⟨?_, ?_, ?_, ?_, seq'.trans seq⟩
    · rwa [flags.1, flags.2.1, flags.2.2] at flags'
    · rwa [record.1, record.2.1, record.2.2.1, record.2.2.2.1, record.2.2.2.2] at record'
    · rwa [counts.1, counts.2] at counts'
    · rwa [inputs.1, inputs.2.1, inputs.2.2] at inputs'
  · rw [others m other bare, line_modLine, if_neg other]
    rfl

/-- An expiry that, on a tick, brings fault entry with reason `r` once the line's timer has stopped. -/
theorem exec_faults {e : Expiry} {s : State} {r : FaultReason} {c : PartCause} {f : Line → Line}
    (power : s.supply.powered = true) (fitted : (s.line n).fitted = true) (due : e.StandsDue s)
    (kept : (s.line n).KeptByOrder (f (s.line n)))
    (verdict : (f (s.line n)).lastHost = (s.line n).lastHost ∧ (f (s.line n)).latch = (s.line n).latch)
    (take : e.take { s with atTick := true } = faultLine n r (some c) (modLine n f { s with atTick := true })) :
    ∃ u, exec (e.command 0) s = .next (arbitrate { u with atTick := false }) ∧ FaultedBy s u n r c := by
  have own : (modLine n f { s with atTick := true }).line n = f (s.line n) := line_modLine_self n f _
  refine ⟨_, exec_due power due, ?_⟩
  rw [take]
  refine FaultedBy.of_timers true (faultedBy_faultLine ?_) kept verdict
  rw [own, kept.flags.1, fitted]

/-- Settles O52: each time-out in a state it concerns is a fault entry, and nothing without its timer. -/
theorem timeOutsFault : Obligations.TimeOutsFault := by
  intro n s power fitted
  have same : (s.line n).KeptByOrder (s.line n) :=
    ⟨⟨rfl, rfl, rfl⟩, ⟨rfl, rfl, rfl, rfl, rfl⟩, ⟨rfl, rfl⟩, ⟨rfl, rfl, rfl⟩, rfl⟩
  have ownState {f : Line → Line} (h : (f (s.line n)).state = (s.line n).state) :
      ((modLine n f { s with atTick := true }).line n).state = (s.line n).state := by
    rw [show (modLine n f { s with atTick := true }).line n = f (s.line n) from line_modLine_self n f _, h]
  refine ⟨fun due moves => ?_, fun due hauls => ?_, fun due slips => ?_, fun due adopted unfaulted => ?_,
    fun idle => exec_idle (e := .stall n) power idle, fun idle => exec_idle (e := .haul n) power idle,
    fun idle => exec_idle (e := .slip n) power idle, fun idle => exec_idle (e := .brake n) power idle⟩
  · refine exec_faults (e := .stall n) (f := fun l => { l with stall := none }) power fitted due
      ⟨same.flags, same.record, same.counts, same.inputs, rfl⟩ ⟨rfl, rfl⟩ (if_pos ?_)
    rw [ownState (f := fun l => { l with stall := none }) rfl, moves]
  · refine exec_faults (e := .haul n) (f := fun l => { l with haul := none }) power fitted due
      ⟨same.flags, same.record, same.counts, same.inputs, rfl⟩ ⟨rfl, rfl⟩ (if_pos ?_)
    rw [ownState (f := fun l => { l with haul := none }) rfl, hauls]
  · refine exec_faults (e := .slip n) (f := fun l => { l with slip := none }) power fitted due
      ⟨same.flags, same.record, same.counts, same.inputs, rfl⟩ ⟨rfl, rfl⟩ (if_pos ?_)
    rw [ownState (f := fun l => { l with slip := none }) rfl, slips]
  · refine exec_faults (e := .brake n) (f := fun l => { l with brakeSettle := none }) power fitted due
      ⟨same.flags, same.record, same.counts, same.inputs, rfl⟩ ⟨rfl, rfl⟩ (if_pos ?_)
    rw [ownState (f := fun l => { l with brakeSettle := none }) rfl]
    cases state : (s.line n).state with
    | adopting => exact absurd state adopted
    | faulted r => exact absurd state (unfaulted r)
    | _ => rfl

/-! ### The hold deadline (R72) -/

theorem endEntry_orderLane (v : Verdict) (e : Entry) (s : State) :
    (endEntry v e s).bus.orderLane = s.bus.orderLane :=
  Bus.bare_orderLane ((setLineNotice_bare _ _).trans (recordEnding_bare _ _ _ _ _))

theorem endEntry_queue (v : Verdict) (e : Entry) (s : State) :
    (endEntry v e s).queue = s.queue.filter fun x => x.line != e.line := by
  unfold endEntry
  rw [setLineNotice_queue, recordEnding_queue]
  rfl

theorem mem_endEntry (v : Verdict) (e : Entry) {s : State} (speaks : s.berth.phase.silent = false) :
    e.line.castSucc ∈ (endEntry v e s).bus.reportLane :=
  setLineNotice_mem (mem_askLine speaks)

/-- Settles O53: at the end of its deadline the entry leaves the queue with its verdict. -/
theorem holdDeadlineExpires : Obligations.HoldDeadlineExpires := by
  intro n e s power held due
  have own : e.line = n := entry_line held
  have take : expireHold n { s with atTick := true } = askBerth (endEntry .timedOut e { s with atTick := true }) := by
    unfold expireHold
    rw [show ({ s with atTick := true } : State).entry n = some e from held]
  have line (m : LineId) := line_endEntry .timedOut e { s with atTick := true } m
  rw [own] at line
  refine ⟨{ askBerth (endEntry .timedOut e { s with atTick := true }) with atTick := false },
    (exec_due (e := .hold n) power ⟨e, held, due⟩).trans
      (congrArg (fun t : State => Host.Outcome.next (arbitrate { t with atTick := false })) take),
    ?_, ?_, fun m other => ?_, ?_, ?_, ?_, ?_, ?_, ?_, fun speaks => ⟨?_, ?_⟩⟩
  · change (askBerth _).queue = _
    rw [askBerth_queue, endEntry_queue, own]
  · exact (line_askBerth n _).trans ((line n).trans (if_pos rfl))
  · exact (line_askBerth m _).trans ((line m).trans (if_neg other))
  · exact (Bus.bare_orderLane (askBerth_bare _)).trans (endEntry_orderLane _ _ _)
  · exact (askBerth_scan _).trans (endEntry_scan _ _ _)
  · exact (askBerth_berth _).trans (endEntry_berth _ _ _)
  · exact (askBerth_profile _).trans (endEntry_profile _ _ _)
  · exact (askBerth_supply _).trans (endEntry_supply _ _ _)
  · exact (congrArg Reporting.notices (askBerth_report _)).trans (endEntry_notices _ _ _)
  · have asked := mem_endEntry .timedOut e (s := { s with atTick := true }) speaks
    rw [own] at asked
    exact askRecord_mem asked
  · refine mem_askBerth ?_
    rw [endEntry_berth]
    exact Phase.not_starting speaks

end Sys2Proof.Machine
end

section
/-! SUPPORT. The drum inputs: what a pulse, a change of the brake feedback and a change of the stow switch do to
their line, and the hand-on of a line that no held REWIND can take. -/

namespace Sys2Proof.Machine

variable {n : LineId}

/-! ### What a drum event leaves of its line -/

/-- `l'` has the profile flags, the tension record, the verdict and the latch of `l`. -/
structure Line.Spared (l l' : Line) : Prop where
  flags : l'.fitted = l.fitted ∧ l'.rank = l.rank ∧ l'.required = l.required
  record : l'.tension = l.tension ∧ l'.cls = l.cls ∧ l'.overRun = l.overRun ∧ l'.slackRun = l.slackRun ∧
    l'.ring = l.ring
  verdict : l'.lastHost = l.lastHost ∧ l'.latch = l.latch

theorem Line.Spared.refl (l : Line) : l.Spared l := ⟨⟨rfl, rfl, rfl⟩, ⟨rfl, rfl, rfl, rfl, rfl⟩, ⟨rfl, rfl⟩⟩

theorem Line.spared_countPulse (outward : Bool) (v : Nat) (l : Line) : l.Spared (l.countPulse outward v) := by
  unfold Line.countPulse
  split <;> exact ⟨⟨rfl, rfl, rfl⟩, ⟨rfl, rfl, rfl, rfl, rfl⟩, ⟨rfl, rfl⟩⟩

/-- `t` is `s` but for line `n`, its pairs, and requests for records. -/
structure OwnChange (n : LineId) (s t : State) : Prop where
  others : ∀ m, m ≠ n → Kept m s t
  pending : t.pending = s.pending
  queue : t.queue = s.queue
  scan : t.scan = s.scan
  berth : t.berth = s.berth
  profile : t.profile = s.profile
  supply : t.supply = s.supply
  notices : t.report.notices = s.report.notices
  atTick : t.atTick = s.atTick

theorem OwnChange.trans {s t u : State} (h : OwnChange n s t) (k : OwnChange n t u) : OwnChange n s u :=
  ⟨fun m hm => (h.others m hm).trans (k.others m hm), k.pending.trans h.pending, k.queue.trans h.queue,
    k.scan.trans h.scan, k.berth.trans h.berth, k.profile.trans h.profile, k.supply.trans h.supply,
    k.notices.trans h.notices, k.atTick.trans h.atTick⟩

theorem OwnChange.image {s t : State} (h : OwnChange n s t) : t.image = s.image := congrArg Profile.active h.profile

theorem OwnChange.ticksFor {s t : State} (h : OwnChange n s t) : t.ticksFor = s.ticksFor := by
  funext ms
  unfold State.ticksFor
  rw [h.atTick]

theorem OwnChange.modLine (f : Line → Line) (s : State) : OwnChange n s (modLine n f s) :=
  ⟨fun _ hm => .modLine hm f s, rfl, rfl, rfl, rfl, rfl, rfl, rfl, rfl⟩

theorem OwnChange.enterState (st : LineState) (s : State) : OwnChange n s (enterState n st s) := .modLine _ s

theorem OwnChange.partOrder (k : OrderKind) (c : PartCause) (s : State) : OwnChange n s (partOrder n k c s) :=
  ⟨fun _ hm => .partOrder hm k c s, by simp, by simp, by simp, by simp, by simp, by simp, by simp, by simp⟩

theorem OwnChange.faultEntry (r : FaultReason) (lock : Option PartCause) (s : State) :
    OwnChange n s (faultEntry n r lock s) :=
  ⟨fun _ hm => .faultEntry hm r lock s, by simp, by simp, by simp, by simp, by simp, by simp, by simp, by simp⟩

theorem OwnChange.askLine (s : State) : OwnChange n s (askLine n s) :=
  ⟨fun _ _ => .askLine n s, by simp, by simp, by simp, by simp, by simp, by simp, by simp, by simp⟩

/-- The hand-on of a change of line `n` alone, which keeps the line but for its probe request, leaves what a
drum event leaves. -/
theorem OwnChange.drumKept {s t : State} (h : OwnChange n s t) (held : Held n t (settle n t))
    (spared : (s.line n).Spared (t.line n)) : DrumKept s (settle n t) n := by
  have line := held.line
  obtain ⟨flags, record, verdict⟩ := spared
  refine ⟨?_, ?_, ?_, fun m hm alone => ?_, ⟨?_, ?_⟩, ?_⟩
  · rw [line]
    exact flags
  · rw [line]
    exact record
  · rw [line]
    exact verdict
  · have kept := h.others m hm
    exact (kept.trans (.settle (kept.entry.trans alone) n)).line
  · rw [settle_profile, h.profile]
  · rw [settle_supply, h.supply]
  · rw [settle_notices, h.notices]

/-! ### The hand-on of a line that is not SLACK (R64, R67, R69) -/

/-- A line that is not SLACK has no entry forwarded at the hand-on: a held REWIND waits for LINE_SLACK and a
held SLIP for its probe. -/
theorem Held.judgeEntry_of_not_slack {s : State} (h : (s.line n).state ≠ .slack) (m : LineId) :
    Held n s (Machine.judgeEntry m s) := by
  by_cases own : n = m
  swap
  · exact (Kept.judgeEntry own s).held
  subst own
  cases found : s.entry n with
  | none =>
    rw [judgeEntry_none found]
    exact .refl n s
  | some e =>
    have line : e.line = n := entry_line found
    subst line
    cases kind : e.kind with
    | rewind =>
      rw [judgeEntry_rewind found kind, if_neg h]
      exact .refl _ s
    | slip =>
      rw [judgeEntry_slip found kind]
      obtain ⟨-, -, lane, -⟩ := judgeSlip_fields e s
      refine ⟨?_, congrArg (laneOf e.line) lane⟩
      rw [line_judgeSlip]
      split <;> rfl

theorem Held.reevaluate_of_not_slack {s : State} (h : (s.line n).state ≠ .slack) : Held n s (Machine.reevaluate s) :=
  reevaluate_keeps (P := fun t => Held n s t)
    (fun m t ht => ht.trans (.judgeEntry_of_not_slack (by rw [ht.line]; exact h) m))
    (fun m t ht => ht.trans (.requestProbe m t)) (.refl n s)

theorem Held.settle_of_not_slack {s : State} (h : (s.line n).state ≠ .slack) (m : LineId) :
    Held n s (Machine.settle m s) :=
  ((Held.reevaluate_of_not_slack h).trans (Kept.askLine m _).held).trans (Kept.autoVacant _).held

/-- A fitted line neither SLACK nor PARKED keeps the berth as it is (R127). -/
theorem settle_berth_of_out {s : State} (tight : (s.line n).state ≠ .slack) (fitted : (s.line n).fitted = true)
    (out : (s.line n).state ≠ .parked) (m : LineId) : (settle m s).berth = s.berth := by
  have held := Held.reevaluate_of_not_slack tight
  have kept := settle_berth_kept (n := m) (s := s)
    (.inr ⟨n, by rw [held.line]; exact fitted, by rw [held.line]; exact out⟩)
  rw [kept, reevaluate_berth]

theorem restState_ne_slack (c : Classification) : restState c ≠ .slack := by cases c <;> decide

theorem restState_ne_parked (c : Classification) : restState c ≠ .parked := by cases c <;> decide

/-- A state entered with an order of the part's own, handed on where the line is then not SLACK. -/
theorem transition_own {k : OrderKind} (order : k ≠ .ease) {st : LineState} (tight : st ≠ .slack) (c : PartCause)
    {s t : State} (change : OwnChange n s t) (spared : (s.line n).Spared (t.line n)) :
    let u := transition n st (some (k, c)) t
    (∃ p, u.line n = { Line.enter s.image s.ticksFor st (t.line n) with
      lastPart := some ⟨k, c⟩, probeWaiting := p }) ∧
    makePair n k 0 0 ∈ u.bus.orderLane ∧ DrumKept s u n ∧ VacatesBy s u s.berth ∧
    ((s.line n).fitted = true → st ≠ .parked → u.berth = s.berth) := by
  intro u
  have entered : OwnChange n s (partOrder n k c (enterState n st t)) :=
    (change.trans (.enterState st t)).trans (.partOrder k c _)
  have line : (partOrder n k c (enterState n st t)).line n =
      { Line.enter s.image s.ticksFor st (t.line n) with lastPart := some ⟨k, c⟩ } := by
    rw [partOrder_line order, enterState_line, change.image, change.ticksFor]
  have held : Held n _ u := Held.settle_of_not_slack (n := n) (by rw [line]; exact tight) n
  have pair := pair_partOrder (n := n) k c (enterState n st t)
  rw [if_neg order] at pair
  have vacates : VacatesBy _ u _ := vacatesBy_settle n (partOrder n k c (enterState n st t))
  rw [entered.berth] at vacates
  refine ⟨⟨_, held.line.trans (by rw [line])⟩, held.pair rfl pair, entered.drumKept held ?_,
    vacates.of_phase (by rw [entered.berth]), fun fitted out => ?_⟩
  · rw [line]
    exact ⟨spared.flags, spared.record, spared.verdict⟩
  · refine (settle_berth_of_out (n := n) ?_ ?_ ?_ n).trans entered.berth
    · rw [line]
      exact tight
    · rw [line]
      exact spared.flags.1.trans fitted
    · rw [line]
      exact out

/-- Fault entry of a line, handed on (R4). -/
theorem faultLine_own (r : FaultReason) (lock : Option PartCause) {s t : State} (change : OwnChange n s t)
    (spared : (s.line n).Spared (t.line n)) (fitted : (s.line n).fitted = true) :
    (∃ p, (faultLine n r lock t).line n = { (faultEntry n r lock t).line n with probeWaiting := p }) ∧
    laneOf n (faultLine n r lock t).bus.orderLane = laneOf n (faultEntry n r lock t).bus.orderLane ∧
    DrumKept s (faultLine n r lock t) n ∧ (faultLine n r lock t).berth = s.berth := by
  have entered : OwnChange n s (faultEntry n r lock t) := change.trans (.faultEntry r lock t)
  have line : ((faultEntry n r lock t).line n).state = .faulted r ∧
      (t.line n).Spared ((faultEntry n r lock t).line n) := by
    cases lock with
    | none =>
      rw [faultEntry_line_none]
      exact ⟨rfl, ⟨rfl, rfl, rfl⟩, ⟨rfl, rfl, rfl, rfl, rfl⟩, ⟨rfl, rfl⟩⟩
    | some c =>
      rw [faultEntry_line]
      exact ⟨rfl, ⟨rfl, rfl, rfl⟩, ⟨rfl, rfl, rfl, rfl, rfl⟩, ⟨rfl, rfl⟩⟩
  obtain ⟨state, spared'⟩ := line
  have held : Held n (faultEntry n r lock t) (faultLine n r lock t) :=
    Held.settle_of_not_slack (n := n) (by rw [state]; simp) n
  refine ⟨⟨_, held.line⟩, held.lane, entered.drumKept held ?_, ?_⟩
  · obtain ⟨flags, record, verdict⟩ := spared
    obtain ⟨flags', record', verdict'⟩ := spared'
    refine ⟨?_, ?_, ?_⟩
    · rwa [← flags.1, ← flags.2.1, ← flags.2.2]
    · rwa [← record.1, ← record.2.1, ← record.2.2.1, ← record.2.2.2.1, ← record.2.2.2.2]
    · rwa [← verdict.1, ← verdict.2]
  · refine (settle_berth_of_out (n := n) (by rw [state]; simp) ?_ (by rw [state]; simp) n).trans entered.berth
    rw [spared'.flags.1, spared.flags.1, fitted]

/-- The line of fault entry without an order of the part's own keeps its pairs. -/
theorem faultEntry_lane_none (r : FaultReason) (s : State) :
    (faultEntry n r none s).bus.orderLane = s.bus.orderLane :=
  Bus.bare_orderLane (setLineNotice_bare n _)

/-! ### PULSE (R108, R109, R112, R117) -/

theorem exec_pulse {outward : Bool} {gap : Nat} {s : State} (power : s.supply.powered = true) :
    exec (.pulse n outward gap) s = .next (arbitrate (pulseEdge n outward gap s)) :=
  congrArg Host.Outcome.next (if_pos power)

theorem pulseEdge_short {outward : Bool} {gap : Nat} {s : State} (h : (s.line n).pulseAge + gap < 200) :
    pulseEdge n outward gap s = modLine n (fun l => { l with pulseAge := l.pulseAge + gap }) s := if_pos h

/-- The part after steps 1 to 4 of a pulse (R108). -/
def countedPulse (n : LineId) (outward : Bool) (s : State) : State :=
  modLine n (Line.countPulse outward (s.ticksFor (stallTime s.image))) s

theorem line_countedPulse (outward : Bool) (s : State) : (countedPulse n outward s).line n =
    (s.line n).countPulse outward (s.ticksFor (stallTime s.image)) := line_modLine_self n _ s

theorem pulseEdge_counts {outward : Bool} {gap : Nat} {s : State} (h : 200 ≤ (s.line n).pulseAge + gap) :
    pulseEdge n outward gap s = pulseEvents n (s.line n) (countedPulse n outward s) :=
  if_neg (Nat.not_lt.mpr h)

/-- The run counter of a line over a pulse, seen from the pulse (R112). -/
theorem Line.moveRun_eq (outward : Bool) (l : Line) : l.moveRun outward = l.run.map fun r =>
    if l.state.expectedOutward = some outward then ⟨r.left - 1, r.ceiling⟩
    else if l.state.expectedOutward = some (!outward) then ⟨min r.ceiling (r.left + 1), r.ceiling⟩ else r := by
  unfold Line.moveRun
  cases l.run with
  | none => cases l.state.expectedOutward <;> rfl
  | some r =>
    cases l.state.expectedOutward with
    | none => rfl
    | some d => cases d <;> cases outward <;> rfl

theorem modLine_congr {f g : Line → Line} {s : State} (h : f (s.line n) = g (s.line n)) :
    modLine n f s = modLine n g s := by
  unfold modLine
  rw [h]

theorem Line.creeps_iff (l : Line) : l.creeps = true ↔ l.state.countsCreep = true ∧ l.brakeSet = true := by
  unfold Line.creeps
  rw [Bool.and_eq_true]

/-- Settles O49: the bounce, the count of every drum and that of a fitted line. -/
theorem pulseCounts : Obligations.PulseCounts := by
  intro n outward gap s power
  refine ⟨fun short => ?_, fun long unfitted => ?_, fun long fitted unended uncrept => ?_⟩
  · rw [exec_pulse power, pulseEdge_short short]
  · have shape : pulseEdge n outward gap s = countedPulse n outward s := by
      rw [pulseEdge_counts long]
      exact if_pos unfitted
    rw [exec_pulse power, shape]
    refine congrArg (fun t => Host.Outcome.next (arbitrate t)) (modLine_congr ?_)
    unfold Line.countPulse
    rw [if_neg (by rw [unfitted]; exact Bool.false_ne_true)]
    rfl
  · have line := line_countedPulse (n := n) outward s
    unfold Line.countPulse at line
    rw [if_pos fitted] at line
    have going : ((countedPulse n outward s).line n).runDone = false := by
      unfold Line.runDone
      rw [line, Line.moveRun_eq, Option.any_eq_false]
      intro r moved
      simpa using unended r moved
    have still : ((s.line n).creeps && decide (creepLimit (countedPulse n outward s).image ≤
        ((countedPulse n outward s).line n).creep)) = false := by
      cases creeps : (s.line n).creeps with
      | false => rfl
      | true =>
        have both := (Line.creeps_iff _).mp creeps
        have below := uncrept both.1 both.2
        rw [if_pos both] at below
        rw [line, creeps, if_pos rfl]
        exact decide_eq_false (Nat.not_le.mpr below)
    have shape : pulseEdge n outward gap s = countedPulse n outward s := by
      rw [pulseEdge_counts long]
      unfold pulseEvents
      rw [if_neg (by simp [fitted]), if_neg (by simp [going]), if_neg (by simp [still])]
    rw [exec_pulse power, shape]
    refine congrArg (fun t => Host.Outcome.next (arbitrate t)) (modLine_congr ?_)
    unfold Line.countPulse
    simp only [fitted, if_true, Line.moveRun_eq, Line.creeps_iff]
    rfl

end Sys2Proof.Machine
end

section
/-! SUPPORT. The brake feedback and the stow switch: the state each change leaves. -/

namespace Sys2Proof.Machine

variable {n : LineId}

/-! ### The brake feedback (R116) -/

theorem brakeChange_eq {v : Bool} {s : State} (h : (s.line n).brakeSet ≠ v) :
    brakeChange n v s = modLine n (fun l => { l with
      brakeSet := v
      brakeSettle := if l.fitted = true ∧ l.state.expectedBrake = some (!v) then
        some (s.ticksFor (brakeSettleTime s.image)) else none }) s := by
  unfold brakeChange
  rw [if_neg h]
  refine modLine_congr ?_
  congr 1
  cases (s.line n).fitted with
  | false => rfl
  | true =>
    cases (s.line n).state.expectedBrake with
    | none => rfl
    | some b => cases b <;> cases v <;> rfl

/-! ### The stow switch (R22, R27, R111) -/

theorem exec_stowMade {back : Nat} {s : State} (power : s.supply.powered = true) :
    exec (.stowMade n back) s = .next (arbitrate (stowMadeChange n s)) := congrArg Host.Outcome.next (if_pos power)

theorem exec_stowLost {s : State} (power : s.supply.powered = true) :
    exec (.stowLost n) s = .next (arbitrate (stowLostChange n s)) := congrArg Host.Outcome.next (if_pos power)

/-- The level, count and flag of every drum found stowed (R111). -/
def Line.foundStowed (l : Line) : Line := { l with stowMade := true, payout := 0, lengthUnknown := false }

/-- The level of every drum found open (R111). -/
def Line.foundOpen (l : Line) : Line := { l with stowMade := false }

theorem stowMadeChange_eq {s : State} (h : (s.line n).stowMade = false) :
    stowMadeChange n s = if (s.line n).fitted = true ∧ (s.line n).state = .rewinding then
        transition n .parked (some (.park, .stowMade)) (modLine n Line.foundStowed s)
      else modLine n Line.foundStowed s := by
  have line : (modLine n Line.foundStowed s).line n = (s.line n).foundStowed := line_modLine_self n _ s
  have shape : stowMadeChange n s = if ((modLine n Line.foundStowed s).line n).fitted then
      stowMadeEvent n (modLine n Line.foundStowed s) else modLine n Line.foundStowed s :=
    if_neg (by simp [h])
  rw [shape, line]
  unfold stowMadeEvent
  rw [line, ite_and]
  rfl

theorem stowLostChange_eq {s : State} (h : (s.line n).stowMade = true) :
    stowLostChange n s = if (s.line n).fitted = true ∧ (s.line n).state = .parked then
        faultLine n .stowLost none (modLine n Line.foundOpen s)
      else modLine n Line.foundOpen s := by
  have line : (modLine n Line.foundOpen s).line n = (s.line n).foundOpen := line_modLine_self n _ s
  have shape : stowLostChange n s = if ((modLine n Line.foundOpen s).line n).fitted then
      stowLostEvent n (modLine n Line.foundOpen s) else modLine n Line.foundOpen s := if_pos h
  rw [shape, line]
  unfold stowLostEvent
  rw [line, ite_and]
  rfl

/-- A lane that keeps the pairs of a line keeps each of them. -/
theorem mem_iff_of_laneOf {lane lane' : List LaneEntry} (h : laneOf n lane' = laneOf n lane) (e : LaneEntry)
    (own : e.line = n) : e ∈ lane' ↔ e ∈ lane := by
  rw [mem_laneOf own, h, ← mem_laneOf own]

/-- A fault entered without an order: what stands of the line and its pairs (R4, R25, R27). -/
theorem faultLine_without_order (r : FaultReason) {s t : State} (change : OwnChange n s t)
    (lane : t.bus.orderLane = s.bus.orderLane) (spared : (s.line n).Spared (t.line n))
    (fitted : (s.line n).fitted = true) :
    (∃ p, (faultLine n r none t).line n = { Line.enter s.image s.ticksFor (.faulted r) (t.line n) with
      notice := true, probeWaiting := p }) ∧
    (∀ e : LaneEntry, e.line = n → (e ∈ (faultLine n r none t).bus.orderLane ↔ e ∈ s.bus.orderLane)) ∧
    DrumKept s (faultLine n r none t) n ∧ (faultLine n r none t).berth = s.berth := by
  obtain ⟨⟨p, line⟩, pairs, kept, berth⟩ := faultLine_own r none change spared fitted
  rw [faultEntry_lane_none, lane] at pairs
  refine ⟨⟨p, line.trans ?_⟩, mem_iff_of_laneOf pairs, kept, berth⟩
  rw [faultEntry_line_none, change.image, change.ticksFor]

/-- A fault entered with a LOCK: what stands of the line and its pair (R4, R7). -/
theorem faultLine_with_lock (r : FaultReason) (c : PartCause) {s t : State} (change : OwnChange n s t)
    (spared : (s.line n).Spared (t.line n)) (fitted : (s.line n).fitted = true) :
    (∃ p, (faultLine n r (some c) t).line n = { Line.enter s.image s.ticksFor (.faulted r) (t.line n) with
      notice := true, lastPart := some ⟨.lock, c⟩, probeWaiting := p }) ∧
    makePair n .lock 0 0 ∈ (faultLine n r (some c) t).bus.orderLane ∧
    DrumKept s (faultLine n r (some c) t) n ∧ (faultLine n r (some c) t).berth = s.berth := by
  obtain ⟨⟨p, line⟩, pairs, kept, berth⟩ := faultLine_own r (some c) change spared fitted
  refine ⟨⟨p, line.trans ?_⟩, (mem_iff_of_laneOf pairs _ rfl).mpr (pair_faultEntry r c t), kept, berth⟩
  rw [faultEntry_line, change.image, change.ticksFor]

/-- Settles O51: the three tables of the states, then the levels and what each brings to its line. -/
theorem drumInputsChange : Obligations.DrumInputsChange := by
  refine ⟨fun st => ?_, fun n v s changed => ?_, fun n back s power => ⟨fun up => ⟨fun still => ?_, fun fitted
    rewinding => ?_⟩, fun made => ⟨fun still => ?_, fun fitted parked => ?_⟩⟩⟩
  · cases st <;> exact ⟨rfl, rfl, rfl⟩
  · exact congrArg Host.Outcome.next (brakeChange_eq changed)
  · rw [exec_stowMade power, stowMadeChange_eq up, if_neg still]
    rfl
  · have spared : (s.line n).Spared ((modLine n Line.foundStowed s).line n) := by
      rw [show (modLine n Line.foundStowed s).line n = _ from line_modLine_self n _ s]
      exact ⟨⟨rfl, rfl, rfl⟩, ⟨rfl, rfl, rfl, rfl, rfl⟩, ⟨rfl, rfl⟩⟩
    have leaves := transition_own (k := .park) (by simp) (st := .parked) (by simp) .stowMade
      (.modLine Line.foundStowed s) spared
    rw [show (modLine n Line.foundStowed s).line n = _ from line_modLine_self n _ s] at leaves
    obtain ⟨⟨p, line⟩, pair, kept, vacates, -⟩ := leaves
    refine ⟨_, by rw [exec_stowMade power, stowMadeChange_eq up, if_pos ⟨fitted, rewinding⟩], ?_⟩
    have rests := Line.rests_enter (st := .parked) rfl rfl (by simp) s.image s.ticksFor (s.line n).foundStowed
    have taken := TakenIn.enter (s := s) (l := s.line n) (k := (s.line n).foundStowed) (st := .parked)
      (by rw [rewinding]; simp) rfl rfl
    refine ⟨by rw [line]; rfl, by rw [line]; rfl, by rw [line]; rfl, by rw [line]; rfl, by rw [line], ?_, kept, ?_,
      vacates, pair⟩
    · rw [line]
      exact rests
    · rw [line]
      exact taken.congr rfl rfl rfl
  · rw [exec_stowLost power, stowLostChange_eq made, if_neg still]
    rfl
  · have spared : (s.line n).Spared ((modLine n Line.foundOpen s).line n) := by
      rw [show (modLine n Line.foundOpen s).line n = _ from line_modLine_self n _ s]
      exact ⟨⟨rfl, rfl, rfl⟩, ⟨rfl, rfl, rfl, rfl, rfl⟩, ⟨rfl, rfl⟩⟩
    have leaves := faultLine_without_order .stowLost (.modLine Line.foundOpen s) rfl spared fitted
    rw [show (modLine n Line.foundOpen s).line n = _ from line_modLine_self n _ s] at leaves
    obtain ⟨⟨p, line⟩, pairs, kept, berth⟩ := leaves
    refine ⟨_, by rw [exec_stowLost power, stowLostChange_eq made, if_pos ⟨fitted, parked⟩], ?_⟩
    have rests := Line.rests_enter (st := .faulted .stowLost) rfl rfl (by simp) s.image s.ticksFor
      (s.line n).foundOpen
    refine ⟨by rw [line]; rfl, by rw [line]; rfl, by rw [line], by rw [line]; rfl, kept, ?_, by rw [line]; rfl, berth,
      by rw [line]; rfl, pairs⟩
    rw [line]
    exact rests

end Sys2Proof.Machine
end

section
/-! SUPPORT. The pulse that ends a run and the one that reaches the creep limit, and a line that lockdown entry
finds at rest. -/

namespace Sys2Proof.Machine

variable {n : LineId}

/-! ### A line at rest on the way through lockdown entry (R132) -/

/-- Line `n` is in `t` as in `v` but for its verdict and its latch, and a LOCK of the part's own stands for it. -/
structure Stilled (n : LineId) (v t : State) : Prop where
  line : ∃ h x, t.line n = { v.line n with lastHost := h, latch := x }
  lock : makePair n .lock 0 0 ∈ t.bus.orderLane

theorem Stilled.of_same {v t u : State} (h : Stilled n v t) (line : u.line n = t.line n)
    (lane : u.bus.orderLane = t.bus.orderLane) : Stilled n v u := by
  obtain ⟨own, lock⟩ := h
  exact ⟨by rw [line]; exact own, by rw [lane]; exact lock⟩

theorem Stilled.endEntry {v t : State} (noticed : (v.line n).notice = true) (h : Stilled n v t) (e : Entry) :
    Stilled n v (endEntry .flushed e t) := by
  obtain ⟨⟨verdict, latch, own⟩, lock⟩ := h
  refine ⟨?_, by rw [endEntry_orderLane]; exact lock⟩
  rw [line_endEntry, own]
  split
  · exact ⟨_, latch, by rw [← noticed]⟩
  · exact ⟨verdict, latch, rfl⟩

/-- Lockdown entry leaves a line with its notice set and not in motion as it is, but for verdict and latch. -/
theorem stilled_enterLockdown {v : State} (noticed : (v.line n).notice = true)
    (still : (v.line n).state.inMotion = false) (lock : makePair n .lock 0 0 ∈ v.bus.orderLane)
    (c : LockdownCause) : Stilled n v (enterLockdown c v) := by
  have flushed : Stilled n v (flush { v with berth := { v.berth with phase := .lockdown } }) :=
    flush_keeps (P := Stilled n v) (fun e t h => h.endEntry noticed e)
      (fun t h => h.of_same (line_askBerth n t) (Bus.bare_orderLane (askBerth_bare t)))
      ⟨⟨(v.line n).lastHost, (v.line n).latch, rfl⟩, lock⟩
  have phase : (flush { v with berth := { v.berth with phase := .lockdown } }).berth.phase = .lockdown := by
    rw [flush_berth]
  have empty := flush_queue_empty { v with berth := { v.berth with phase := .lockdown } }
  unfold enterLockdown changePhase entryActions
  generalize flush { v with berth := { v.berth with phase := .lockdown } } = x at *
  have locking : Locking x x := ⟨phase, empty, rfl, rfl⟩
  obtain ⟨⟨verdict, latch, own⟩, lock'⟩ := flushed
  have halted : ¬ ((x.line n).fitted = true ∧ (x.line n).state.inMotion = true) := fun h => by
    have moves := h.2
    rw [own] at moves
    exact Bool.false_ne_true (still.symm.trans moves)
  have locked : Stilled n v (eachLine (lockdownLock c) x) := by
    refine ⟨⟨verdict, latch, ?_⟩, mem_lockdownLocks c locking halted lock'⟩
    rw [line_lockdownLocks c locking]
    unfold Line.lockedDown
    rw [if_neg halted, own]
  generalize eachLine (lockdownLock c) x = y at *
  have withdrawn : Stilled n v (withdrawPairs y) :=
    ⟨locked.line, List.mem_filter.mpr ⟨locked.lock, lockPair_stays n⟩⟩
  have emptied : Stilled n v (emptyLatches (withdrawPairs y)) := by
    unfold emptyLatches
    refine eachLine_keeps (P := Stilled n v) (fun m t h => ?_) withdrawn
    obtain ⟨⟨verdict, latch, own⟩, lock⟩ := h
    refine ⟨?_, lock⟩
    rw [line_modLine]
    split
    · rename_i same
      subst same
      exact ⟨verdict, none, by rw [own]⟩
    · exact ⟨verdict, latch, own⟩
  refine (emptied.of_same ?_ ?_ : Stilled n v _)
  · rw [line_askBerth, line_silenceAt, line_setBerthNotice]
  · rw [Bus.bare_orderLane (askBerth_bare _), silenceAt_bus, setBerthNotice_orderLane]

/-- From VACANT to DEPARTURE a raised cause enters LOCKDOWN (R131). -/
theorem raiseCause_enters {c : LockdownCause} {p : Bool} {s : State} (h : s.berth.phase = .vacant ∨
    s.berth.phase = .arrival ∨ s.berth.phase = .secured ∨ s.berth.phase = .departure) :
    raiseCause c p s = enterLockdown c (addCause c p s) := by
  unfold raiseCause
  dsimp only
  rw [addCause_phase]
  rcases h with h | h | h | h <;> rw [h]

theorem Phase.cases_open (p : Phase) : (p = .starting ∨ p = .halted ∨ p = .lockdown) ∨
    (p = .vacant ∨ p = .arrival ∨ p = .secured ∨ p = .departure) := by cases p <;> simp

theorem stilled_raiseCause {v : State} (noticed : (v.line n).notice = true)
    (still : (v.line n).state.inMotion = false) (lock : makePair n .lock 0 0 ∈ v.bus.orderLane)
    (c : LockdownCause) (p : Bool) : Stilled n v (raiseCause c p v) := by
  have self : Stilled n v v := ⟨⟨_, _, rfl⟩, lock⟩
  rcases Phase.cases_open v.berth.phase with h | h
  · obtain ⟨-, lines, -, lane⟩ := raiseCause_kept (c := c) (p := p) h
    exact self.of_same (congrArg (fun l : Vector Line 12 => l[n]) lines) lane
  · rw [raiseCause_enters h]
    obtain ⟨-, lines, -, bus, -⟩ := setCauses_fields (v.berth.causes ||| c.bit)
      (if p then v.berth.present ||| c.bit else v.berth.present) v
    have line : (addCause c p v).line n = v.line n := congrArg (fun l : Vector Line 12 => l[n]) lines
    have lane : (addCause c p v).bus.orderLane = v.bus.orderLane := Bus.bare_orderLane bus
    obtain ⟨own, lock'⟩ := stilled_enterLockdown (v := addCause c p v) (n := n) (by rw [line]; exact noticed)
      (by rw [line]; exact still) (by rw [lane]; exact lock) c
    rw [line] at own
    exact ⟨own, lock'⟩

/-- The berth block after a raised cause (R130, R131). -/
theorem raiseCause_berth (c : LockdownCause) (p : Bool) (s : State) :
    (raiseCause c p s).berth.causes = s.berth.causes ||| c.bit ∧
    (raiseCause c p s).berth.present = (if p then s.berth.present ||| c.bit else s.berth.present) ∧
    (s.berth.phase.silent = true → (raiseCause c p s).berth.phase = s.berth.phase) ∧
    (s.berth.phase.silent = false → (raiseCause c p s).berth.phase = .lockdown) := by
  rcases Phase.cases_open s.berth.phase with h | h
  · obtain ⟨berth, -⟩ := raiseCause_kept (c := c) (p := p) h
    rw [berth]
    refine ⟨rfl, rfl, fun _ => rfl, fun speaks => ?_⟩
    rcases h with h | h | h
    · exact absurd h (Phase.not_starting speaks)
    · exact absurd h (Phase.not_halted speaks)
    · exact h
  · rw [raiseCause_enters h, (enterLockdown_fields c _).1, addCause_berth]
    refine ⟨rfl, rfl, fun silent => ?_, fun _ => rfl⟩
    rcases h with h | h | h | h <;> rw [h] at silent <;> cases silent

/-! ### A pulse that ends the run (R113) -/

/-- A line after the count of a pulse that ends its run (R108, R113). -/
def Line.ended (outward : Bool) (v : Nat) (l : Line) : Line := { l.countPulse outward v with run := none }

/-- The part after the count of a pulse that ends the run of line `n`. -/
def endedRun (n : LineId) (outward : Bool) (s : State) : State :=
  modLine n (fun l => { l with run := none }) (countedPulse n outward s)

theorem line_endedRun (outward : Bool) (s : State) : (endedRun n outward s).line n =
    (s.line n).ended outward (s.ticksFor (stallTime s.image)) := by
  unfold endedRun
  rw [line_modLine_self, line_countedPulse]
  rfl

theorem ownChange_endedRun (outward : Bool) (s : State) : OwnChange n s (endedRun n outward s) :=
  (OwnChange.modLine _ s).trans (.modLine _ _)

theorem Line.ended_fields (outward : Bool) (v : Nat) (l : Line) : (l.ended outward v).state = l.state ∧
    (l.ended outward v).cls = l.cls ∧ (l.ended outward v).stowMade = l.stowMade ∧
    (l.ended outward v).brakeSet = l.brakeSet ∧ (l.ended outward v).brakeSettle = l.brakeSettle ∧
    (l.ended outward v).pulseAge = 0 ∧
    (l.ended outward v).payout = if outward then min 65535 (l.payout + 1) else l.payout - 1 := by
  unfold Line.ended Line.countPulse
  split <;> exact ⟨rfl, rfl, rfl, rfl, rfl, rfl, rfl⟩

theorem Line.spared_ended (outward : Bool) (v : Nat) (l : Line) : l.Spared (l.ended outward v) := by
  obtain ⟨flags, record, verdict⟩ := l.spared_countPulse outward v
  exact ⟨flags, record, verdict⟩

/-- A line that runs its drum does not count creep (R117). -/
theorem Line.ended_creep {l : Line} {d : Bool} (runs : l.state.expectedOutward = some d) (outward : Bool)
    (v : Nat) : (l.ended outward v).creep = l.creep := by
  have uncounted : l.creeps = false := by
    unfold Line.creeps
    cases state : l.state <;> rw [state] at runs <;> cases runs <;> rfl
  unfold Line.ended Line.countPulse
  split
  · exact if_neg (by simp [uncounted])
  · rfl

/-- The last pulse of a run, seen as the run complete of the line table (R108, R113). -/
theorem pulseEdge_ends {outward : Bool} {gap : Nat} {s : State} {c : Nat} (fitted : (s.line n).fitted = true)
    (long : 200 ≤ (s.line n).pulseAge + gap) (runs : (s.line n).state.expectedOutward = some outward)
    (last : (s.line n).run = some ⟨1, c⟩) :
    pulseEdge n outward gap s = runComplete n (endedRun n outward s) := by
  have done : ((countedPulse n outward s).line n).runDone = true := by
    rw [line_countedPulse]
    unfold Line.countPulse Line.runDone
    rw [if_pos fitted, Line.moveRun_eq, last, runs]
    simp
  rw [pulseEdge_counts long]
  unfold pulseEvents
  rw [if_neg (by simp [fitted]), if_pos done]
  rfl

/-- A drum event without a hand-on leaves what a drum event leaves. -/
theorem OwnChange.drumKept_bare {s t : State} (h : OwnChange n s t) (spared : (s.line n).Spared (t.line n)) :
    DrumKept s t n :=
  ⟨spared.flags, spared.record, spared.verdict, fun m hm _ => (h.others m hm).line, ⟨h.profile, h.supply⟩,
    h.notices⟩

/-- What a line is after a pulse, by the fields no event at the end of its run touches (R108). -/
theorem counted_of_line {u : State} {outward : Bool} {l k : Line} (line : u.line n = k)
    (age : k.pulseAge = 0) (payout : k.payout = if outward then min 65535 (l.payout + 1) else l.payout - 1) :
    (u.line n).pulseAge = 0 ∧ (u.line n).payout = if outward then min 65535 (l.payout + 1) else l.payout - 1 := by
  rw [line]
  exact ⟨age, payout⟩

theorem State.Sound.endedRun {s : State} (h : s.Sound) (outward : Bool) : (endedRun n outward s).Sound := by
  have counted := h.modLine (f := Line.countPulse outward (s.ticksFor (stallTime s.image)))
    ((h.line n).countPulse _ _) (Line.countPulse_notice _ _ _)
  have l := counted.line n
  exact counted.modLine (f := fun l => { l with run := none })
    ⟨l.1, l.2, l.3, l.4, l.5, l.6, l.7, by simp, by simp, l.10, l.11, l.12, l.13⟩ rfl

/-- A run ended in a state that rests, with an order of the part's own (R19, R22). -/
theorem runEnds_rest {k : OrderKind} (order : k ≠ .ease) {st : LineState} (moves : st.moves = false)
    (hauls : st.isHauling = false) (slips : st ≠ .slipping) (tight : st ≠ .slack) (c : PartCause)
    {outward : Bool} {s : State} (other : st ≠ (s.line n).state)
    (runs : (s.line n).state.expectedOutward = some outward) :
    let u := transition n st (some (k, c)) (endedRun n outward s)
    ((u.line n).pulseAge = 0 ∧ (u.line n).payout =
      if outward then min 65535 ((s.line n).payout + 1) else (s.line n).payout - 1) ∧
    (u.line n).state = st ∧ (u.line n).lastPart = some ⟨k, c⟩ ∧ (u.line n).Rests ∧ DrumKept s u n ∧
    makePair n k 0 0 ∈ u.bus.orderLane ∧ TakenIn s (s.line n) (u.line n) ∧ VacatesBy s u s.berth ∧
    ((s.line n).fitted = true → st ≠ .parked → u.berth = s.berth) := by
  intro u
  have own := line_endedRun (n := n) outward s
  have creep := Line.ended_creep runs outward (s.ticksFor (stallTime s.image))
  obtain ⟨-, -, -, brake, -, age, payout⟩ :=
    (s.line n).ended_fields outward (s.ticksFor (stallTime s.image))
  have spared := (s.line n).spared_ended outward (s.ticksFor (stallTime s.image))
  obtain ⟨⟨p, line⟩, pair, kept, vacates, berth⟩ :=
    transition_own order tight c (ownChange_endedRun outward s) (by rw [own]; exact spared)
  rw [own] at line
  refine ⟨counted_of_line line age payout, by rw [line]; rfl, by rw [line], ?_, kept, pair, ?_, vacates, berth⟩
  · have rests := Line.rests_enter moves hauls slips s.image s.ticksFor
      ((s.line n).ended outward (s.ticksFor (stallTime s.image)))
    rw [line]
    exact rests
  · have taken := TakenIn.enter (s := s) other brake creep
    rw [line]
    exact taken.congr rfl rfl rfl

/-- A fault with a LOCK, entered at a pulse (R18, R22, R25). -/
theorem faultLine_pulse (r : FaultReason) (c : PartCause) {outward : Bool} {s t : State}
    (change : OwnChange n s t) (spared : (s.line n).Spared (t.line n)) (fitted : (s.line n).fitted = true)
    (age : (t.line n).pulseAge = 0)
    (payout : (t.line n).payout = if outward then min 65535 ((s.line n).payout + 1) else (s.line n).payout - 1) :
    let u := faultLine n r (some c) t
    ((u.line n).pulseAge = 0 ∧ (u.line n).payout =
      if outward then min 65535 ((s.line n).payout + 1) else (s.line n).payout - 1) ∧
    (u.line n).state = .faulted r ∧ (u.line n).notice = true ∧ (u.line n).lastPart = some ⟨.lock, c⟩ ∧
    (u.line n).Rests ∧ (u.line n).brakeSettle = none ∧ DrumKept s u n ∧
    makePair n .lock 0 0 ∈ u.bus.orderLane ∧ u.berth = s.berth := by
  intro u
  obtain ⟨⟨p, line⟩, pair, kept, berth⟩ := faultLine_with_lock r c change spared fitted
  have rests := Line.rests_enter (st := .faulted r) rfl rfl (by simp) s.image s.ticksFor (t.line n)
  refine ⟨counted_of_line line age payout, by rw [line]; rfl, by rw [line], by rw [line], ?_, by rw [line]; rfl,
    kept, pair, berth⟩
  rw [line]
  exact rests

end Sys2Proof.Machine
end

section
/-! SUPPORT. O50: the run complete of PAYING, RENDERING and REWINDING, and the creep limit. -/

namespace Sys2Proof.Machine

variable {n : LineId}

theorem runComplete_paying {s : State} {v : Nat} (h : (s.line n).state = .paying v) :
    runComplete n s = transition n (restState (s.line n).cls) (some (.lock, .runComplete)) s := by
  unfold runComplete
  rw [h]

theorem runComplete_step {s : State} {ret : RenderReturn} {used : Nat} (h : (s.line n).state = .rendering ret used)
    (more : used < renderStepLimit s.image) : runComplete n s = renderStepOn n ret used s := by
  unfold runComplete
  rw [h]
  exact if_pos more

theorem runComplete_exhausted {s : State} {ret : RenderReturn} {used : Nat}
    (h : (s.line n).state = .rendering ret used) (last : renderStepLimit s.image ≤ used) :
    runComplete n s =
      raiseCause .overload false (faultLine n .renderExhausted (some .renderExhausted) s) := by
  unfold runComplete
  rw [h]
  exact if_neg (Nat.not_lt.mpr last)

theorem runComplete_home {s : State} (h : (s.line n).state = .rewinding)
    (home : ((s.line n).stowMade || s.stowComing n) = true) :
    runComplete n s = transition n .parked (some (.park, .runComplete)) s := by
  unfold runComplete
  rw [h, rewindComplete_home home]
  rfl

theorem runComplete_away {s : State} (h : (s.line n).state = .rewinding)
    (away : ((s.line n).stowMade || s.stowComing n) = false) :
    runComplete n s = faultLine n .stowMismatch (some .stowMismatch) s := by
  unfold runComplete
  rw [h, rewindComplete_away away]
  rfl

/-- A further render step of line `n`: its line, its pair, and nothing else (R18). -/
theorem renderStepOn_own (ret : RenderReturn) (used : Nat) {s t : State} (change : OwnChange n s t) :
    (renderStepOn n ret used t).line n = { t.line n with
      state := .rendering ret (used + 1)
      lastPart := some ⟨.ease, .renderStep⟩
      run := some ⟨renderStep s.image n, renderStep s.image n⟩
      stall := some (s.ticksFor (stallTime s.image)) } ∧
    makePair n .ease 0 (renderStep s.image n) ∈ (renderStepOn n ret used t).bus.orderLane ∧
    OwnChange n s (renderStepOn n ret used t) := by
  have stepped := change.trans (.modLine (fun l => { l with state := .rendering ret (used + 1) }) t)
  refine ⟨?_, ?_, (stepped.trans (.partOrder .ease .renderStep _)).trans (.askLine _)⟩
  · unfold renderStepOn
    rw [line_askLine, partOrder_line_ease, line_modLine_self, stepped.image, stepped.ticksFor]
  · have pair := pair_partOrder (n := n) .ease .renderStep
      (modLine n (fun l => { l with state := .rendering ret (used + 1) }) t)
    rw [if_pos rfl, stepped.image] at pair
    unfold renderStepOn
    rwa [Bus.bare_orderLane (askLine_bare n _)]

theorem Line.countPulse_parts (l : Line) (outward : Bool) (v : Nat) :
    (l.countPulse outward v).lastPart = l.lastPart ∧ (l.countPulse outward v).pulseAge = 0 ∧
    (l.countPulse outward v).payout = if outward then min 65535 (l.payout + 1) else l.payout - 1 := by
  unfold Line.countPulse
  split <;> exact ⟨rfl, rfl, rfl⟩

theorem pulseEdge_creeps {outward : Bool} {gap : Nat} {s : State} (fitted : (s.line n).fitted = true)
    (long : 200 ≤ (s.line n).pulseAge + gap) (creeps : (s.line n).creeps = true)
    (stands : (s.line n).run = none) (limit : creepLimit s.image ≤ (s.line n).creep + 1) :
    pulseEdge n outward gap s = creepEvent n (countedPulse n outward s) := by
  have line := line_countedPulse (n := n) outward s
  unfold Line.countPulse at line
  rw [if_pos fitted] at line
  have idle : ((countedPulse n outward s).line n).runDone = false := by
    rw [line]
    unfold Line.runDone
    rw [Line.moveRun_eq, stands]
    rfl
  have reached : ((s.line n).creeps && decide (creepLimit (countedPulse n outward s).image ≤
      ((countedPulse n outward s).line n).creep)) = true := by
    rw [line, creeps, if_pos rfl]
    exact decide_eq_true limit
  rw [pulseEdge_counts long]
  unfold pulseEvents
  rw [if_neg (by simp [fitted]), if_neg (by simp [idle]), if_pos reached]

theorem creepEvent_parked {s : State} (h : (s.line n).state = .parked) :
    creepEvent n s = faultLine n .brakeCreep none s := by
  unfold creepEvent
  rw [h]

theorem creepEvent_braked {s : State} (counts : (s.line n).state.countsCreep = true)
    (h : (s.line n).state ≠ .parked) : creepEvent n s = faultLine n .brakeCreep (some .brakeCreep) s := by
  unfold creepEvent
  cases state : (s.line n).state with
  | parked => exact absurd state h
  | standing | locked | slack => rfl
  | _ =>
    rw [state] at counts
    cases counts

/-- The states a stopped line comes to rest in run no drum (R19). -/
theorem restState_rests (c : Classification) (v : Nat) : (restState c).moves = false ∧
    (restState c).isHauling = false ∧ restState c ≠ .slipping ∧ restState c ≠ .paying v := by
  cases c <;> simp [restState, LineState.moves, LineState.isHauling]

/-- A raised cause leaves a line that has just been faulted as it is (R131, R132). -/
theorem raiseCause_faulted {v : State} {r : FaultReason} (faulted : (v.line n).state = .faulted r)
    (noticed : (v.line n).notice = true) (lock : makePair n .lock 0 0 ∈ v.bus.orderLane) (c : LockdownCause)
    (p : Bool) :
    let u := raiseCause c p v
    ((u.line n).pulseAge = (v.line n).pulseAge ∧ (u.line n).payout = (v.line n).payout ∧
      (u.line n).state = .faulted r ∧ (u.line n).notice = true ∧ (u.line n).lastPart = (v.line n).lastPart ∧
      ((v.line n).Rests → (u.line n).Rests) ∧ (u.line n).brakeSettle = (v.line n).brakeSettle) ∧
    makePair n .lock 0 0 ∈ u.bus.orderLane := by
  intro u
  obtain ⟨⟨verdict, latch, line⟩, lock'⟩ := stilled_raiseCause noticed (by rw [faulted]; rfl) lock c p
  refine ⟨?_, lock'⟩
  rw [line]
  exact ⟨rfl, rfl, faulted, noticed, rfl, id, rfl⟩

/-- The fault of an exhausted render, before its cause is raised (R18). -/
def exhausted (n : LineId) (outward : Bool) (s : State) : State :=
  faultEntry n .renderExhausted (some .renderExhausted) (endedRun n outward s)

/-- The part at the fault entry of an exhausted render, and LOCKDOWN entered from its hand-on. -/
theorem exhausted_enters {outward : Bool} {s : State} (sound : s.Sound) (phase : s.berth.phase = .vacant ∨
      s.berth.phase = .arrival ∨ s.berth.phase = .secured ∨ s.berth.phase = .departure)
    (fitted : (s.line n).fitted = true) :
    let w := exhausted n outward s
    (w.line n).state = .faulted .renderExhausted ∧ (w.line n).notice = true ∧
    (w.line n).lastPart = some ⟨.lock, .renderExhausted⟩ ∧ (w.line n).Rests ∧ (w.line n).brakeSettle = none ∧
    DrumKept s w n ∧ (∀ m, m ≠ n → w.line m = s.line m) ∧ makePair n .lock 0 0 ∈ w.bus.orderLane ∧
    (∀ e ∈ s.bus.orderLane, e.line ≠ n → e ∈ w.bus.orderLane) ∧ w.queue = s.queue ∧ w.scan = s.scan ∧
    w.berth = s.berth ∧ EnteredLockdown .overload (settle n w) (raiseCause .overload false (settle n w)) := by
  intro w
  have change : OwnChange n s w := (ownChange_endedRun outward s).trans (.faultEntry _ _ _)
  have line : w.line n = _ := faultEntry_line .renderExhausted .renderExhausted (endedRun n outward s)
  rw [line_endedRun] at line
  have rests := Line.rests_enter (st := .faulted .renderExhausted) rfl rfl (by simp) (endedRun n outward s).image
    (endedRun n outward s).ticksFor ((s.line n).ended outward (s.ticksFor (stallTime s.image)))
  obtain ⟨flags, record, verdict⟩ := (s.line n).spared_ended outward (s.ticksFor (stallTime s.image))
  have berth : (settle n w).berth = s.berth := by
    refine (settle_berth_of_out (n := n) ?_ ?_ ?_ n).trans change.berth
    · rw [line]
      simp [Line.enter]
    · rw [line]
      exact flags.1.trans fitted
    · rw [line]
      simp [Line.enter]
  have sound' : (settle n w).Sound := ((sound.endedRun outward).faultEntry n _ _).settle n
  refine ⟨by rw [line]; rfl, by rw [line], by rw [line], ?_, by rw [line]; rfl, change.drumKept_bare ?_,
    fun m hm => (change.others m hm).line, pair_faultEntry _ _ _, fun e he hm => ?_, change.queue, change.scan,
    change.berth, ?_⟩
  · rw [line]
    exact rests
  · rw [line]
    exact ⟨flags, record, verdict⟩
  · exact (mem_iff_of_laneOf (change.others e.line hm).lane e rfl).mpr he
  · exact (enteredLockdown_raiseCause sound'.queueLines (by rw [berth]; exact phase) rfl rfl rfl rfl rfl rfl).1

/-- Settles O50: the run ended in each of its three states, then the creep limit. -/
theorem runCompletes : Obligations.RunCompletes := by
  intro n outward gap s power fitted long
  have own := line_endedRun (n := n) outward s
  have change := ownChange_endedRun (n := n) outward s
  have spared := (s.line n).spared_ended outward (s.ticksFor (stallTime s.image))
  obtain ⟨state, cls, stow, -, settle', age, payout⟩ :=
    (s.line n).ended_fields outward (s.ticksFor (stallTime s.image))
  have spared' : (s.line n).Spared ((endedRun n outward s).line n) := by
    rw [own]
    exact spared
  have home : (((endedRun n outward s).line n).stowMade || (endedRun n outward s).stowComing n) =
      ((s.line n).stowMade || s.stowComing n) := by
    rw [own, stow, stowComing_congr change.pending]
  rw [← own] at state cls age payout settle'
  refine ⟨fun runs ⟨c, last⟩ => ?_, fun counts brake stands limit => ?_⟩
  · have edge := pulseEdge_ends (gap := gap) fitted long runs last
    have run : exec (.pulse n outward gap) s = .next (arbitrate (runComplete n (endedRun n outward s))) := by
      rw [exec_pulse power, edge]
    cases now : (s.line n).state with
    | paying v =>
      rw [runComplete_paying (state.trans now), cls] at run
      obtain ⟨moves, hauls, slips, other⟩ := restState_rests (s.line n).cls v
      obtain ⟨counted, state', part, rests, kept, pair, taken, -, berth⟩ :=
        runEnds_rest (k := .lock) (by simp) moves hauls slips (restState_ne_slack _) .runComplete
          (by rw [now]; exact other) runs
      exact ⟨_, run, counted, fun _ _ => ⟨state', part, rests, kept, pair, taken,
        berth fitted (restState_ne_parked _)⟩, (by simp), (by simp), (by simp), (by simp)⟩
    | rendering ret used =>
      rcases Nat.lt_or_ge used (renderStepLimit s.image) with more | most
      · rw [runComplete_step (state.trans now) (by rw [change.image]; exact more)] at run
        obtain ⟨line, pair, change'⟩ := renderStepOn_own (n := n) ret used change
        have kept : DrumKept s (renderStepOn n ret used (endedRun n outward s)) n := by
          refine change'.drumKept_bare ?_
          rw [line, own]
          exact ⟨spared.flags, spared.record, spared.verdict⟩
        refine ⟨_, run, counted_of_line line age payout, (by simp), fun _ _ same _ => ?_, fun _ _ same full => ?_,
          (by simp), (by simp)⟩
        · cases same
          refine ⟨by rw [line], by rw [line], by rw [line], by rw [line], ?_, pair, kept, change'.berth,
            change'.queue⟩
          rw [line]
          exact settle'
        · cases same
          exact absurd more (Nat.not_lt.mpr full)
      · rw [runComplete_exhausted (state.trans now) (by rw [change.image]; exact most)] at run
        have faulted := faultLine_pulse .renderExhausted .renderExhausted change spared' fitted age payout
        obtain ⟨counted, state', notice, part, rests, settled, kept, pair, berth⟩ := faulted
        obtain ⟨own', lock⟩ := raiseCause_faulted state' notice pair .overload false
        obtain ⟨causes, present, silent, speaks⟩ := raiseCause_berth .overload false
          (faultLine n .renderExhausted (some .renderExhausted) (endedRun n outward s))
        rw [berth] at causes present silent speaks
        obtain ⟨age', payout', state'', notice', part', rests', settled''⟩ := own'
        refine ⟨_, run, ⟨age'.trans counted.1, payout'.trans counted.2⟩, (by simp), fun _ _ same less => ?_,
          fun _ _ same full => ?_, (by simp), (by simp)⟩
        · cases same
          exact absurd less (Nat.not_lt.mpr most)
        · exact ⟨state'', notice', part'.trans part, rests' rests, settled''.trans settled, lock, causes, present,
            silent, speaks, fun sound phase => ⟨exhausted n outward s, exhausted_enters sound phase fitted⟩⟩
    | rewinding =>
      cases stowed : ((s.line n).stowMade || s.stowComing n) with
      | true =>
        rw [runComplete_home (state.trans now) (home.trans stowed)] at run
        obtain ⟨counted, state', part, rests, kept, pair, taken, vacates, -⟩ :=
          runEnds_rest (k := .park) (by simp) (st := .parked) rfl rfl (by simp) (by simp) .runComplete
            (by rw [now]; simp) runs
        refine ⟨_, run, counted, (by simp), (by simp), (by simp),
          fun _ _ => ⟨state', part, rests, kept, taken, pair, vacates⟩, fun _ unmade uncoming => ?_⟩
        rcases (stow_iff s).mp stowed with made | comes
        · exact absurd (made.symm.trans unmade) (by simp)
        · exact absurd comes uncoming
      | false =>
        rw [runComplete_away (state.trans now) (home.trans stowed)] at run
        obtain ⟨counted, state', notice, part, rests, settled, kept, pair, berth⟩ :=
          faultLine_pulse .stowMismatch .stowMismatch change spared' fitted age payout
        refine ⟨_, run, counted, (by simp), (by simp), (by simp), fun _ found => ?_,
          fun _ _ _ => ⟨state', notice, part, rests, settled, kept, pair, berth⟩⟩
        rw [(stow_iff s).mpr found] at stowed
        cases stowed
    | _ =>
      rw [now] at runs
      cases runs
  · have creeps := (Line.creeps_iff (s.line n)).mpr ⟨counts, brake⟩
    have change : OwnChange n s (countedPulse n outward s) := .modLine _ s
    have own := line_countedPulse (n := n) outward s
    have run : exec (.pulse n outward gap) s =
        .next (arbitrate (creepEvent n (countedPulse n outward s))) := by
      rw [exec_pulse power, pulseEdge_creeps fitted long creeps stands limit]
    obtain ⟨state, -⟩ := Line.countPulse_state (s.line n) outward (s.ticksFor (stallTime s.image))
    have spared : (s.line n).Spared ((countedPulse n outward s).line n) := by
      rw [own]
      exact Line.spared_countPulse _ _ _
    obtain ⟨part, age, payout⟩ := (s.line n).countPulse_parts outward (s.ticksFor (stallTime s.image))
    rw [← own] at state part age payout
    by_cases parked : (s.line n).state = .parked
    · rw [creepEvent_parked (state.trans parked)] at run
      obtain ⟨⟨p, line⟩, pairs, kept, berth⟩ :=
        faultLine_without_order .brakeCreep change rfl spared fitted
      have rests := Line.rests_enter (st := .faulted .brakeCreep) rfl rfl (by simp) s.image s.ticksFor
        ((countedPulse n outward s).line n)
      refine ⟨_, run, counted_of_line line age payout, by rw [line]; rfl, by rw [line], kept, ?_, by rw [line]; rfl,
        berth, fun _ => ⟨?_, pairs⟩, fun out => absurd parked out⟩
      · rw [line]
        exact rests
      · rw [line]
        exact part
    · rw [creepEvent_braked (by rw [state]; exact counts) (by rw [state]; exact parked)] at run
      obtain ⟨counted, state', notice, part', rests, settled, kept, pair, berth⟩ :=
        faultLine_pulse .brakeCreep .brakeCreep change spared fitted age payout
      exact ⟨_, run, counted, state', notice, kept, rests, settled, berth, fun p => absurd p parked,
        fun _ => ⟨part', pair⟩⟩

end Sys2Proof.Machine
end

section
/-! SUPPORT. The hold queue's judgement of a sample: the probe result, and every other sample. -/

namespace Sys2Proof.Machine

variable {n : LineId}

/-! ### Entries replaced -/

theorem putEntry_putEntry {e f : Entry} (h : f.line = e.line) (s : State) :
    putEntry f (putEntry e s) = putEntry f s := by
  unfold putEntry
  simp only [List.map_map]
  congr 1
  refine List.map_congr_left fun x _ => ?_
  rw [Function.comp_apply]
  by_cases own : x.line = e.line
  · rw [if_pos own, h, if_pos rfl, if_pos own]
  · rw [if_neg own]

theorem entry_putEntry_other {e : Entry} {m : LineId} (h : m ≠ e.line) (s : State) :
    (putEntry e s).entry m = s.entry m := (Kept.putEntry h s).entry

/-- The judgement of an entry reads nothing of the list but the entry itself (R67). -/
theorem judgeSlip_putEntry (e : Entry) (s : State) : judgeSlip e (putEntry e s) = judgeSlip e s := by
  have same : judged (putEntry e s) e = judged s e := rfl
  have put : putEntry (judged s e) (putEntry e s) = putEntry (judged s e) s :=
    putEntry_putEntry (judged_line s e) s
  have asked : askJudged e (putEntry e s) = askJudged e s := by
    unfold askJudged
    rw [same, put]
  rw [judgeSlip_eq, judgeSlip_eq, same, asked]

/-! ### A sample for an entry (R65, R66, R68, R70) -/

theorem sampleEntry_slip {e : Entry} {probe : Bool} {s : State} (found : s.entry n = some e)
    (kind : e.kind = .slip) : sampleEntry n probe s =
      if probe && e.probeBegun && e.stage == .probing && gatesOpen s n then
        if tensionFree s n then autoVacant (reevaluate (forward e s)) else failProbe e s
      else if probe && e.probeBegun && e.stage == .probing then judgeSlip e s
      else takeProbes (judgeSlip { e with failed := e.failed && !tensionFree s n } s) := by
  unfold sampleEntry
  rw [found]
  dsimp only
  rw [kind]

theorem sampleEntry_unheld {probe : Bool} {s : State} (h : ∀ e, s.entry n = some e → e.kind = .rewind) :
    sampleEntry n probe s = s := by
  unfold sampleEntry
  cases found : s.entry n with
  | none => rfl
  | some e =>
    dsimp only
    rw [h e found]

section Probed

variable {e : Entry} {s : State} (found : s.entry n = some e) (kind : e.kind = .slip)
  (stage : e.stage = .probing) (begun : e.probeBegun = true)
include found kind stage begun

theorem sampleEntry_passes (opened : s.Open n) (free : s.Free n) :
    sampleEntry n true s = autoVacant (reevaluate (forward e s)) := by
  rw [sampleEntry_slip found kind, if_pos, if_pos ((tensionFree_iff s n).mpr free)]
  rw [begun, stage, (gatesOpen_iff s n).mpr opened]
  rfl

theorem sampleEntry_fails (opened : s.Open n) (tight : ¬ s.Free n) :
    sampleEntry n true s = failProbe e s := by
  rw [sampleEntry_slip found kind, if_pos, if_neg fun c => tight ((tensionFree_iff s n).mp c)]
  rw [begun, stage, (gatesOpen_iff s n).mpr opened]
  rfl

theorem sampleEntry_unused (shut : ¬ s.Open n) : sampleEntry n true s = judgeEntry n s := by
  have closed : gatesOpen s n = false := by
    rw [← Bool.not_eq_true, gatesOpen_iff]
    exact shut
  rw [sampleEntry_slip found kind, judgeEntry_slip found kind, closed, begun, stage]
  rfl

end Probed

/-- A sample that is no probe result, as a judgement of the entry it leaves in the list. -/
theorem sampleEntry_ordinary {e : Entry} {probe : Bool} {s : State} (found : s.entry n = some e)
    (kind : e.kind = .slip) (h : ¬ (probe = true ∧ e.stage = .probing ∧ e.probeBegun = true)) :
    sampleEntry n probe s = takeProbes (judgeEntry n
      (putEntry { e with failed := e.failed && !tensionFree s n } s)) := by
  have own : e.line = n := entry_line found
  have unused : (probe && e.probeBegun && e.stage == .probing) = false := by
    rw [← Bool.not_eq_true, Bool.and_eq_true, Bool.and_eq_true, beq_iff_eq]
    exact fun c => h ⟨c.1.1, c.2, c.1.2⟩
  have put : (putEntry { e with failed := e.failed && !tensionFree s n } s).entry n =
      some { e with failed := e.failed && !tensionFree s n } := by
    subst own
    exact entry_putEntry (e := { e with failed := e.failed && !tensionFree s e.line }) found
  rw [sampleEntry_slip found kind, unused, judgeEntry_slip put kind, judgeSlip_putEntry]
  rfl

/-- The closed set where the three gates are open (R61). -/
theorem slipGates_of_open {s : State} (h : s.Open n) : slipGates s n = ⟨false, false, false, true, false⟩ := by
  have opened := (gatesOpen_iff s n).mpr h
  unfold gatesOpen at opened
  rw [Bool.and_eq_true, Bool.and_eq_true] at opened
  unfold slipGates
  rw [opened.1.1, opened.1.2, opened.2]
  rfl

/-- The entry of a failed probe (R68). -/
def Entry.probeFailed (e : Entry) (s : State) : Entry :=
  { e with closed := slipGates s e.line, stage := .waiting, failed := true, probeBegun := false }

theorem failProbe_fields (e : Entry) (s : State) :
    (failProbe e s).queue = (putEntry (e.probeFailed s) s).queue ∧ (failProbe e s).lines = s.lines ∧
    (failProbe e s).bus.orderLane = s.bus.orderLane ∧ (failProbe e s).scan = s.scan ∧
    (failProbe e s).berth = s.berth := by
  unfold failProbe
  refine ⟨askLine_queue _ _, lines_askLine _ _, ?_, askLine_scan _ _, askLine_berth _ _⟩
  exact Bus.bare_orderLane (askLine_bare _ _)

/-- A SLIP forwarded as the one entry of the list (R66, R69). -/
theorem forwarded_alone {e : Entry} {s : State} (alone : s.queue = [e]) (kind : e.kind = .slip)
    (ready : s.Ready e.line) :
    let u := autoVacant (reevaluate (forward e s))
    u.queue = [] ∧ (u.line e.line).state = .slipping ∧
    (u.line e.line).slip = some (s.ticksFor (slipTimeLimit s.image)) ∧
    (u.line e.line).lastHost =
      ⟨some (e.tag, .slip), some .forwarded, (s.line e.line).lastHost.superseded⟩ ∧
    makePair e.line .slip e.tag 0 ∈ u.bus.orderLane ∧ ∀ m, m ≠ e.line → u.line m = s.line m := by
  intro u
  obtain ⟨verdict, queue, slip, -, -, -, -, others, -⟩ := forwarded_forward e s
  obtain ⟨state, timer, pair⟩ := slip kind
  have empty : (forward e s).queue = [] := by
    rw [queue, alone]
    simp
  have same : u = autoVacant (forward e s) := congrArg autoVacant (reevaluate_of_empty empty)
  have kept : ∀ m, Kept m (forward e s) u := fun m => by
    rw [same]
    exact .autoVacant _
  have unslipped : (s.line e.line).state ≠ .slipping := by
    rcases ready with h | h | h <;> rw [h] <;> simp
  refine ⟨?_, ?_, ?_, ?_, ?_, fun m hm => (kept m).line.trans (others m hm)⟩
  · rw [same, autoVacant_queue]
    exact empty
  · rw [(kept e.line).line]
    exact state
  · rw [(kept e.line).line]
    exact timer unslipped
  · rw [(kept e.line).line, verdict, kind]
    rfl
  · exact (kept e.line).held.pair rfl pair

/-- Settles O60: what is no SLIP entry, the probe result, any other sample, and the entry alone. -/
theorem probeResult : Obligations.ProbeResult := by
  refine ⟨fun n probe s h => sampleEntry_unheld h, fun n e s found kind stage begun => ⟨fun opened free =>
    ⟨forward e s, forwarded_forward e s, sampleEntry_passes found kind stage begun opened free⟩,
    fun opened tight => ?_, sampleEntry_unused found kind stage begun⟩, fun n e probe s found kind ordinary => ?_,
    fun n e s alone own kind stage begun opened _ => ?_⟩
  · have own : e.line = n := entry_line found
    subst own
    obtain ⟨queue, lines, lane, scan, berth⟩ := failProbe_fields e s
    refine ⟨slipGates s e.line, closed_slipGates s e.line, ?_⟩
    rw [sampleEntry_fails found kind stage begun opened tight]
    refine ⟨?_, lines, lane, scan, berth, fun m hm => ?_⟩
    · rw [entry_congr queue]
      exact entry_putEntry (e := e.probeFailed s) found
    · rw [entry_congr queue]
      exact entry_putEntry_other (e := e.probeFailed s) hm s
  · have own : e.line = n := entry_line found
    subst own
    refine ⟨putEntry { e with failed := e.failed && !tensionFree s e.line } s,
      fun m hm => entry_putEntry_other (e := { e with failed := e.failed && !tensionFree s e.line }) hm s, rfl,
      fun free => ?_, fun tight => ?_, sampleEntry_ordinary found kind ordinary⟩
    · rw [(tensionFree_iff s e.line).mpr free, Bool.not_true, Bool.and_false]
      exact entry_putEntry (e := { e with failed := false }) found
    · have closed : tensionFree s e.line = false := by
        rw [← Bool.not_eq_true, tensionFree_iff]
        exact tight
      rw [closed, Bool.not_false, Bool.and_true]
      exact entry_putEntry (e := e) found
  · subst own
    have found : s.entry e.line = some e := by
      unfold State.entry
      rw [alone]
      simp
    refine ⟨fun free => ?_, fun tight => ?_⟩
    · rw [sampleEntry_passes found kind stage begun opened free]
      exact forwarded_alone alone kind opened.1
    · rw [sampleEntry_fails found kind stage begun opened tight]
      obtain ⟨queue, lines, lane, scan, -⟩ := failProbe_fields e s
      refine ⟨?_, lines, lane, scan⟩
      rw [queue]
      unfold putEntry
      rw [alone]
      simp [Entry.probeFailed, slipGates_of_open opened]

end Sys2Proof.Machine
end

section
/-! SUPPORT. O57: the sample event of the line table, as the change of the line that the hold queue is then told. -/

namespace Sys2Proof.Machine

variable {n : LineId}

/-! ### The changes a sample can make to its line (R9 to R17, R204) -/

/-- A state entered with an order of the part's own, before the hand-on. -/
def orderedInto (n : LineId) (st : LineState) (k : OrderKind) (c : PartCause) (s : State) : State :=
  partOrder n k c (enterState n st s)

/-- Render entry, before the hand-on (R16). -/
def renderingInto (n : LineId) (ret : RenderReturn) (s : State) : State :=
  setLineNotice n (orderedInto n (.rendering ret 1) .ease .renderStep s)

/-- The state a render returns to (R17). -/
def RenderReturn.state : RenderReturn → LineState
  | .locked => .locked
  | .tending => .tending

/-- The order a render returns with (R17). -/
def RenderReturn.order : RenderReturn → OrderKind
  | .locked => .lock
  | .tending => .tend

/-- The part after the sample event of line `n`, before the hold queue is told (R9 to R17, R206). -/
def sampledPart (n : LineId) (s : State) : State :=
  match (s.line n).state with
  | .adopting => if s.berth.phase.silent then s else deriveLine n s
  | .hauling target =>
    if overMet s n then renderingInto n .locked s
    else if haulReached s n target then orderedInto n .locked .lock .haulReached s else s
  | .locked =>
    if overMet s n then renderingInto n .locked s
    else if slackMet s n then faultEntry n .lineSlack none s else s
  | .standing =>
    if overMet s n then renderingInto n .locked s
    else if (s.line n).cls.loaded then enterState n .locked s else s
  | .tending =>
    if overMet s n then renderingInto n .tending s
    else if slackMet s n then faultEntry n .lineSlack (some .lineSlack) s else s
  | .slipping => if slackMet s n then enterState n .slack s else s
  | .rewinding => if (s.line n).cls.snags then faultEntry n .snag (some .snag) s else s
  | .rendering ret _ =>
    if (s.line n).cls.relieves then orderedInto n ret.state ret.order .renderReturn s else s
  | .paying _ | .parked | .slack | .faulted _ => s

/-- What a change of line `n` at a sample can be. -/
inductive SampleChange (n : LineId) (s : State) : State → Prop where
  | renders (ret : RenderReturn) (h : (s.line n).state ≠ .rendering ret 1) :
      SampleChange n s (renderingInto n ret s)
  | orders {st : LineState} {k : OrderKind} (c : PartCause) (order : k ≠ .ease) (h : (s.line n).state ≠ st) :
      SampleChange n s (orderedInto n st k c s)
  | enters {st : LineState} (h : (s.line n).state ≠ st) : SampleChange n s (enterState n st s)
  | faults {r : FaultReason} (lock : Option PartCause) (h : (s.line n).state ≠ .faulted r) :
      SampleChange n s (faultEntry n r lock s)
  | derives (h : (s.line n).state = .adopting) : SampleChange n s (deriveLine n s)

/-- A sample event changes nothing, or hands one of the changes on (R5, R9 to R17). -/
theorem sampleEvent_cases (n : LineId) (s : State) : (sampledPart n s = s ∧ sampleEvent n s = s) ∨
    (SampleChange n s (sampledPart n s) ∧ sampleEvent n s = settle n (sampledPart n s)) := by
  unfold sampledPart sampleEvent
  cases state : (s.line n).state with
  | adopting =>
    dsimp only
    split
    · exact .inl ⟨rfl, rfl⟩
    · exact .inr ⟨.derives state, rfl⟩
  | hauling target =>
    dsimp only
    split
    · exact .inr ⟨.renders .locked (by rw [state]; simp), rfl⟩
    · split
      · exact .inr ⟨.orders .haulReached (by simp) (by rw [state]; simp), rfl⟩
      · exact .inl ⟨rfl, rfl⟩
  | locked =>
    dsimp only
    split
    · exact .inr ⟨.renders .locked (by rw [state]; simp), rfl⟩
    · split
      · exact .inr ⟨.faults none (by rw [state]; simp), rfl⟩
      · exact .inl ⟨rfl, rfl⟩
  | standing =>
    dsimp only
    split
    · exact .inr ⟨.renders .locked (by rw [state]; simp), rfl⟩
    · split
      · exact .inr ⟨.enters (by rw [state]; simp), rfl⟩
      · exact .inl ⟨rfl, rfl⟩
  | tending =>
    dsimp only
    split
    · exact .inr ⟨.renders .tending (by rw [state]; simp), rfl⟩
    · split
      · exact .inr ⟨.faults (some .lineSlack) (by rw [state]; simp), rfl⟩
      · exact .inl ⟨rfl, rfl⟩
  | slipping =>
    dsimp only
    split
    · exact .inr ⟨.enters (by rw [state]; simp), rfl⟩
    · exact .inl ⟨rfl, rfl⟩
  | rewinding =>
    dsimp only
    split
    · exact .inr ⟨.faults (some .snag) (by rw [state]; simp), rfl⟩
    · exact .inl ⟨rfl, rfl⟩
  | rendering ret used =>
    dsimp only
    split
    · cases ret with
      | locked => exact .inr ⟨.orders .renderReturn (by simp [RenderReturn.order]) (by rw [state]; simp [RenderReturn.state]), rfl⟩
      | tending => exact .inr ⟨.orders .renderReturn (by simp [RenderReturn.order]) (by rw [state]; simp [RenderReturn.state]), rfl⟩
    · exact .inl ⟨rfl, rfl⟩
  | paying v => exact .inl ⟨rfl, rfl⟩
  | parked => exact .inl ⟨rfl, rfl⟩
  | slack => exact .inl ⟨rfl, rfl⟩
  | faulted r => exact .inl ⟨rfl, rfl⟩

/-! ### What each change leaves -/

/-- The line of a state entered with an order other than EASE, and its pair. -/
theorem orderedInto_own {k : OrderKind} (order : k ≠ .ease) (st : LineState) (c : PartCause) (s : State) :
    (orderedInto n st k c s).line n =
      { Line.enter s.image s.ticksFor st (s.line n) with lastPart := some ⟨k, c⟩ } ∧
    makePair n k 0 0 ∈ (orderedInto n st k c s).bus.orderLane := by
  have pair := pair_partOrder (n := n) k c (enterState n st s)
  rw [if_neg order] at pair
  refine ⟨?_, pair⟩
  unfold orderedInto
  rw [partOrder_line order, enterState_line]

/-- The line of a render begun, and its pair (R16). -/
theorem renderingInto_own (ret : RenderReturn) (s : State) :
    (renderingInto n ret s).line n =
      { Line.enter s.image s.ticksFor (.rendering ret 1) (s.line n) with
        lastPart := some ⟨.ease, .renderStep⟩
        run := some ⟨renderStep s.image n, renderStep s.image n⟩
        stall := some (s.ticksFor (stallTime s.image))
        notice := true } ∧
    makePair n .ease 0 (renderStep s.image n) ∈ (renderingInto n ret s).bus.orderLane := by
  have change : OwnChange n s (enterState n (.rendering ret 1) s) := .enterState _ s
  have pair := pair_partOrder (n := n) .ease .renderStep (enterState n (.rendering ret 1) s)
  rw [if_pos rfl, change.image] at pair
  unfold renderingInto orderedInto
  constructor
  · rw [line_setLineNotice, if_pos rfl, partOrder_line_ease, enterState_line, change.image, change.ticksFor]
  · rwa [Bus.bare_orderLane (setLineNotice_bare n _)]

theorem OwnChange.setLineNotice (s : State) : OwnChange n s (setLineNotice n s) where
  others m hm := .setLineNotice hm s
  pending := by simp
  queue := by simp
  scan := by simp
  berth := by simp
  profile := by simp
  supply := by simp
  notices := by simp
  atTick := by simp

theorem OwnChange.refl (s : State) : OwnChange n s s := ⟨fun m _ => .refl m s, rfl, rfl, rfl, rfl, rfl, rfl, rfl, rfl⟩

theorem derivationLock_own (s : State) : OwnChange n s (derivationLock n s) := by
  unfold derivationLock
  split
  · exact .refl s
  · exact .partOrder _ _ s

theorem countStowed_own (s : State) : OwnChange n s (countStowed n s) := by
  unfold countStowed
  split
  · exact .modLine _ s
  · exact .refl s

theorem OwnChange.deriveLine (s : State) : OwnChange n s (deriveLine n s) := by
  rw [deriveLine_eq]
  exact ((derivationLock_own s).trans (countStowed_own _)).trans (.enterState _ _)

theorem OwnChange.sample {s w : State} (h : SampleChange n s w) : OwnChange n s w := by
  cases h with
  | renders ret _ => exact ((OwnChange.enterState _ s).trans (.partOrder _ _ _)).trans (.setLineNotice _)
  | orders c _ _ => exact (OwnChange.enterState _ s).trans (.partOrder _ _ _)
  | enters _ => exact .enterState _ s
  | faults lock _ => exact .faultEntry _ lock s
  | derives _ => exact .deriveLine s

/-- Line `n` has left its state, and drum supervision has taken it in. -/
theorem SampleChange.taken {s w : State} (h : SampleChange n s w) :
    (w.line n).state ≠ (s.line n).state ∧ TakenIn s (s.line n) (w.line n) := by
  cases h with
  | renders ret other =>
    rw [(renderingInto_own ret s).1]
    exact ⟨other.symm, (TakenIn.enter (k := s.line n) other.symm rfl rfl).congr rfl rfl rfl⟩
  | @orders st _ c order other =>
    rw [(orderedInto_own order st c s).1]
    exact ⟨other.symm, (TakenIn.enter (k := s.line n) other.symm rfl rfl).congr rfl rfl rfl⟩
  | enters other =>
    rw [enterState_line]
    exact ⟨other.symm, .enter other.symm rfl rfl⟩
  | faults lock other =>
    cases lock with
    | none =>
      rw [faultEntry_line_none]
      exact ⟨other.symm, (TakenIn.enter (k := s.line n) other.symm rfl rfl).congr rfl rfl rfl⟩
    | some c =>
      rw [faultEntry_line]
      exact ⟨other.symm, (TakenIn.enter (k := s.line n) other.symm rfl rfl).congr rfl rfl rfl⟩
  | derives adopting =>
    have other : derivedState (s.line n) ≠ (s.line n).state := by
      rw [adopting]
      rcases derivedState_cases (s.line n) with h | h | h <;> rw [h] <;> simp
    rw [line_deriveLine]
    exact ⟨other, .derived other rfl rfl⟩

/-- The part before the hand-on of a sample event differs from the part before it in line `n` alone. -/
theorem OwnChange.sampledPart (n : LineId) (s : State) : OwnChange n s (sampledPart n s) := by
  rcases sampleEvent_cases n s with ⟨same, -⟩ | ⟨change, -⟩
  · rw [same]
    exact .refl s
  · exact .sample change

theorem overMet_iff (s : State) (n : LineId) : overMet s n = true ↔
    (s.line n).cls = .over ∧ renderPersistence s.image ≤ (s.line n).overRun := by
  unfold overMet
  rw [Bool.and_eq_true, beq_iff_eq, decide_eq_true_iff]

theorem slackMet_iff (s : State) (n : LineId) : slackMet s n = true ↔
    (s.line n).cls = .slack ∧ slackPersistence s.image ≤ (s.line n).slackRun := by
  unfold slackMet
  rw [Bool.and_eq_true, beq_iff_eq, decide_eq_true_iff]

theorem haulReached_iff (s : State) (n : LineId) (v : Nat) : haulReached s n v = true ↔
    ∃ t, (s.line n).tension = some t ∧ v ≤ t := by
  unfold haulReached
  cases (s.line n).tension <;> simp

end Sys2Proof.Machine
end

section
/-! SUPPORT. O57, assembled: the change of each state under each sample. -/

namespace Sys2Proof.Machine

variable {n : LineId}

/-! ### The part before the hand-on, by the state of the line -/

section States

variable {s : State}

theorem sampledPart_adopting (h : (s.line n).state = .adopting) :
    sampledPart n s = if s.berth.phase.silent then s else deriveLine n s := by
  unfold sampledPart
  rw [h]

theorem sampledPart_hauling {target : Nat} (h : (s.line n).state = .hauling target) :
    sampledPart n s = if overMet s n then renderingInto n .locked s
      else if haulReached s n target then orderedInto n .locked .lock .haulReached s else s := by
  unfold sampledPart
  rw [h]

theorem sampledPart_locked (h : (s.line n).state = .locked) :
    sampledPart n s = if overMet s n then renderingInto n .locked s
      else if slackMet s n then faultEntry n .lineSlack none s else s := by
  unfold sampledPart
  rw [h]

theorem sampledPart_standing (h : (s.line n).state = .standing) :
    sampledPart n s = if overMet s n then renderingInto n .locked s
      else if (s.line n).cls.loaded then enterState n .locked s else s := by
  unfold sampledPart
  rw [h]

theorem sampledPart_tending (h : (s.line n).state = .tending) :
    sampledPart n s = if overMet s n then renderingInto n .tending s
      else if slackMet s n then faultEntry n .lineSlack (some .lineSlack) s else s := by
  unfold sampledPart
  rw [h]

theorem sampledPart_slipping (h : (s.line n).state = .slipping) :
    sampledPart n s = if slackMet s n then enterState n .slack s else s := by
  unfold sampledPart
  rw [h]

theorem sampledPart_rewinding (h : (s.line n).state = .rewinding) :
    sampledPart n s = if (s.line n).cls.snags then faultEntry n .snag (some .snag) s else s := by
  unfold sampledPart
  rw [h]

theorem sampledPart_rendering {ret : RenderReturn} {used : Nat} (h : (s.line n).state = .rendering ret used) :
    sampledPart n s =
      if (s.line n).cls.relieves then orderedInto n ret.state ret.order .renderReturn s else s := by
  unfold sampledPart
  rw [h]

theorem sampledPart_unmoved (h : (∃ v, (s.line n).state = .paying v) ∨ (s.line n).state = .parked ∨
      (s.line n).state = .slack ∨ (∃ r, (s.line n).state = .faulted r) ∨
      ((s.line n).state = .adopting ∧ s.berth.phase.silent = true)) : sampledPart n s = s := by
  rcases h with ⟨v, h⟩ | h | h | ⟨r, h⟩ | ⟨h, silent⟩
  case inr.inr.inr.inr => rw [sampledPart_adopting h, if_pos silent]
  all_goals
    unfold sampledPart
    rw [h]

theorem slackMet_not_overMet (h : slackMet s n = true) : ¬ overMet s n = true := fun high => by
  have cls := ((slackMet_iff s n).mp h).1.symm.trans ((overMet_iff s n).mp high).1
  cases cls

/-! ### What stands of the line after each change -/

/-- Render entry of line `n`, as the part before the hand-on (R16). -/
theorem stands_rendering {w : State} {ret : RenderReturn} (h : w = renderingInto n ret s) :
    (w.line n).state = .rendering ret 1 ∧ (w.line n).notice = true ∧
    (w.line n).lastPart = some ⟨.ease, .renderStep⟩ ∧
    (w.line n).run = some ⟨renderStep s.image n, renderStep s.image n⟩ ∧
    (w.line n).stall = some (s.ticksFor (stallTime s.image)) ∧
    makePair n .ease 0 (renderStep s.image n) ∈ w.bus.orderLane := by
  obtain ⟨line, pair⟩ := renderingInto_own (n := n) ret s
  rw [h, line]
  exact ⟨rfl, rfl, rfl, rfl, rfl, pair⟩

theorem stands_ordered {w : State} {st : LineState} {k : OrderKind} {c : PartCause}
    (h : w = orderedInto n st k c s) (order : k ≠ .ease) :
    (w.line n).state = st ∧ (w.line n).lastPart = some ⟨k, c⟩ ∧ makePair n k 0 0 ∈ w.bus.orderLane := by
  obtain ⟨line, pair⟩ := orderedInto_own (n := n) order st c s
  rw [h, line]
  exact ⟨rfl, rfl, pair⟩

theorem stands_entered {w : State} {st : LineState} (h : w = enterState n st s) :
    (w.line n).state = st ∧ (w.line n).lastPart = (s.line n).lastPart ∧ w.bus.orderLane = s.bus.orderLane := by
  rw [h, enterState_line]
  exact ⟨rfl, rfl, rfl⟩

theorem stands_faulted {w : State} {r : FaultReason} {c : PartCause} (h : w = faultEntry n r (some c) s) :
    (w.line n).state = .faulted r ∧ (w.line n).notice = true ∧ (w.line n).lastPart = some ⟨.lock, c⟩ ∧
    makePair n .lock 0 0 ∈ w.bus.orderLane := by
  rw [h, faultEntry_line]
  exact ⟨rfl, rfl, rfl, pair_faultEntry r c s⟩

theorem stands_faulted_bare {w : State} {r : FaultReason} (h : w = faultEntry n r none s) :
    (w.line n).state = .faulted r ∧ (w.line n).notice = true ∧
    (w.line n).lastPart = (s.line n).lastPart ∧ w.bus.orderLane = s.bus.orderLane := by
  rw [h, faultEntry_line_none]
  exact ⟨rfl, rfl, rfl, faultEntry_lane_none r s⟩

/-- A derivation of line `n`, as the part before the hand-on (R204). -/
theorem stands_derived {w : State} (h : w = deriveLine n s) :
    (w.line n).state = derivedState (s.line n) ∧ ((s.line n).stowMade = true → (w.line n).payout = 0) ∧
    ((s.line n).stowMade = false → (w.line n).payout = (s.line n).payout) ∧
    ((s.line n).brakeSet = false → (w.line n).lastPart = some ⟨.lock, .derivation⟩ ∧
      makePair n .lock 0 0 ∈ w.bus.orderLane) ∧
    ((s.line n).brakeSet = true →
      (w.line n).lastPart = (s.line n).lastPart ∧ w.bus.orderLane = s.bus.orderLane) := by
  rw [h, line_deriveLine]
  refine ⟨rfl, fun made => if_pos made, fun unmade => if_neg (by simp [unmade]), fun released => ⟨?_, ?_⟩,
    fun set => ⟨if_pos set, congrArg Bus.orderLane (deriveLine_bus_of_set set)⟩⟩
  · exact if_neg (by simp [released])
  · exact pair_deriveLine released

end States

/-! ### The classifications (R12, R15, R17) -/

theorem Classification.loaded_iff (c : Classification) :
    c.loaded = true ↔ c = .inBand ∨ c = .high ∨ c = .over := by cases c <;> simp [loaded]

theorem Classification.snags_iff (c : Classification) : c.snags = true ↔ c ≠ .noClass ∧ c ≠ .slack := by
  cases c <;> simp [snags]

theorem Classification.relieves_iff (c : Classification) :
    c.relieves = true ↔ c = .slack ∨ c = .low ∨ c = .inBand := by cases c <;> simp [relieves]

/-- Settles O57: the hand-on, the frame, and the change of each state. -/
theorem sampleActs : Obligations.SampleActs := by
  intro n s
  obtain ⟨others, -, queue, scan, berth, profile, supply, notices, -⟩ := OwnChange.sampledPart n s
  have heavyMet := overMet_iff s n
  have lightMet := slackMet_iff s n
  have cases' := sampleEvent_cases n s
  refine ⟨sampledPart n s, fun moved => ?_, fun same => ?_, fun empty => ?_, queue, scan, berth, profile, supply,
    notices, fun m hm => (others m hm).line, ?_, fun met v h => ?_, fun met h => ?_, fun met h => ?_,
    fun unmet v t h tension reached => ?_, fun unmet v h below => ?_, fun met h => ?_, fun met h => ?_,
    fun unmet loose h => ?_, fun met h => ?_, fun loose h => ?_, fun unmet h loaded => ?_, fun h light => ?_,
    fun h classed tight => ?_, fun h light => ?_, fun used h relieved => ?_, fun used h relieved => ?_,
    fun ret used h heavy => ?_, fun h speaks => ?_, sampledPart_unmoved⟩
  · rcases cases' with ⟨kept, -⟩ | ⟨-, told⟩
    · rw [kept] at moved
      exact absurd rfl moved
    · exact told
  · rcases cases' with both | ⟨change, -⟩
    · exact both
    · exact absurd same change.taken.1
  · rcases cases' with ⟨kept, told⟩ | ⟨-, told⟩
    · rw [kept, told]
      exact ⟨rfl, empty, rfl⟩
    · obtain ⟨lines, queue', lane, -⟩ := settle_fields n (sampledPart n s)
      rw [reevaluate_of_empty (queue.trans empty)] at lines queue' lane
      rw [told]
      exact ⟨lines, queue'.trans (queue.trans empty), lane⟩
  · rcases cases' with ⟨kept, -⟩ | ⟨change, -⟩
    · rw [kept]
      exact .of_kept rfl rfl rfl
    · exact change.taken.2
  · exact stands_rendering (by rw [sampledPart_hauling h, if_pos (heavyMet.mpr met)])
  · rcases h with h | h
    · exact stands_rendering (by rw [sampledPart_locked h, if_pos (heavyMet.mpr met)])
    · exact stands_rendering (by rw [sampledPart_standing h, if_pos (heavyMet.mpr met)])
  · exact stands_rendering (by rw [sampledPart_tending h, if_pos (heavyMet.mpr met)])
  · exact stands_ordered (by rw [sampledPart_hauling h, if_neg (mt heavyMet.mp unmet),
      if_pos ((haulReached_iff s n v).mpr ⟨t, tension, reached⟩)]) (by simp)
  · have short : ¬ haulReached s n v = true := fun c => by
      obtain ⟨t, tension, reached⟩ := (haulReached_iff s n v).mp c
      exact absurd (below t tension) (Nat.not_lt.mpr reached)
    rw [sampledPart_hauling h, if_neg (mt heavyMet.mp unmet), if_neg short]
  · have slacked := lightMet.mpr met
    exact stands_faulted_bare (by rw [sampledPart_locked h, if_neg (slackMet_not_overMet slacked), if_pos slacked])
  · have slacked := lightMet.mpr met
    exact stands_faulted (by rw [sampledPart_tending h, if_neg (slackMet_not_overMet slacked), if_pos slacked])
  · rcases h with h | h
    · rw [sampledPart_locked h, if_neg (mt heavyMet.mp unmet), if_neg (mt lightMet.mp loose)]
    · rw [sampledPart_tending h, if_neg (mt heavyMet.mp unmet), if_neg (mt lightMet.mp loose)]
  · exact stands_entered (by rw [sampledPart_slipping h, if_pos (lightMet.mpr met)])
  · rw [sampledPart_slipping h, if_neg (mt lightMet.mp loose)]
  · exact stands_entered (by rw [sampledPart_standing h, if_neg (mt heavyMet.mp unmet),
      if_pos ((Classification.loaded_iff _).mpr loaded)])
  · have unmet : ¬ overMet s n = true := fun c => by
      rw [(heavyMet.mp c).1] at light
      simp at light
    have unloaded : ¬ (s.line n).cls.loaded = true := by
      rcases light with c | c | c <;> rw [c] <;> decide
    rw [sampledPart_standing h, if_neg unmet, if_neg unloaded]
  · exact stands_faulted (by rw [sampledPart_rewinding h,
      if_pos ((Classification.snags_iff _).mpr ⟨classed, tight⟩)])
  · have free : ¬ (s.line n).cls.snags = true := by
      rcases light with c | c <;> rw [c] <;> decide
    rw [sampledPart_rewinding h, if_neg free]
  · exact stands_ordered (by rw [sampledPart_rendering h,
      if_pos ((Classification.relieves_iff _).mpr relieved)]; rfl) (by simp)
  · exact stands_ordered (by rw [sampledPart_rendering h,
      if_pos ((Classification.relieves_iff _).mpr relieved)]; rfl) (by simp)
  · have loaded : ¬ (s.line n).cls.relieves = true := by
      rcases heavy with c | c | c <;> rw [c] <;> decide
    rw [sampledPart_rendering h, if_neg loaded]
  · exact stands_derived (by rw [sampledPart_adopting h, if_neg (by simp [speaks])])

end Sys2Proof.Machine
end

section
/-! SUPPORT. O56 and O59: the sample of a pass and of a probe, what line table and hold queue keep of the tension
record that took it, and the probe that follows. -/

namespace Sys2Proof.Machine

variable {n : LineId}

/-! ### What a sample's consumers keep of a line -/

/-- `l'` has the profile flags and the tension record of `l`. -/
structure Line.Gauged (l l' : Line) : Prop where
  flags : l'.fitted = l.fitted ∧ l'.rank = l.rank ∧ l'.required = l.required
  record : l'.tension = l.tension ∧ l'.cls = l.cls ∧ l'.overRun = l.overRun ∧ l'.slackRun = l.slackRun ∧
    l'.ring = l.ring

theorem Line.Gauged.refl (l : Line) : l.Gauged l := ⟨⟨rfl, rfl, rfl⟩, rfl, rfl, rfl, rfl, rfl⟩

theorem Line.Gauged.of_eq {l l' : Line} (h : l' = l) : l.Gauged l' := h ▸ .refl l

theorem Line.Gauged.trans {l k m : Line} (h : l.Gauged k) (h' : k.Gauged m) : l.Gauged m := by
  obtain ⟨⟨a, b, c⟩, d, e, f, g, i⟩ := h
  obtain ⟨⟨a', b', c'⟩, d', e', f', g', i'⟩ := h'
  exact ⟨⟨a'.trans a, b'.trans b, c'.trans c⟩, d'.trans d, e'.trans e, f'.trans f, g'.trans g, i'.trans i⟩

theorem Line.KeptByOrder.gauged {l l' : Line} (h : l.KeptByOrder l') : l.Gauged l' := ⟨h.flags, h.record⟩

theorem Held.gauged {s t : State} (h : Held n s t) : (s.line n).Gauged (t.line n) := by
  rw [h.line]
  exact ⟨⟨rfl, rfl, rfl⟩, rfl, rfl, rfl, rfl, rfl⟩

theorem Kept.gauged {s t : State} (h : Kept n s t) : (s.line n).Gauged (t.line n) := .of_eq h.line

/-- Forwarding keeps the tension record of its line (R71). -/
theorem gauged_forward (e : Entry) (s : State) : (s.line e.line).Gauged ((forward e s).line e.line) := by
  have verdict : (s.line e.line).KeptByOrder ((s.line e.line).forwarded e) :=
    ⟨⟨rfl, rfl, rfl⟩, ⟨rfl, rfl, rfl, rfl, rfl⟩, ⟨rfl, rfl⟩, ⟨rfl, rfl, rfl⟩, rfl⟩
  cases forwardCase e s with
  | slip kind =>
    rw [(forward_slip kind s).1]
    exact ⟨⟨rfl, rfl, rfl⟩, rfl, rfl, rfl, rfl, rfl⟩
  | runs kind length =>
    rw [(forward_rewind_runs kind length).1]
    exact (verdict.rewinds _ _).gauged
  | home kind known zero stow =>
    rw [(forward_rewind_home kind known zero stow).1]
    exact (verdict.home _ _).gauged
  | away kind known zero stow =>
    rw [(forward_rewind_away kind known zero stow).1]
    exact (verdict.away _ _).gauged

theorem gauged_judgeSlip (e : Entry) (s : State) : (s.line e.line).Gauged ((judgeSlip e s).line e.line) := by
  rw [line_judgeSlip]
  split
  · exact ⟨⟨rfl, rfl, rfl⟩, rfl, rfl, rfl, rfl, rfl⟩
  · exact .refl _

theorem gauged_judgeEntry (m : LineId) (s : State) : (s.line n).Gauged ((judgeEntry m s).line n) := by
  by_cases own : n = m
  swap
  · exact (Kept.judgeEntry own s).gauged
  subst own
  cases found : s.entry n with
  | none => exact .of_eq (congrArg (fun t : State => t.line n) (judgeEntry_none found))
  | some e =>
    have line : e.line = n := entry_line found
    subst line
    cases kind : e.kind with
    | rewind =>
      rw [judgeEntry_rewind found kind]
      split
      · exact gauged_forward e s
      · exact .refl _
    | slip =>
      rw [judgeEntry_slip found kind]
      exact gauged_judgeSlip e s

theorem gauged_reevaluate (s : State) : (s.line n).Gauged ((reevaluate s).line n) :=
  reevaluate_keeps (P := fun t => (s.line n).Gauged (t.line n))
    (fun m t h => h.trans (gauged_judgeEntry m t)) (fun m t h => h.trans (Held.requestProbe m t).gauged)
    (.refl _)

theorem gauged_settle (m : LineId) (s : State) : (s.line n).Gauged ((settle m s).line n) :=
  ((gauged_reevaluate s).trans (Kept.askLine m _).gauged).trans (Kept.autoVacant _).gauged

theorem gauged_takeProbes (s : State) : (s.line n).Gauged ((takeProbes s).line n) :=
  takeProbes_keeps (P := fun t => (s.line n).Gauged (t.line n)) (fun m _ => (Held.requestProbe m s).gauged) (.refl _)

theorem SampleChange.gauged {s w : State} (h : SampleChange n s w) : (s.line n).Gauged (w.line n) := by
  cases h with
  | renders ret _ =>
    rw [(renderingInto_own ret s).1]
    exact ⟨⟨rfl, rfl, rfl⟩, rfl, rfl, rfl, rfl, rfl⟩
  | @orders st _ c order _ =>
    rw [(orderedInto_own order st c s).1]
    exact ⟨⟨rfl, rfl, rfl⟩, rfl, rfl, rfl, rfl, rfl⟩
  | enters _ =>
    rw [enterState_line]
    exact ⟨⟨rfl, rfl, rfl⟩, rfl, rfl, rfl, rfl, rfl⟩
  | faults lock _ =>
    cases lock with
    | none =>
      rw [faultEntry_line_none]
      exact ⟨⟨rfl, rfl, rfl⟩, rfl, rfl, rfl, rfl, rfl⟩
    | some c =>
      rw [faultEntry_line]
      exact ⟨⟨rfl, rfl, rfl⟩, rfl, rfl, rfl, rfl, rfl⟩
  | derives _ =>
    rw [line_deriveLine]
    exact ⟨⟨rfl, rfl, rfl⟩, rfl, rfl, rfl, rfl, rfl⟩

/-- The line table keeps the tension record that the sample has left (R91). -/
theorem gauged_sampleEvent (s : State) : (s.line n).Gauged ((sampleEvent n s).line n) := by
  rcases sampleEvent_cases n s with ⟨-, kept⟩ | ⟨change, told⟩
  · rw [kept]
    exact .refl _
  · rw [told]
    exact change.gauged.trans (gauged_settle n _)

/-- The hold queue keeps the tension record that the sample has left (R91). -/
theorem gauged_sampleEntry (probe : Bool) (s : State) :
    (s.line n).Gauged ((sampleEntry n probe s).line n) := by
  cases found : s.entry n with
  | none =>
    rw [sampleEntry_unheld fun e h => by rw [found] at h; cases h]
    exact .refl _
  | some e =>
    have own : e.line = n := entry_line found
    subst own
    cases kind : e.kind with
    | rewind =>
      rw [sampleEntry_unheld fun f h => by rw [found] at h; cases h; exact kind]
      exact .refl _
    | slip =>
      rw [sampleEntry_slip found kind]
      split
      · split
        · exact ((gauged_forward e s).trans (gauged_reevaluate _)).trans (Kept.autoVacant _).gauged
        · have lines := (failProbe_fields e s).2.1
          exact .of_eq (congrArg (fun l : Vector Line 12 => l[e.line]) lines)
      · split
        · exact gauged_judgeSlip e s
        · exact (gauged_judgeSlip { e with failed := e.failed && !tensionFree s e.line } s).trans
            (gauged_takeProbes _)

/-! ### A scan that probes goes on probing (R98) -/

theorem requestProbe_scan_of_probing {s : State} {m : LineId} {r : Option Nat} (h : s.scan.pass = .probing m r)
    (k : LineId) : (requestProbe k s).scan = s.scan := by
  unfold requestProbe
  rw [h]
  rfl

theorem takeProbes_scan_of_probing {s : State} {m : LineId} {r : Option Nat} (h : s.scan.pass = .probing m r) :
    (takeProbes s).scan = s.scan :=
  takeProbes_keeps (P := fun t => t.scan = s.scan) (fun k _ => requestProbe_scan_of_probing h k) rfl

theorem judgeEntry_scan_same (m : LineId) (s : State) : (judgeEntry m s).scan = s.scan := by
  unfold judgeEntry
  split
  · rfl
  · split
    · split
      · exact forward_scan _ s
      · rfl
    · exact (judgeSlip_fields _ s).2.1

theorem reevaluate_scan_of_probing {s : State} {m : LineId} {r : Option Nat} (h : s.scan.pass = .probing m r) :
    (reevaluate s).scan = s.scan :=
  reevaluate_keeps (P := fun t => t.scan = s.scan) (fun k t same => (judgeEntry_scan_same k t).trans same)
    (fun k t same => (requestProbe_scan_of_probing (by rw [same]; exact h) k).trans same) rfl

theorem sampleEvent_scan_of_probing {s : State} {m : LineId} {r : Option Nat} (h : s.scan.pass = .probing m r) :
    (sampleEvent n s).scan = s.scan := by
  rcases sampleEvent_cases n s with ⟨-, kept⟩ | ⟨change, told⟩
  · rw [kept]
  · have scan := (OwnChange.sample change).scan
    obtain ⟨-, -, -, settled, -, -⟩ := settle_fields n (sampledPart n s)
    rw [told, settled, reevaluate_scan_of_probing (by rw [scan]; exact h), scan]

theorem sampleEntry_scan_of_probing {s : State} {probe : Bool} {m : LineId} {r : Option Nat}
    (h : s.scan.pass = .probing m r) : (sampleEntry n probe s).scan = s.scan := by
  cases found : s.entry n with
  | none => rw [sampleEntry_unheld fun e h => by rw [found] at h; cases h]
  | some e =>
    cases kind : e.kind with
    | rewind => rw [sampleEntry_unheld fun f h => by rw [found] at h; cases h; exact kind]
    | slip =>
      rw [sampleEntry_slip found kind]
      split
      · split
        · rw [autoVacant_scan, reevaluate_scan_of_probing (by rw [forward_scan]; exact h), forward_scan]
        · exact (failProbe_fields e s).2.2.2.1
      · split
        · exact (judgeSlip_fields e s).2.1
        · have judged := (judgeSlip_fields { e with failed := e.failed && !tensionFree s n } s).2.1
          rw [takeProbes_scan_of_probing (by rw [judged]; exact h), judged]

end Sys2Proof.Machine
end

section
/-! SUPPORT. O56 and O59, assembled. -/

namespace Sys2Proof.Machine

variable {n : LineId}

/-! ### The record takes a sample (R87 to R91, R94) -/

/-- What a stored sample leaves outside the tension record of its line. -/
theorem storeSample_eq (raw : Nat) (s : State) : ∃ f : Line → Line, storeSample n raw s = modLine n f s ∧
    ∀ l, f l = { l with
      tension := (f l).tension, cls := (f l).cls, overRun := (f l).overRun, slackRun := (f l).slackRun
      ring := (f l).ring } := by
  unfold storeSample
  dsimp only
  cases s.scan.ref with
  | ok => exact ⟨_, rfl, fun _ => rfl⟩
  | fault => exact ⟨_, rfl, fun _ => rfl⟩

theorem storeSample_lines (raw : Nat) (s : State) :
    storeSample n raw s = { s with lines := (storeSample n raw s).lines } := by
  obtain ⟨f, store, -⟩ := storeSample_eq (n := n) raw s
  rw [store]
  rfl

theorem line_storeSample (raw : Nat) (s : State) : (storeSample n raw s).line n = { s.line n with
    tension := ((storeSample n raw s).line n).tension, cls := ((storeSample n raw s).line n).cls
    overRun := ((storeSample n raw s).line n).overRun, slackRun := ((storeSample n raw s).line n).slackRun
    ring := ((storeSample n raw s).line n).ring } := by
  obtain ⟨f, store, record⟩ := storeSample_eq (n := n) raw s
  rw [store, line_modLine_self]
  exact record _

theorem line_storeSample_other {m : LineId} (h : m ≠ n) (raw : Nat) (s : State) :
    (storeSample n raw s).line m = s.line m := by
  obtain ⟨f, store, -⟩ := storeSample_eq (n := n) raw s
  rw [store, line_modLine, if_neg h]

theorem tookSample_storeSample (raw : Nat) (s : State) : TookSample s (storeSample n raw s) n raw := by
  unfold TookSample storeSample
  dsimp only
  cases s.scan.ref with
  | ok =>
    dsimp only
    rw [line_modLine_self]
    unfold Line.takeSample runAfter
    dsimp only
    refine ⟨rfl, rfl, ?_, ?_, rfl⟩
    · simp only [beq_iff_eq]
      rfl
    · simp only [beq_iff_eq]
      rfl
  | fault =>
    dsimp only
    rw [line_modLine_self]
    exact ⟨rfl, rfl, rfl, rfl, rfl⟩

/-- A record kept since it took its sample has taken it. -/
theorem TookSample.gauged {s u v : State} {raw : Nat} (h : TookSample s v n raw)
    (kept : (v.line n).Gauged (u.line n)) : TookSample s u n raw := by
  obtain ⟨-, tension, cls, heavy, light, ring⟩ := kept
  unfold TookSample at h ⊢
  rwa [tension, cls, heavy, light, ring]

theorem TookSample.of_scan {s t u : State} {raw : Nat} (h : TookSample t u n raw) (line : t.line n = s.line n)
    (ref : t.scan.ref = s.scan.ref) (image : t.image = s.image) : TookSample s u n raw := by
  unfold TookSample at h ⊢
  rwa [line, ref, image] at h

/-! ### The sample handed on (R91) -/

/-- The part once the line table, for a fitted line, and the hold queue have taken the sample that stands in the
record (R91 steps 2 and 3). -/
def handedOn (n : LineId) (probe : Bool) (fitted : Bool) (v : State) : State :=
  sampleEntry n probe (if fitted then sampleEvent n v else v)

theorem lineSample_eq (probe : Bool) (raw : Nat) (s : State) :
    lineSample n probe raw s = handedOn n probe (s.line n).fitted (storeSample n raw s) := by
  have fitted : ((storeSample n raw s).line n).fitted = (s.line n).fitted := by rw [line_storeSample]
  unfold lineSample handedOn
  dsimp only
  rw [fitted]

theorem gauged_handedOn (probe fitted : Bool) (v : State) :
    (v.line n).Gauged ((handedOn n probe fitted v).line n) := by
  have table : (v.line n).Gauged ((if fitted then sampleEvent n v else v).line n) := by
    split
    · exact gauged_sampleEvent v
    · exact .refl _
  exact table.trans (gauged_sampleEntry probe _)

theorem sampleEvent_profile (v : State) : (sampleEvent n v).profile = v.profile := by
  rcases sampleEvent_cases n v with ⟨-, kept⟩ | ⟨change, told⟩
  · rw [kept]
  · rw [told, settle_profile, (OwnChange.sample change).profile]

theorem handedOn_profile (probe fitted : Bool) (v : State) : (handedOn n probe fitted v).profile = v.profile := by
  unfold handedOn
  rw [sampleEntry_profile]
  split
  · exact sampleEvent_profile v
  · rfl

theorem handedOn_scan_of_probing {probe fitted : Bool} {v : State} {m : LineId} {r : Option Nat}
    (h : v.scan.pass = .probing m r) : (handedOn n probe fitted v).scan = v.scan := by
  have table : (if fitted then sampleEvent n v else v).scan = v.scan := by
    split
    · exact sampleEvent_scan_of_probing h
    · rfl
  unfold handedOn
  rw [sampleEntry_scan_of_probing (by rw [table]; exact h), table]

/-- With no hold queue a sample moves nothing but its line and the lanes. -/
theorem sampleEvent_of_empty {v : State} (empty : v.queue = []) : (sampleEvent n v).queue = [] ∧
    (sampleEvent n v).scan = v.scan ∧ ∀ m, m ≠ n → (sampleEvent n v).line m = v.line m := by
  rcases sampleEvent_cases n v with ⟨-, kept⟩ | ⟨change, told⟩
  · rw [kept]
    exact ⟨empty, rfl, fun _ _ => rfl⟩
  · have own := OwnChange.sample change
    obtain ⟨lines, queue, -, scan, -, -⟩ := settle_fields n (sampledPart n v)
    rw [reevaluate_of_empty (own.queue.trans empty)] at lines queue scan
    rw [told]
    exact ⟨queue.trans (own.queue.trans empty), scan.trans own.scan, fun m hm =>
      (congrArg (fun l : Vector Line 12 => l[m]) lines).trans (own.others m hm).line⟩

theorem handedOn_of_empty {probe fitted : Bool} {v : State} (empty : v.queue = []) :
    (handedOn n probe fitted v).scan = v.scan ∧
    ∀ m, m ≠ n → (handedOn n probe fitted v).line m = v.line m := by
  have table : (if fitted then sampleEvent n v else v).queue = [] ∧
      (if fitted then sampleEvent n v else v).scan = v.scan ∧
      ∀ m, m ≠ n → (if fitted then sampleEvent n v else v).line m = v.line m := by
    split
    · exact sampleEvent_of_empty empty
    · exact ⟨empty, rfl, fun _ _ => rfl⟩
  obtain ⟨queue, scan, others⟩ := table
  unfold handedOn
  rw [sampleEntry_unheld fun e found => ?_]
  · exact ⟨scan, others⟩
  · unfold State.entry at found
    rw [queue] at found
    cases found

/-! ### The conversion of a pass (R85, R97) -/

theorem exec_lineConversion {raw : BitVec 12} {p : Nat} {s : State} (power : s.supply.powered = true)
    (pass : s.scan.pass = .running p) (plan : s.scan.plan[p]? = some (.line n)) :
    exec (.lineConversionComplete raw) s = .next (arbitrate (handedOn n false (s.line n).fitted
      (storeSample n raw.toNat (setPass (.running (p + 1)) s)))) := by
  have run : exec (.lineConversionComplete raw) s = .next (arbitrate (lineConversion raw.toNat s)) :=
    congrArg Host.Outcome.next (if_pos power)
  have shape : lineConversion raw.toNat s = lineSample n false raw.toNat (setPass (.running (p + 1)) s) := by
    unfold lineConversion
    rw [pass]
    dsimp only
    rw [plan]
  rw [run, shape, lineSample_eq]
  rfl

/-- Settles O56: the sample stored and handed on, then the two formulas. -/
theorem lineSampleRecorded : Obligations.LineSampleRecorded := by
  refine ⟨fun raw p n s power pass plan => ?_, fun img n raw => ?_, fun img n t => rfl⟩
  · have run := exec_lineConversion (raw := raw) power pass plan
    have took : TookSample s (storeSample n raw.toNat (setPass (.running (p + 1)) s)) n raw.toNat :=
      (tookSample_storeSample raw.toNat (setPass (.running (p + 1)) s)).of_scan rfl rfl rfl
    have lines := storeSample_lines (n := n) raw.toNat (setPass (.running (p + 1)) s)
    have own := line_storeSample (n := n) raw.toNat (setPass (.running (p + 1)) s)
    have others : ∀ m, m ≠ n → (storeSample n raw.toNat (setPass (.running (p + 1)) s)).line m = s.line m :=
      fun m hm => line_storeSample_other hm raw.toNat (setPass (.running (p + 1)) s)
    generalize storeSample n raw.toNat (setPass (.running (p + 1)) s) = v at *
    refine ⟨⟨v, lines, took, own, others, run⟩, fun empty => ?_⟩
    have queue : v.queue = [] := by
      rw [lines]
      exact empty
    have scan : v.scan = { s.scan with pass := .running (p + 1) } := by rw [lines]; rfl
    have profile : v.profile = s.profile := by rw [lines]; rfl
    have kept := gauged_handedOn (n := n) false (s.line n).fitted v
    obtain ⟨scan', others'⟩ := handedOn_of_empty (n := n) (probe := false) (fitted := (s.line n).fitted) queue
    refine ⟨_, run, scan'.trans scan, took.gauged kept, ?_, fun m hm => (others' m hm).trans (others m hm),
      (handedOn_profile _ _ _).trans profile⟩
    rw [kept.flags.1, own]
    rfl
  · unfold tensionOf
    split
    · rename_i below
      rw [Nat.sub_eq_zero_of_le (Nat.le_of_lt below)]
      simp
    · rfl

/-! ### The conversion of a probe (R98, R100) -/

theorem exec_probeConversion {raw : BitVec 12} {resume : Option Nat} {s : State} (power : s.supply.powered = true)
    (pass : s.scan.pass = .probing n resume) :
    exec (.probeConversionComplete raw) s = .next (arbitrate (nextProbe resume
      (handedOn n true (s.line n).fitted (storeSample n raw.toNat s)))) := by
  have run : exec (.probeConversionComplete raw) s = .next (arbitrate (probeConversion raw.toNat s)) :=
    congrArg Host.Outcome.next (if_pos power)
  have shape : probeConversion raw.toNat s = nextProbe resume (lineSample n true raw.toNat s) := by
    unfold probeConversion
    rw [pass]
  rw [run, shape, lineSample_eq]

theorem nextProbe_begins {resume : Option Nat} {v : State} {m : LineId} (waits : (v.line m).probeWaiting = true)
    (lowest : ∀ k, k < m → (v.line k).probeWaiting = false) : nextProbe resume v = beginProbe m resume v := by
  have found : lowestProbe v = some m := find_lowest waits lowest
  unfold nextProbe
  rw [found]

theorem nextProbe_resumes {resume : Option Nat} {v : State} (idle : ∀ m, (v.line m).probeWaiting = false) :
    nextProbe resume v = setPass (match resume with | some p => .running p | none => .idle) v := by
  have found : lowestProbe v = none := find_no_line idle
  unfold nextProbe
  rw [found]
  cases resume <;> rfl

/-- Settles O59: the sample of the probe, then the probe that follows or the pass resumed. -/
theorem probeConversion_settled : Obligations.ProbeConversion := by
  refine ⟨fun raw n resume s power pass => ?_, fun resume v => ⟨fun m waits lowest => ?_, fun idle => ?_⟩⟩
  · have run := exec_probeConversion (raw := raw) power pass
    have took := tookSample_storeSample (n := n) raw.toNat s
    have lines := storeSample_lines (n := n) raw.toNat s
    have own := line_storeSample (n := n) raw.toNat s
    have others : ∀ m, m ≠ n → (storeSample n raw.toNat s).line m = s.line m :=
      fun m hm => line_storeSample_other hm raw.toNat s
    generalize storeSample n raw.toNat s = v at *
    have scan : v.scan = s.scan := by rw [lines]
    have profile : v.profile = s.profile := by rw [lines]
    refine ⟨v, lines, took, own, others, run, took.gauged (gauged_handedOn true (s.line n).fitted v), ?_,
      (handedOn_profile _ _ _).trans profile⟩
    have kept := handedOn_scan_of_probing (n := n) (probe := true) (fitted := (s.line n).fitted)
      (v := v) (by rw [scan]; exact pass)
    exact (congrArg Scan.pass (kept.trans scan)).trans pass
  · rw [nextProbe_begins waits lowest]
    exact ⟨rfl, line_beginProbe m resume v, fun k hk => (Kept.beginProbe hk resume v).line, rfl⟩
  · rw [nextProbe_resumes idle]
    cases resume <;> rfl

end Sys2Proof.Machine
end

section
/-! SUPPORT. Requests for records, what they leave of a lockdown entry, and the tension records and the pass divider
through lockdown entry. -/

namespace Sys2Proof.Machine

variable {n : LineId}

/-! ### Requests for records, asked in a row (R155) -/

/-- `t` is `s` in lines, queue, berth, profile, supply, orders and notices, and every request for a record that
stands in `s` stands in `t`. -/
structure AskedMore (s t : State) : Prop where
  lines : t.lines = s.lines
  queue : t.queue = s.queue
  berth : t.berth = s.berth
  profile : t.profile = s.profile
  supply : t.supply = s.supply
  bus : t.bus.bare = s.bus.bare
  notices : t.report.notices = s.report.notices
  asked : ∀ r ∈ s.bus.reportLane, r ∈ t.bus.reportLane

theorem AskedMore.refl (s : State) : AskedMore s s := ⟨rfl, rfl, rfl, rfl, rfl, rfl, rfl, fun _ h => h⟩

theorem AskedMore.trans {s t u : State} (h : AskedMore s t) (k : AskedMore t u) : AskedMore s u :=
  ⟨k.lines.trans h.lines, k.queue.trans h.queue, k.berth.trans h.berth, k.profile.trans h.profile,
    k.supply.trans h.supply, k.bus.trans h.bus, k.notices.trans h.notices, fun r hr => k.asked r (h.asked r hr)⟩

theorem AskedMore.askRecord (r : RecId) (s : State) : AskedMore s (askRecord r s) where
  lines := lines_askRecord r s
  queue := askRecord_queue r s
  berth := askRecord_berth r s
  profile := askRecord_profile r s
  supply := askRecord_supply r s
  bus := askRecord_bare r s
  notices := congrArg Reporting.notices (askRecord_report r s)
  asked _ h := askRecord_mem h

theorem AskedMore.askLine (n : LineId) (s : State) : AskedMore s (askLine n s) := .askRecord _ s

theorem AskedMore.askBerth (s : State) : AskedMore s (askBerth s) := .askRecord _ s

theorem AskedMore.askFitted (s : State) : AskedMore s (askFitted s) :=
  eachLine_keeps (P := AskedMore s) (fun n t h => by
    split
    · exact h.trans (.askLine n t)
    · exact h) (.refl s)

theorem AskedMore.setPass (p : Pass) (s : State) : AskedMore s (setPass p s) :=
  ⟨rfl, rfl, rfl, rfl, rfl, rfl, rfl, fun _ h => h⟩

theorem AskedMore.setDivider (d : Nat) (s : State) : AskedMore s (setDivider d s) :=
  ⟨rfl, rfl, rfl, rfl, rfl, rfl, rfl, fun _ h => h⟩

theorem AskedMore.line {s t : State} (h : AskedMore s t) (m : LineId) : t.line m = s.line m :=
  congrArg (fun l : Vector Line 12 => l[m]) h.lines

theorem AskedMore.lane {s t : State} (h : AskedMore s t) : t.bus.orderLane = s.bus.orderLane :=
  Bus.bare_orderLane h.bus

theorem AskedMore.notice {s t : State} (h : AskedMore s t) (k : BerthNotice) : t.notice k = s.notice k :=
  notice_of_notices h.notices k

/-- A lockdown entry stays one under further requests for records. -/
theorem EnteredLockdown.askedMore {c : LockdownCause} {s t u : State} (h : EnteredLockdown c s t)
    (k : AskedMore t u) : EnteredLockdown c s u := by
  have line := k.line
  have lane := k.lane
  obtain ⟨phase, causes, silence, queue, flushed, moving, drum, still, latches, stays, kept, notice, record, drums,
    blocks⟩ := h
  refine ⟨?_, ?_, ?_, k.queue.trans queue, ?_, ?_, ?_, ?_, ?_, ?_, ?_, (k.notice _).trans notice,
    k.asked _ record, ?_, k.profile.trans blocks⟩
  · rw [k.berth]
    exact phase
  · rw [k.berth]
    exact causes
  · rw [k.berth]
    exact silence
  · simpa only [line] using flushed
  · simpa only [line, lane] using moving
  · simpa only [line] using drum
  · simpa only [line] using still
  · simpa only [line] using latches
  · simpa only [lane] using stays
  · simpa only [lane] using kept
  · simpa only [line] using drums

/-- A fitted line's record is asked for by the pass-end refresh and its like (R95, R167). -/
theorem mem_askFitted {s : State} (speaks : s.berth.phase.silent = false) (fitted : (s.line n).fitted = true) :
    n.castSucc ∈ (askFitted s).bus.reportLane := by
  unfold askFitted
  refine eachLine_reaches (f := fun m t => if (t.line m).fitted then askLine m t else t) (I := AskedMore s)
    (P := fun t => n.castSucc ∈ t.bus.reportLane) n (.refl s) (fun m t h => ?_) (fun t h => ?_) (fun m t h => ?_)
  · split
    · exact h.trans (.askLine m t)
    · exact h
  · have asks : (t.line n).fitted = true := by
      rw [h.line]
      exact fitted
    rw [if_pos asks]
    exact mem_askLine (by rw [h.berth]; exact speaks)
  · split
    · exact askRecord_mem h
    · exact h

/-- One request for a line's record, outside STARTING and HALTED (R155). -/
theorem askLine_reportLane {s : State} (speaks : s.berth.phase.silent = false) (m : LineId) :
    (askLine m s).bus.reportLane =
      s.bus.reportLane ++ [m.castSucc].filter fun r => r ∉ s.bus.reportLane := by
  have starts : s.berth.phase ≠ .starting := Phase.not_starting speaks
  have halts : s.berth.phase ≠ .halted := Phase.not_halted speaks
  unfold askLine askRecord
  by_cases mem : m.castSucc ∈ s.bus.reportLane
  · rw [if_pos (.inr (.inr mem)), List.filter_cons_of_neg (by simpa using mem), List.filter_nil, List.append_nil]
  · rw [if_neg (by simp [starts, halts, mem]), List.filter_cons_of_pos (by simpa using mem), List.filter_nil]

/-- A record asked for before the rest of a row is not asked for again. -/
theorem filter_fresh_cons {r : RecId} {rs : List RecId} (fresh : r ∉ rs) (lane : List RecId) :
    (lane ++ [r].filter fun x => x ∉ lane) ++
        rs.filter (fun x => x ∉ lane ++ [r].filter fun x => x ∉ lane) =
      lane ++ (r :: rs).filter fun x => x ∉ lane := by
  by_cases mem : r ∈ lane
  · simp [mem]
  · have same : (rs.filter fun x => x ∉ lane ++ [r]) = rs.filter fun x => x ∉ lane :=
      List.filter_congr fun x hx => by
        have other : x ≠ r := fun eq => fresh (eq ▸ hx)
        simp [other]
    have alone : ([r].filter fun x => x ∉ lane) = [r] := by simp [mem]
    rw [alone, same, List.filter_cons_of_pos (by simpa using mem), List.append_assoc, List.singleton_append]

/-- The requests of a row of lines, for those of them that are fitted (R155). -/
theorem foldl_askLine_reportLane (ls : List LineId) (distinct : ls.Nodup) {s : State}
    (speaks : s.berth.phase.silent = false) :
    (ls.foldl (fun t m => if (t.line m).fitted then askLine m t else t) s).bus.reportLane =
      s.bus.reportLane ++
        ((ls.filter fun m => (s.line m).fitted).map Fin.castSucc).filter fun r => r ∉ s.bus.reportLane := by
  induction ls generalizing s with
  | nil => simp
  | cons m ls ih =>
    obtain ⟨fresh, rest⟩ := List.nodup_cons.mp distinct
    rw [List.foldl_cons]
    by_cases fitted : (s.line m).fitted = true
    swap
    · rw [if_neg fitted, ih rest speaks, List.filter_cons_of_neg (p := fun m => (s.line m).fitted) fitted]
    have asked := AskedMore.askLine m s
    have row : m.castSucc ∉ (ls.filter fun m => (s.line m).fitted).map Fin.castSucc := fun mem => by
      obtain ⟨k, hk, same⟩ := List.mem_map.mp mem
      have eq : k = m := Fin.castSucc_injective _ same
      subst eq
      exact fresh (List.mem_filter.mp hk).1
    rw [if_pos fitted, ih rest (by rw [asked.berth]; exact speaks)]
    simp only [asked.line]
    rw [askLine_reportLane speaks, filter_fresh_cons row, List.filter_cons_of_pos (p := fun m => (s.line m).fitted)
      fitted, List.map_cons]

theorem Bus.eq_of_bare {b c : Bus} (h : b.bare = c.bare) : b = { c with reportLane := b.reportLane } := by
  obtain ⟨⟩ := b
  obtain ⟨⟩ := c
  unfold Bus.bare at h
  simp only [Bus.mk.injEq] at h ⊢
  simpa using h

theorem askFitted_eq (s : State) :
    askFitted s = allLines.foldl (fun t m => if (t.line m).fitted then askLine m t else t) s := rfl

theorem askFitted_bus {s : State} (speaks : s.berth.phase.silent = false) : (askFitted s).bus = { s.bus with
    reportLane := s.bus.reportLane ++
      ((allLines.filter fun m => (s.line m).fitted).map Fin.castSucc).filter fun r => r ∉ s.bus.reportLane } := by
  rw [Bus.eq_of_bare (AskedMore.askFitted s).bus, askFitted_eq, foldl_askLine_reportLane allLines (by decide) speaks]

/-! ### Tension records and pass divider through lockdown entry (R132) -/

/-- `t` has every profile flag, every tension record, and the pass divider of `s`. -/
structure Surveyed (s t : State) : Prop where
  gauged : ∀ n, (s.line n).Gauged (t.line n)
  divider : t.report.divider = s.report.divider

theorem Surveyed.refl (s : State) : Surveyed s s := ⟨fun _ => .refl _, rfl⟩

theorem Surveyed.trans {s t u : State} (h : Surveyed s t) (k : Surveyed t u) : Surveyed s u :=
  ⟨fun n => (h.gauged n).trans (k.gauged n), k.divider.trans h.divider⟩

theorem Surveyed.of_lines {s t : State} (lines : t.lines = s.lines) (divider : t.report.divider = s.report.divider) :
    Surveyed s t := ⟨fun m => .of_eq (congrArg (fun l : Vector Line 12 => l[m]) lines), divider⟩

theorem Surveyed.askRecord (r : RecId) (s : State) : Surveyed s (askRecord r s) :=
  .of_lines (lines_askRecord r s) (congrArg Reporting.divider (askRecord_report r s))

theorem Surveyed.modLine (m : LineId) {f : Line → Line} (h : ∀ l : Line, l.Gauged (f l)) (s : State) :
    Surveyed s (modLine m f s) := by
  refine ⟨fun k => ?_, rfl⟩
  by_cases own : k = m
  · subst own
    rw [line_modLine_self]
    exact h (s.line k)
  · rw [line_modLine, if_neg own]
    exact .refl (s.line k)

theorem Surveyed.setLineNotice (m : LineId) (s : State) : Surveyed s (setLineNotice m s) := by
  unfold Machine.setLineNotice
  split
  · exact .refl s
  · have marked : Surveyed s (Machine.modLine m (fun l => { l with notice := true }) s) :=
      .modLine m (f := fun l : Line => { l with notice := true })
        (fun _ => ⟨⟨rfl, rfl, rfl⟩, rfl, rfl, rfl, rfl, rfl⟩) s
    have judged : Surveyed s (judgeAttn (Machine.modLine m (fun l => { l with notice := true }) s)) :=
      marked.trans (.of_lines rfl rfl)
    exact (judged.trans (.askRecord _ _)).trans (.askRecord _ _)

theorem Surveyed.recordHost (m : LineId) (h : LastHost) (s : State) : Surveyed s (recordHost m h s) :=
  (Surveyed.modLine m (f := fun l : Line => { l with lastHost := h })
    (fun _ => ⟨⟨rfl, rfl, rfl⟩, rfl, rfl, rfl, rfl, rfl⟩) s).trans (.askRecord _ _)

theorem Surveyed.setBerthNotice (k : BerthNotice) (s : State) : Surveyed s (setBerthNotice k s) := by
  unfold Machine.setBerthNotice
  split
  · exact .refl s
  · have judged : Surveyed s (judgeAttn
        { s with report := { s.report with notices := s.report.notices ||| (1#8 <<< k.code) } }) :=
      .of_lines rfl rfl
    exact judged.trans (.askRecord _ _)

theorem Surveyed.endEntry (v : Verdict) (e : Entry) (s : State) : Surveyed s (endEntry v e s) := by
  have dropped : Surveyed s (dropEntry e.line s) := .of_lines rfl rfl
  exact (dropped.trans (.recordHost _ _ _)).trans (.setLineNotice _ _)

theorem Surveyed.flush (s : State) : Surveyed s (flush s) :=
  flush_keeps (P := Surveyed s) (fun e t h => h.trans (.endEntry .flushed e t))
    (fun t h => h.trans (.askRecord 12 t)) (.refl s)

theorem Surveyed.lockdownLock {s : State} (c : LockdownCause) (m : LineId) (empty : s.queue = [])
    (phase : s.berth.phase = .lockdown) : Surveyed s (lockdownLock c m s) := by
  rw [lockdownLock_eq empty phase]
  split
  · refine ⟨fun k => ?_, ?_⟩
    · rw [line_askLine]
      by_cases own : k = m
      · subst own
        rw [partOrder_line (by simp), enterState_line]
        exact ⟨⟨rfl, rfl, rfl⟩, rfl, rfl, rfl, rfl, rfl⟩
      · exact ((Kept.enterState own _ s).trans (.partOrder own _ _ _)).gauged
    · rw [askLine_report, partOrder_report]
      rfl
  · exact .refl s

/-- Lockdown entry keeps every tension record and the pass divider. -/
theorem Surveyed.enterLockdown (c : LockdownCause) (s : State) : Surveyed s (enterLockdown c s) := by
  have phase : (Machine.flush { s with berth := { s.berth with phase := .lockdown } }).berth.phase = .lockdown := by
    rw [flush_berth]
  have start : Surveyed s { s with berth := { s.berth with phase := .lockdown } } := .of_lines rfl rfl
  have flushed := start.trans (.flush _)
  have empty := flush_queue_empty { s with berth := { s.berth with phase := .lockdown } }
  unfold Machine.enterLockdown changePhase entryActions
  generalize Machine.flush { s with berth := { s.berth with phase := .lockdown } } = x at *
  have locked : Surveyed s (eachLine (Machine.lockdownLock c) x) := by
    refine (eachLine_keeps (P := fun t => Locking x t ∧ Surveyed s t) (fun m t h => ?_)
      ⟨⟨phase, empty, rfl, rfl⟩, flushed⟩).2
    exact ⟨(lockdownLock_own m t h.1).1, h.2.trans (.lockdownLock c m h.1.queue h.1.phase)⟩
  generalize eachLine (Machine.lockdownLock c) x = y at *
  have withdrawn : Surveyed s (withdrawPairs y) := locked.trans (.of_lines rfl rfl)
  have emptied : Surveyed s (emptyLatches (withdrawPairs y)) := by
    unfold emptyLatches
    exact eachLine_keeps (P := Surveyed s) (fun m t h =>
      h.trans (.modLine m (f := fun l : Line => { l with latch := none })
        (fun _ => ⟨⟨rfl, rfl, rfl⟩, rfl, rfl, rfl, rfl, rfl⟩) t)) withdrawn
  generalize emptyLatches (withdrawPairs y) = z at *
  have silenced : ∀ p t, Surveyed t (silenceAt p t) := fun p t => .of_lines rfl rfl
  exact ((emptied.trans (.setBerthNotice .lockdownEntered z)).trans (silenced _ _)).trans (.askRecord 12 _)

/-- A raised cause keeps every tension record and the pass divider (R131). -/
theorem Surveyed.raiseCause (c : LockdownCause) (p : Bool) (s : State) : Surveyed s (raiseCause c p s) := by
  obtain ⟨-, lines, -, -, -, -, -, report, -⟩ := setCauses_fields (s.berth.causes ||| c.bit)
    (if p then s.berth.present ||| c.bit else s.berth.present) s
  have added : Surveyed s (addCause c p s) := .of_lines lines (congrArg Reporting.divider report)
  rcases Phase.cases_open s.berth.phase with h | h
  · rw [← or_assoc] at h
    rcases h with h | h
    · rw [raiseCause_silent h]
      exact added
    · rw [raiseCause_lockdown h]
      split
      · exact added
      · exact added.trans (.setBerthNotice _ _)
  · rw [raiseCause_enters h]
    exact added.trans (.enterLockdown c _)

end Sys2Proof.Machine
end

section
/-! SUPPORT. O58: the reference judged at the end of a pass, and the pass end that follows. -/

namespace Sys2Proof.Machine

variable {n : LineId}

/-! ### The end of a pass in service (R85, R103, R167) -/

/-- The pass state after the last conversion of a pass (R85). -/
def ScanMode.next (m : ScanMode) : Pass := if m = .continuous then .running 0 else .idle

/-- The part after a pass complete outside FIRST_PASS. -/
def passEnded (s : State) : State := setPass s.scan.mode.next (if s.berth.phase.silent then s else refresh s)

/-- The pass-end refresh asks for the records of the fitted lines (R167). -/
def State.Refreshes (s : State) : Prop :=
  s.berth.phase.silent = false ∧ s.report.divider + 1 = reportDivider s.image

theorem refresh_at {s : State} (h : s.Refreshes) : refresh s = askFitted (setDivider 0 s) := if_pos h.2

theorem refresh_between {s : State} (h : s.report.divider + 1 ≠ reportDivider s.image) :
    refresh s = setDivider (s.report.divider + 1) s := if_neg h

theorem askFitted_scan (s : State) : (askFitted s).scan = s.scan :=
  eachLine_keeps (P := fun t => t.scan = s.scan) (fun m t h => by
    split
    · rw [askLine_scan, h]
    · exact h) rfl

theorem askFitted_report (s : State) : (askFitted s).report = s.report :=
  eachLine_keeps (P := fun t => t.report = s.report) (fun m t h => by
    split
    · rw [askLine_report, h]
    · exact h) rfl

theorem refresh_leaves (s : State) : AskedMore s (refresh s) ∧ (refresh s).scan = s.scan := by
  unfold refresh
  split
  · exact ⟨(AskedMore.setDivider 0 s).trans (.askFitted _), askFitted_scan _⟩
  · exact ⟨.setDivider _ s, rfl⟩

theorem passEnded_leaves (s : State) : AskedMore s (passEnded s) ∧
    (passEnded s).scan = { s.scan with pass := s.scan.mode.next } := by
  unfold passEnded
  split
  · exact ⟨.setPass _ s, rfl⟩
  · obtain ⟨asked, scan⟩ := refresh_leaves s
    refine ⟨asked.trans (.setPass _ _), ?_⟩
    unfold setPass
    dsimp only
    rw [scan]

/-- The pass divider and the lanes after the end of a pass (R167). -/
theorem passEnded_divider (s : State) :
    (s.Refreshes → (passEnded s).report.divider = 0 ∧
      (∀ m : LineId, (s.line m).fitted = true → m.castSucc ∈ (passEnded s).bus.reportLane) ∧
      (passEnded s).bus = { s.bus with
        reportLane := s.bus.reportLane ++
          ((allLines.filter fun m => (s.line m).fitted).map Fin.castSucc).filter
            fun r => r ∉ s.bus.reportLane }) ∧
    (¬ s.Refreshes → (passEnded s).bus = s.bus ∧
      (s.berth.phase.silent = false → (passEnded s).report.divider = s.report.divider + 1)) ∧
    (s.berth.phase.silent = true → (passEnded s).report.divider = s.report.divider) := by
  refine ⟨fun h => ?_, fun h => ?_, fun silent => ?_⟩
  · have speaks : (setDivider 0 s).berth.phase.silent = false := h.1
    have shape : passEnded s = setPass s.scan.mode.next (askFitted (setDivider 0 s)) := by
      unfold passEnded
      rw [if_neg (by simp [h.1]), refresh_at h]
    have report := askFitted_report (setDivider 0 s)
    have bus := askFitted_bus speaks
    have members := fun m fitted => mem_askFitted (n := m) speaks fitted
    rw [shape]
    generalize askFitted (setDivider 0 s) = t at *
    refine ⟨?_, members, bus⟩
    change t.report.divider = 0
    rw [report]
    rfl
  · cases silent : s.berth.phase.silent with
    | true =>
      have shape : passEnded s = setPass s.scan.mode.next s := by
        unfold passEnded
        rw [if_pos silent]
      rw [shape]
      exact ⟨rfl, fun c => by cases c⟩
    | false =>
      have shape : passEnded s = setPass s.scan.mode.next (setDivider (s.report.divider + 1) s) := by
        unfold passEnded
        rw [if_neg (by simp [silent]), refresh_between fun c => h ⟨silent, c⟩]
      rw [shape]
      exact ⟨rfl, fun _ => rfl⟩
  · have shape : passEnded s = setPass s.scan.mode.next s := by
      unfold passEnded
      rw [if_pos silent]
    rw [shape]
    rfl

/-! ### What the judgement leaves (R92 to R95) -/

/-- `t` is `s` in what the end of a pass reads: phase by its silence, divider, profile, supply, fitted lines and
scan mode. -/
structure Judged (s t : State) : Prop where
  silent : t.berth.phase.silent = s.berth.phase.silent
  divider : t.report.divider = s.report.divider
  profile : t.profile = s.profile
  supply : t.supply = s.supply
  fitted : ∀ m, (t.line m).fitted = (s.line m).fitted
  mode : t.scan.mode = s.scan.mode

theorem Judged.image {s t : State} (h : Judged s t) : t.image = s.image := congrArg Profile.active h.profile

theorem Judged.refreshes {s t : State} (h : Judged s t) : t.Refreshes ↔ s.Refreshes := by
  unfold State.Refreshes
  rw [h.silent, h.divider, h.image]

theorem exec_reference {raw : BitVec 12} {p : Nat} {s : State} (power : s.supply.powered = true)
    (pass : s.scan.pass = .running p) (plan : s.scan.plan[p]? = some .reference)
    (stage : s.supply.stage ≠ .firstPass) (judged : Judged s (judgeReference raw.toNat s)) :
    exec (.referenceConversionComplete raw) s = .next (arbitrate (passEnded (judgeReference raw.toNat s))) := by
  have run : exec (.referenceConversionComplete raw) s = .next (arbitrate (referenceConversion raw.toNat s)) :=
    congrArg Host.Outcome.next (if_pos power)
  have complete : passComplete (judgeReference raw.toNat s) =
      if (judgeReference raw.toNat s).berth.phase.silent then judgeReference raw.toNat s
      else refresh (judgeReference raw.toNat s) := if_neg (by rw [judged.supply]; exact stage)
  have mode : (passComplete (judgeReference raw.toNat s)).scan.mode = (judgeReference raw.toNat s).scan.mode := by
    rw [complete]
    split
    · rfl
    · rw [(refresh_leaves _).2]
  have shape : referenceConversion raw.toNat s = setPass
      (if (passComplete (judgeReference raw.toNat s)).scan.mode = .continuous then .running 0 else .idle)
      (passComplete (judgeReference raw.toNat s)) := by
    unfold referenceConversion
    rw [pass]
    dsimp only
    rw [plan]
  rw [run, shape, mode, complete]
  rfl

theorem refInWindow_iff (s : State) (raw : Nat) :
    refInWindow s raw = true ↔ referenceLow s.image ≤ raw ∧ raw ≤ referenceHigh s.image := within_iff _ _ _

section Judgement

variable {s : State} {raw : Nat}

theorem judgeReference_ok_good (ref : s.scan.ref = .ok) (good : refInWindow s raw = true) :
    judgeReference raw s = setRef .ok 0 s := by
  unfold judgeReference
  rw [ref, good]

theorem judgeReference_ok_bad (ref : s.scan.ref = .ok) (bad : refInWindow s raw = false) :
    judgeReference raw s =
      if 2 ≤ s.scan.refCount + 1 then enterRefFault s else setRef .ok (s.scan.refCount + 1) s := by
  unfold judgeReference
  rw [ref, bad]

theorem judgeReference_fault_good (ref : s.scan.ref = .fault) (good : refInWindow s raw = true) :
    judgeReference raw s =
      if 2 ≤ s.scan.refCount + 1 then clearRefFault s else setRef .fault (s.scan.refCount + 1) s := by
  unfold judgeReference
  rw [ref, good]

theorem judgeReference_fault_bad (ref : s.scan.ref = .fault) (bad : refInWindow s raw = false) :
    judgeReference raw s = setRef .fault 0 s := by
  unfold judgeReference
  rw [ref, bad]

end Judgement

theorem judged_setRef (r : RefState) (c : Nat) (s : State) : Judged s (setRef r c s) :=
  ⟨rfl, rfl, rfl, rfl, fun _ => rfl, rfl⟩

/-- A judgement that moves the count alone leaves lines, queue and berth to the end of the pass. -/
theorem passEnded_setRef {r : RefState} (c : Nat) {s : State} (ref : s.scan.ref = r) :
    (passEnded (setRef r c s)).scan = { s.scan with refCount := c, pass := s.scan.mode.next } ∧
    (passEnded (setRef r c s)).lines = s.lines ∧ (passEnded (setRef r c s)).queue = s.queue ∧
    (passEnded (setRef r c s)).berth = s.berth ∧
    (¬ s.Refreshes → (passEnded (setRef r c s)).bus = s.bus) ∧
    (s.Refreshes → (passEnded (setRef r c s)).bus = { s.bus with
      reportLane := s.bus.reportLane ++
        ((allLines.filter fun m => (s.line m).fitted).map Fin.castSucc).filter
          fun x => x ∉ s.bus.reportLane }) := by
  obtain ⟨asked, scan⟩ := passEnded_leaves (setRef r c s)
  obtain ⟨at_, between, -⟩ := passEnded_divider (setRef r c s)
  refine ⟨?_, asked.lines, asked.queue, asked.berth, fun h => (between h).1, fun h => (at_ h).2.2⟩
  rw [scan, ← ref]
  rfl

/-! ### The reference FAULT entered and cleared (R93, R95) -/

/-- The part with every record stale and the reference in FAULT, before its cause is raised. -/
def staleRecords (s : State) : State := eachLine (fun n => modLine n Line.stale) (setRef .fault 0 s)

theorem staleRecords_eq (s : State) : staleRecords s = { setRef .fault 0 s with lines := (staleRecords s).lines } :=
  eachLine_modLine_eq _ _

theorem line_staleRecords (s : State) (m : LineId) : (staleRecords s).line m = (s.line m).stale :=
  line_eachLine_modLine (fun _ => Line.stale) m (setRef .fault 0 s)

theorem enterRefFault_eq (s : State) :
    enterRefFault s = askFitted (raiseCause .senseFault true (staleRecords s)) := rfl

theorem CauseSet.has_or_bit (cs : CauseSet) (c : LockdownCause) : CauseSet.has (cs ||| c.bit) c = true := by
  unfold CauseSet.has LockdownCause.bit
  cases c <;> simp [LockdownCause.code]

/-- A cause that is new to the set has the berth record asked for (R130). -/
theorem mem_addCause {c : LockdownCause} {p : Bool} {s : State} (fresh : s.berth.causes.has c = false)
    (started : s.berth.phase ≠ .starting) : 12 ∈ (addCause c p s).bus.reportLane := by
  have grows : s.berth.causes ||| c.bit ≠ s.berth.causes := fun same => by
    have has := CauseSet.has_or_bit s.berth.causes c
    rw [same, fresh] at has
    cases has
  unfold addCause setCauses
  rw [if_neg fun h => grows h.1]
  exact mem_askBerth started

/-- Entry to the reference FAULT, after the end of its pass. -/
theorem passEnded_enterRefFault (s : State) :
    AskedMore (raiseCause .senseFault true (staleRecords s)) (passEnded (enterRefFault s)) ∧ Judged s (enterRefFault s) ∧
    (passEnded (enterRefFault s)).scan =
      { s.scan with ref := .fault, refCount := 0, pass := s.scan.mode.next } := by
  have surveyed : Surveyed (staleRecords s) (raiseCause .senseFault true (staleRecords s)) := .raiseCause _ _ _
  obtain ⟨scan, profile, supply, -⟩ := raiseCause_fields .senseFault true (staleRecords s)
  obtain ⟨-, -, silent, speaks⟩ := raiseCause_berth .senseFault true (staleRecords s)
  have line := line_staleRecords s
  have stale := staleRecords_eq s
  have asked := AskedMore.askFitted (raiseCause .senseFault true (staleRecords s))
  have report := askFitted_report (raiseCause .senseFault true (staleRecords s))
  have scan' := askFitted_scan (raiseCause .senseFault true (staleRecords s))
  rw [← enterRefFault_eq] at asked report scan'
  obtain ⟨asked', ended⟩ := passEnded_leaves (enterRefFault s)
  generalize enterRefFault s = t at *
  generalize raiseCause .senseFault true (staleRecords s) = y at *
  generalize staleRecords s = z at *
  have same : z.berth = s.berth ∧ z.report = s.report ∧ z.profile = s.profile ∧ z.supply = s.supply ∧
      z.scan = { s.scan with ref := .fault, refCount := 0 } := by
    rw [stale]
    exact ⟨rfl, rfl, rfl, rfl, rfl⟩
  obtain ⟨berth, divided, profile', supply', scan''⟩ := same
  rw [scan, scan''] at scan'
  refine ⟨asked.trans asked', ⟨?_, ?_, ?_, ?_, fun m => ?_, ?_⟩, ?_⟩
  · rw [asked.berth]
    rw [berth] at silent speaks
    cases h : s.berth.phase.silent with
    | true => rw [silent h, h]
    | false =>
      rw [speaks h]
      rfl
  · rw [report, surveyed.divider, divided]
  · rw [asked.profile, profile, profile']
  · rw [asked.supply, supply, supply']
  · rw [asked.line, (surveyed.gauged m).flags.1, line]
    rfl
  · rw [scan']
  · rw [ended, scan']

/-- The part with every ring emptied, the reference OK, and the cause no longer present. -/
def clearedRings (s : State) : State :=
  endCause .senseFault (eachLine (fun n => modLine n Line.emptyRing) (setRef .ok 0 s))

theorem clearRefFault_eq (s : State) : clearRefFault s = askBerth (askFitted (clearedRings s)) := rfl

theorem clearedRings_fields (s : State) : (∀ m, (clearedRings s).line m = { s.line m with ring := [] }) ∧
    (clearedRings s).berth = { s.berth with
      present := s.berth.present &&& ~~~LockdownCause.senseFault.bit } ∧
    (clearedRings s).queue = s.queue ∧ (clearedRings s).bus.orderLane = s.bus.orderLane ∧
    (clearedRings s).scan = { s.scan with ref := .ok, refCount := 0 } ∧
    (clearedRings s).profile = s.profile ∧ (clearedRings s).supply = s.supply ∧
    (clearedRings s).report = s.report := by
  have emptied : eachLine (fun n => modLine n Line.emptyRing) (setRef .ok 0 s) = { setRef .ok 0 s with
      lines := (eachLine (fun n => modLine n Line.emptyRing) (setRef .ok 0 s)).lines } := eachLine_modLine_eq _ _
  have line (m : LineId) := line_eachLine_modLine (fun _ => Line.emptyRing) m (setRef .ok 0 s)
  unfold clearedRings endCause
  generalize eachLine (fun n => modLine n Line.emptyRing) (setRef .ok 0 s) = z at *
  obtain ⟨berth, lines, queue, bus, scan, profile, supply, report, -⟩ :=
    setCauses_fields z.berth.causes (z.berth.present &&& ~~~LockdownCause.senseFault.bit) z
  refine ⟨fun m => ?_, berth.trans ?_, queue.trans ?_, (Bus.bare_orderLane bus).trans ?_, scan.trans ?_,
    profile.trans ?_, supply.trans ?_, report.trans ?_⟩
  · exact (congrArg (fun l : Vector Line 12 => l[m]) lines).trans (line m)
  all_goals
    rw [emptied]
    rfl

theorem mem_askFitted_askBerth (s : State) (speaks : s.berth.phase.silent = false) :
    12 ∈ (askBerth (askFitted s)).bus.reportLane ∧ ∀ m : LineId, (s.line m).fitted = true →
      m.castSucc ∈ (askBerth (askFitted s)).bus.reportLane := by
  have berth := (AskedMore.askFitted s).berth
  have members := fun m fitted => mem_askFitted (n := m) speaks fitted
  generalize askFitted s = t at *
  refine ⟨mem_askBerth ?_, fun m fitted => askRecord_mem (members m fitted)⟩
  rw [berth]
  exact Phase.not_starting speaks

theorem passEnded_clearRefFault (s : State) : AskedMore (clearedRings s) (passEnded (clearRefFault s)) ∧
    Judged s (clearRefFault s) ∧
    (passEnded (clearRefFault s)).scan =
      { s.scan with ref := .ok, refCount := 0, pass := s.scan.mode.next } ∧
    (s.berth.phase.silent = false → 12 ∈ (passEnded (clearRefFault s)).bus.reportLane ∧
      ∀ m : LineId, (s.line m).fitted = true → m.castSucc ∈ (passEnded (clearRefFault s)).bus.reportLane) := by
  obtain ⟨line, berth, queue, lane, scan, profile, supply, report⟩ := clearedRings_fields s
  have asked : AskedMore (clearedRings s) (clearRefFault s) := (AskedMore.askFitted _).trans (.askBerth _)
  have scan' : (clearRefFault s).scan = { s.scan with ref := .ok, refCount := 0 } := by
    rw [clearRefFault_eq, askBerth_scan, askFitted_scan, scan]
  have report' : (clearRefFault s).report = s.report := by
    rw [clearRefFault_eq, askBerth_report, askFitted_report, report]
  have members := mem_askFitted_askBerth (clearedRings s)
  rw [← clearRefFault_eq, berth] at members
  obtain ⟨asked', ended⟩ := passEnded_leaves (clearRefFault s)
  generalize clearRefFault s = t at *
  generalize clearedRings s = y at *
  refine ⟨asked.trans asked', ⟨?_, ?_, asked.profile.trans profile, asked.supply.trans supply, fun m => ?_, ?_⟩,
    by rw [ended, scan'], fun speaks => ⟨asked'.asked _ (members speaks).1, fun m fitted =>
      asked'.asked _ ((members speaks).2 m (by rw [line]; exact fitted))⟩⟩
  · rw [asked.berth, berth]
  · rw [report']
  · rw [asked.line, line]
  · rw [scan']

end Sys2Proof.Machine
end

section
/-! SUPPORT. O58, assembled: the judgement by reference state, window and count. -/

namespace Sys2Proof.Machine

variable {n : LineId}

/-- The judgement leaves what the end of the pass reads (R92). -/
theorem judged_judgeReference (raw : Nat) (s : State) : Judged s (judgeReference raw s) := by
  cases ref : s.scan.ref with
  | ok =>
    cases window : refInWindow s raw with
    | true =>
      rw [judgeReference_ok_good ref window]
      exact judged_setRef _ _ s
    | false =>
      rw [judgeReference_ok_bad ref window]
      split
      · exact (passEnded_enterRefFault s).2.1
      · exact judged_setRef _ _ s
  | fault =>
    cases window : refInWindow s raw with
    | true =>
      rw [judgeReference_fault_good ref window]
      split
      · exact (passEnded_clearRefFault s).2.1
      · exact judged_setRef _ _ s
    | false =>
      rw [judgeReference_fault_bad ref window]
      exact judged_setRef _ _ s

/-- The blocks and the divider after the end of a pass, from what was before its judgement. -/
theorem passEnded_judged {s t : State} (h : Judged s t) :
    (passEnded t).profile = s.profile ∧ (passEnded t).supply = s.supply ∧
    (s.Refreshes → (passEnded t).report.divider = 0 ∧
      ∀ m : LineId, (s.line m).fitted = true → m.castSucc ∈ (passEnded t).bus.reportLane) ∧
    (¬ s.Refreshes → s.berth.phase.silent = false →
      (passEnded t).report.divider = s.report.divider + 1) ∧
    (s.berth.phase.silent = true → (passEnded t).report.divider = s.report.divider) := by
  obtain ⟨asked, -⟩ := passEnded_leaves t
  obtain ⟨at_, between, silent⟩ := passEnded_divider t
  rw [h.refreshes] at at_ between
  rw [h.silent, h.divider] at between silent
  refine ⟨asked.profile.trans h.profile, asked.supply.trans h.supply, fun r => ⟨(at_ r).1, fun m fitted =>
    (at_ r).2.1 m (by rw [h.fitted]; exact fitted)⟩, fun r => (between r).2, silent⟩

/-- What stands after the reference FAULT was entered, in every phase (R93, R131). -/
theorem enterRefFault_stands (s : State) :
    let u := passEnded (enterRefFault s)
    u.berth.causes = s.berth.causes ||| LockdownCause.senseFault.bit ∧
    u.berth.present = s.berth.present ||| LockdownCause.senseFault.bit ∧
    (s.berth.phase.silent = false → u.berth.phase = .lockdown) ∧
    ∀ m, (u.line m).tension = none ∧ (u.line m).cls = .noClass ∧ (u.line m).overRun = 0 ∧
      (u.line m).slackRun = 0 ∧ (u.line m).ring = (s.line m).ring := by
  intro u
  obtain ⟨asked, -, -⟩ := passEnded_enterRefFault s
  have surveyed : Surveyed (staleRecords s) (raiseCause .senseFault true (staleRecords s)) := .raiseCause _ _ _
  obtain ⟨causes, present, -, speaks⟩ := raiseCause_berth .senseFault true (staleRecords s)
  have berth : (staleRecords s).berth = s.berth := by
    rw [staleRecords_eq]
    rfl
  rw [berth] at causes present speaks
  refine ⟨?_, ?_, fun h => ?_, fun m => ?_⟩
  · exact (congrArg Berth.causes asked.berth).trans causes
  · exact (congrArg Berth.present asked.berth).trans present
  · exact (congrArg Berth.phase asked.berth).trans (speaks h)
  · obtain ⟨-, tension, cls, heavy, light, ring⟩ := surveyed.gauged m
    rw [line_staleRecords] at tension cls heavy light ring
    rw [asked.line]
    exact ⟨tension, cls, heavy, light, ring⟩

/-- The fitted lines' records are asked for where the reference FAULT is entered in service (R93). -/
theorem mem_enterRefFault {s : State} (speaks : s.berth.phase.silent = false) (fitted : (s.line n).fitted = true) :
    n.castSucc ∈ (passEnded (enterRefFault s)).bus.reportLane := by
  have surveyed : Surveyed (staleRecords s) (raiseCause .senseFault true (staleRecords s)) := .raiseCause _ _ _
  obtain ⟨-, -, -, locks⟩ := raiseCause_berth .senseFault true (staleRecords s)
  have berth : (staleRecords s).berth = s.berth := by
    rw [staleRecords_eq]
    rfl
  rw [berth] at locks
  have line : ((raiseCause .senseFault true (staleRecords s)).line n).fitted = true := by
    rw [(surveyed.gauged n).flags.1, line_staleRecords]
    exact fitted
  have mem : n.castSucc ∈ (enterRefFault s).bus.reportLane := by
    rw [enterRefFault_eq]
    exact mem_askFitted (by rw [locks speaks]; rfl) line
  exact (passEnded_leaves (enterRefFault s)).1.asked _ mem

/-- LOCKDOWN by SENSE_FAULT, seen from the part whose records have just gone stale (R93, R131, R132). -/
theorem enterRefFault_locks (s : State) :
    let u := passEnded (enterRefFault s)
    ∃ v : State, v = { s with lines := v.lines } ∧
      (∀ m, v.line m = { s.line m with
        tension := none, cls := .noClass, overRun := 0, slackRun := 0 }) ∧
      (s.berth.phase.silent = true ∨ s.berth.phase = .lockdown → u.lines = v.lines ∧
        u.queue = s.queue ∧ u.bus.orderLane = s.bus.orderLane ∧
        u.berth.phase = s.berth.phase ∧ u.berth.silence = s.berth.silence) ∧
      (s.berth.phase = .lockdown → s.berth.causes.has .senseFault = false →
        u.notice .lockdownEntered = true ∧ 12 ∈ u.bus.reportLane) ∧
      (s.Sound → s.berth.phase = .vacant ∨ s.berth.phase = .arrival ∨ s.berth.phase = .secured ∨
        s.berth.phase = .departure → EnteredLockdown .senseFault v u) := by
  intro u
  obtain ⟨asked, -, -⟩ := passEnded_enterRefFault s
  have line := line_staleRecords s
  have stale := staleRecords_eq s
  generalize staleRecords s = z at *
  have same : z.berth = s.berth ∧ z.queue = s.queue ∧ z.bus = s.bus ∧ z.profile = s.profile ∧
      z.atTick = s.atTick := by
    rw [stale]
    exact ⟨rfl, rfl, rfl, rfl, rfl⟩
  obtain ⟨berth, queue, bus, profile, atTick⟩ := same
  refine ⟨{ s with lines := z.lines }, rfl, line, fun h => ?_, fun lockdown fresh => ?_, fun sound phase => ?_⟩
  · have quiet : z.berth.phase = .starting ∨ z.berth.phase = .halted ∨ z.berth.phase = .lockdown := by
      rw [berth]
      rcases h with silent | lockdown
      · rcases Phase.cases_open s.berth.phase with q | q
        · exact q
        · rcases q with q | q | q | q <;> rw [q] at silent <;> cases silent
      · exact .inr (.inr lockdown)
    obtain ⟨berth', lines', queue', lane'⟩ := raiseCause_kept (c := .senseFault) (p := true) quiet
    refine ⟨asked.lines.trans lines', (asked.queue.trans queue').trans queue,
      (asked.lane.trans lane').trans (by rw [bus]), ?_, ?_⟩
    · rw [show u.berth = _ from asked.berth, berth', berth]
    · rw [show u.berth = _ from asked.berth, berth', berth]
  · rw [← berth] at lockdown fresh
    have raised : raiseCause .senseFault true z = setBerthNotice .lockdownEntered (addCause .senseFault true z) := by
      rw [raiseCause_lockdown lockdown, if_neg (by simp [fresh])]
    refine ⟨(asked.notice _).trans ?_, asked.asked _ ?_⟩
    · rw [raised]
      exact notice_setBerthNotice _ _
    · rw [raised]
      exact setBerthNotice_mem (mem_addCause fresh (by rw [lockdown]; simp))
  · have entered := enteredLockdown_raiseCause (s := { s with lines := z.lines }) (z := z) (c := .senseFault)
      (p := true) sound.queueLines (by rw [berth]; exact phase) rfl queue profile (by rw [berth]) (by rw [bus]) atTick
    exact entered.1.askedMore asked

/-- Settles O58: the six cases of the judgement, each with the end of its pass. -/
theorem referenceJudged : Obligations.ReferenceJudged := by
  intro raw p s power pass plan stage
  have judged := judged_judgeReference raw.toNat s
  have run := exec_reference power pass plan stage judged
  obtain ⟨profile, supply, refreshes, between, silent⟩ := passEnded_judged judged
  have good := refInWindow_iff s raw.toNat
  have bad : ¬ (referenceLow s.image ≤ raw.toNat ∧ raw.toNat ≤ referenceHigh s.image) →
      refInWindow s raw.toNat = false := fun h => by
    rw [← Bool.not_eq_true, good]
    exact h
  refine ⟨_, run, profile, supply, refreshes, between, silent, fun ref inside => ?_, fun ref outside first => ?_,
    fun ref outside again => ?_, fun ref outside => ?_, fun ref inside first => ?_, fun ref inside again => ?_⟩
  · rw [judgeReference_ok_good ref (good.mpr inside)]
    exact passEnded_setRef 0 ref
  · rw [judgeReference_ok_bad ref (bad outside), first, if_neg (by omega)]
    exact passEnded_setRef 1 ref
  · rw [judgeReference_ok_bad ref (bad outside), if_pos (by omega)]
    obtain ⟨causes, present, locks, stale⟩ := enterRefFault_stands s
    exact ⟨(passEnded_enterRefFault s).2.2, causes, present,
      fun speaks => ⟨locks speaks, fun m fitted => mem_enterRefFault speaks fitted⟩, stale, enterRefFault_locks s⟩
  · rw [judgeReference_fault_bad ref (bad outside)]
    exact passEnded_setRef 0 ref
  · rw [judgeReference_fault_good ref (good.mpr inside), first, if_neg (by omega)]
    exact passEnded_setRef 1 ref
  · rw [judgeReference_fault_good ref (good.mpr inside), if_pos (by omega)]
    obtain ⟨line, berth, queue, lane, -⟩ := clearedRings_fields s
    obtain ⟨asked, -, scan, members⟩ := passEnded_clearRefFault s
    exact ⟨scan, fun m => (asked.line m).trans (line m), asked.queue.trans queue, asked.lane.trans lane,
      asked.berth.trans berth, members⟩

end Sys2Proof.Machine
end

section
/-! SUPPORT. O47: the words of the records as sums of their fields, and the codes of the manual's tables. -/

namespace Sys2Proof.Machine

variable {n : LineId}

/-! ### Fields placed side by side -/

/-- Word `w` is the number `v`, which lies below bit `k`. -/
structure Reads (w : Word) (v k : Nat) : Prop where
  value : w.toNat = v
  below : v < 2 ^ k

theorem toNat_field {v k j : Nat} (room : v < 2 ^ j) (fits : k + j ≤ 32) : (field v k).toNat = v * 2 ^ k := by
  have below : v * 2 ^ k < 2 ^ 32 :=
    calc v * 2 ^ k < 2 ^ j * 2 ^ k := Nat.mul_lt_mul_of_pos_right room (Nat.two_pow_pos k)
      _ = 2 ^ (k + j) := by rw [← Nat.pow_add, Nat.add_comm]
      _ ≤ 2 ^ 32 := Nat.pow_le_pow_right (by omega) fits
  have small : v < 2 ^ 32 := lt_of_lt_of_le room (Nat.pow_le_pow_right (by omega) (by omega))
  unfold field
  rw [BitVec.toNat_shiftLeft, BitVec.toNat_ofNat, Nat.mod_eq_of_lt small, Nat.shiftLeft_eq, Nat.mod_eq_of_lt below]

/-- A field above all that a word holds adds to its number. -/
theorem Reads.or_field {w : Word} {v k at_ j x : Nat} (h : Reads w v k) (above : k ≤ at_) (room : x < 2 ^ j)
    (fits : at_ + j ≤ 32) : Reads (w ||| field x at_) (v + x * 2 ^ at_) (at_ + j) := by
  have low : v < 2 ^ at_ := lt_of_lt_of_le h.below (Nat.pow_le_pow_right (by omega) above)
  constructor
  · rw [BitVec.toNat_or, h.value, toNat_field room fits, Nat.or_comm, Nat.mul_comm x,
      ← Nat.two_pow_add_eq_or_of_lt low, Nat.add_comm]
  · calc v + x * 2 ^ at_ < 2 ^ at_ + x * 2 ^ at_ := Nat.add_lt_add_right low _
      _ = (x + 1) * 2 ^ at_ := by ring
      _ ≤ 2 ^ j * 2 ^ at_ := Nat.mul_le_mul_right _ room
      _ = 2 ^ (at_ + j) := by rw [← Nat.pow_add, Nat.add_comm]

theorem Reads.or_flag {w : Word} {v k at_ : Nat} (h : Reads w v k) (above : k ≤ at_) (b : Bool)
    (fits : at_ + 1 ≤ 32) : Reads (w ||| flag b at_) (v + b.toNat * 2 ^ at_) (at_ + 1) :=
  h.or_field (x := b.toNat) above (Bool.toNat_lt b) fits

theorem Reads.field_zero {x j : Nat} (room : x < 2 ^ j) (fits : j ≤ 32) : Reads (field x 0) x j :=
  ⟨by rw [toNat_field room (by omega)]; omega, room⟩

theorem Reads.setWidth {m : Nat} (v : BitVec m) (fits : m ≤ 32) : Reads (v.setWidth 32) v.toNat m := by
  have below : v.toNat < 2 ^ 32 := lt_of_lt_of_le v.isLt (Nat.pow_le_pow_right (by omega) fits)
  exact ⟨by rw [BitVec.toNat_setWidth, Nat.mod_eq_of_lt below], v.isLt⟩

/-- The low 8 bits of a sequence number. -/
theorem Reads.low_byte (v : BitVec 16) : Reads ((v.setWidth 8).setWidth 32) (v.toNat % 256) 8 := by
  have h := Reads.setWidth (v.setWidth 8) (by omega)
  rwa [BitVec.toNat_setWidth] at h

/-! ### The ranges of the codes (09) -/

theorem LineState.code_lt (st : LineState) : st.code < 2 ^ 4 := by cases st <;> simp [code]

theorem LineState.reasonCode_lt (st : LineState) : st.reasonCode < 2 ^ 4 := by
  cases st with
  | faulted r => cases r <;> decide
  | _ => exact Nat.two_pow_pos 4

theorem Classification.code_lt (c : Classification) : c.code < 2 ^ 3 := by cases c <;> decide

theorem Verdict.code_lt (v : Verdict) : v.code < 2 ^ 3 := by cases v <;> simp [code]

theorem partKindCode_lt (k : OrderKind) : partKindCode k < 2 ^ 2 := by cases k <;> decide

theorem PartCause.code_lt (c : PartCause) : c.code < 2 ^ 8 := by
  cases c with
  | lockdown c => cases c <;> decide
  | _ => decide

theorem RefusalReason.code_lt (r : RefusalReason) : r.code < 2 ^ 8 := by cases r <;> decide

theorem Phase.code_lt (p : Phase) : p.code < 2 ^ 3 := by cases p <;> decide

theorem ResetCause.code_lt (c : ResetCause) : c.code < 2 ^ 2 := by cases c <;> decide

theorem RequestRefusal.code_lt (r : RequestRefusal) : r.code < 2 ^ 2 := by cases r <;> decide

theorem ProfileOutcome.code_lt (o : ProfileOutcome) : o.code < 2 ^ 3 := by cases o <;> simp [code]

/-- A field left at 0 where there is nothing to show stays within its range. -/
theorem getD_lt {α : Type} {f : α → Nat} {k : Nat} (h : ∀ a, f a < 2 ^ k) (o : Option α) :
    (o.map f).getD 0 < 2 ^ k := by
  cases o with
  | none => exact Nat.two_pow_pos k
  | some a => exact h a

theorem reasonOrTag_lt (h : LastHost) : reasonOrTag h < 2 ^ 8 := by
  have tag := getD_lt (k := 8) (f := fun t : Tag => t.toNat) (fun t => t.isLt) h.superseded
  unfold reasonOrTag
  split
  · exact RefusalReason.code_lt _
  all_goals exact tag

/-! ### The words of a line record (09) -/

theorem reads_lineWord0 (s : State) (n : LineId) : (lineWord0 s n).toNat =
    (s.line n).seq.toNat + (s.line n).state.code * 2 ^ 16 + (s.line n).state.reasonCode * 2 ^ 20 +
    (s.line n).lengthUnknown.toNat * 2 ^ 24 + (s.line n).tension.isNone.toNat * 2 ^ 25 +
    (s.entry n).isSome.toNat * 2 ^ 26 + (s.line n).notice.toNat * 2 ^ 27 +
    ((s.entry n).any fun x => x.stage == .probing).toNat * 2 ^ 28 +
    ((s.entry n).any fun x => x.origin == .groupWord).toNat * 2 ^ 29 +
    (s.line n).lastHost.superseded.isSome.toNat * 2 ^ 30 :=
  ((((((((((Reads.setWidth (s.line n).seq (by omega)).or_field (by omega) (LineState.code_lt _) (by omega)).or_field
    (by omega) (LineState.reasonCode_lt _) (by omega)).or_flag (by omega) _ (by omega)).or_flag (by omega) _
    (by omega)).or_flag (by omega) _ (by omega)).or_flag (by omega) _ (by omega)).or_flag (by omega) _
    (by omega)).or_flag (by omega) _ (by omega)).or_flag (by omega) _ (by omega)).value

theorem reads_lineWord1 {s : State} (tension : (s.line n).tension.getD 0 < 16384)
    (span : (s.line n).span.getD 32767 < 32768) : (lineWord1 s n).toNat =
      (s.line n).tension.getD 0 + (s.line n).cls.code * 2 ^ 14 + (s.line n).span.getD 32767 * 2 ^ 17 :=
  (((Reads.field_zero (j := 14) tension (by omega)).or_field (by omega) (Classification.code_lt _) (by omega)).or_field
    (j := 15) (by omega) span (by omega)).value

/-- The closed set shown, as its five flags, with or without an entry (09). -/
theorem shown_getD (o : Option Entry) : ((o.map fun x => x.closed.shown).getD 0) =
    flag (o.any fun x => x.closed.lineReady) 19 ||| flag (o.any fun x => x.closed.rankOrder) 20 |||
    flag (o.any fun x => x.closed.surgeSettled) 21 ||| flag (o.any fun x => x.closed.tensionFree) 22 |||
    flag (o.any fun x => x.closed.lineSlack) 23 := by
  cases o with
  | none => decide
  | some e => rfl

theorem reads_lineWord2 {s : State} (steps : (s.line n).state.stepsShown < 8) (payout : (s.line n).payout < 65536) :
    (lineWord2 s n).toNat = (s.line n).payout + (s.line n).state.stepsShown * 2 ^ 16 +
      ((s.entry n).any fun x => x.closed.lineReady).toNat * 2 ^ 19 +
      ((s.entry n).any fun x => x.closed.rankOrder).toNat * 2 ^ 20 +
      ((s.entry n).any fun x => x.closed.surgeSettled).toNat * 2 ^ 21 +
      ((s.entry n).any fun x => x.closed.tensionFree).toNat * 2 ^ 22 +
      ((s.entry n).any fun x => x.closed.lineSlack).toNat * 2 ^ 23 +
      (((s.line n).lastPart.map fun p => p.cause.code).getD 0) * 2 ^ 24 := by
  unfold lineWord2
  dsimp only
  rw [shown_getD]
  simp only [← BitVec.or_assoc]
  have cause := getD_lt (f := fun p : LastPart => p.cause.code) (fun p => PartCause.code_lt p.cause)
    (s.line n).lastPart
  have drum := (Reads.field_zero (j := 16) payout (by omega)).or_field (j := 3) (at_ := 16) (by omega) steps (by omega)
  exact ((((((drum.or_flag (by omega) _ (by omega)).or_flag (by omega) _ (by omega)).or_flag (by omega) _
    (by omega)).or_flag (by omega) _ (by omega)).or_flag (by omega) _ (by omega)).or_field (by omega) cause
    (by omega)).value

theorem reads_lineWord3 (s : State) (n : LineId) : (lineWord3 s n).toNat =
    (s.line n).seq.toNat % 256 + (((s.line n).lastHost.order.map fun o => o.1.toNat).getD 0) * 2 ^ 8 +
    (((s.line n).lastHost.order.map fun o => o.2.code % 8).getD 0) * 2 ^ 16 +
    (((s.line n).lastHost.outcome.map Verdict.code).getD 0) * 2 ^ 19 +
    (((s.line n).lastPart.map fun p => partKindCode p.kind).getD 0) * 2 ^ 22 +
    reasonOrTag (s.line n).lastHost * 2 ^ 24 := by
  have tag := getD_lt (k := 8) (f := fun o : Tag × OrderKind => o.1.toNat) (fun o => o.1.isLt)
    (s.line n).lastHost.order
  have kind := getD_lt (k := 3) (f := fun o : Tag × OrderKind => o.2.code % 8)
    (fun o => Nat.mod_lt _ (by omega)) (s.line n).lastHost.order
  have verdict := getD_lt Verdict.code_lt (s.line n).lastHost.outcome
  have part := getD_lt (f := fun p : LastPart => partKindCode p.kind) (fun p => partKindCode_lt p.kind)
    (s.line n).lastPart
  unfold lineWord3
  exact (((((Reads.low_byte (s.line n).seq).or_field (by omega) tag (by omega)).or_field (by omega) kind
    (by omega)).or_field (by omega) verdict (by omega)).or_field (by omega) part (by omega)).or_field
    (by omega) (reasonOrTag_lt _) (by omega) |>.value

/-! ### The words of the berth record (09) -/

theorem reads_berthWord0 (s : State) : (berthWord0 s).toNat =
    s.report.seq.toNat + s.berth.phase.code * 2 ^ 16 + (s.profile.source == .loaded).toNat * 2 ^ 19 :=
  (((Reads.setWidth s.report.seq (by omega)).or_field (by omega) (Phase.code_lt _) (by omega)).or_flag (by omega) _
    (by omega)).value

/-- A set of bits placed at bit `k` is a field. -/
theorem setWidth_shiftLeft {m : Nat} (v : BitVec m) (k : Nat) :
    v.setWidth 32 <<< k = field v.toNat k := by
  unfold field
  congr 1
  refine BitVec.eq_of_toNat_eq ?_
  rw [BitVec.toNat_ofNat, BitVec.toNat_setWidth]

theorem reads_berthWord1 (s : State) : (berthWord1 s).toNat =
    s.berth.causes.toNat + s.berth.present.toNat * 2 ^ 8 + s.supply.cause.code * 2 ^ 16 +
    ((s.berth.refusal.map RequestRefusal.code).getD 0) * 2 ^ 18 := by
  unfold berthWord1
  rw [setWidth_shiftLeft s.berth.present 8]
  exact ((((Reads.setWidth s.berth.causes (by omega)).or_field (by omega) s.berth.present.isLt (by omega)).or_field
    (by omega) (ResetCause.code_lt _) (by omega)).or_field (by omega) (getD_lt RequestRefusal.code_lt _)
    (by omega)).value

theorem getLsbD_flag (b : Bool) (k i : Nat) (hi : i < 32) : (flag b k).getLsbD i = (decide (i = k) && b) := by
  unfold flag field
  rw [BitVec.getLsbD_shiftLeft]
  cases b with
  | false => simp
  | true =>
    by_cases same : i = k
    · subst same
      simp [hi]
    · have apart : i < k ∨ i - k ≠ 0 := by omega
      rcases apart with below | above
      · simp [below, same]
      · simp [same, above]

theorem getLsbD_foldl_flags (f : LineId → Bool) (ns : List LineId) (w : Word) (i : Nat) (hi : i < 32) :
    (ns.foldl (fun w n => w ||| flag (f n) n.val) w).getLsbD i =
      (w.getLsbD i || ns.any fun n => decide (i = n.val) && f n) := by
  induction ns generalizing w with
  | nil => simp
  | cons n ns ih =>
    rw [List.foldl_cons, ih, BitVec.getLsbD_or, getLsbD_flag _ _ _ hi, List.any_cons, Bool.or_assoc]

theorem getLsbD_noticeSummary (s : State) {i : Nat} (hi : i < 32) :
    (noticeSummary s).getLsbD i = allLines.any fun n => decide (i = n.val) && (s.line n).notice := by
  unfold noticeSummary
  rw [getLsbD_foldl_flags _ _ _ _ hi]
  simp

theorem getLsbD_noticeSummary_line (s : State) (n : LineId) :
    (noticeSummary s).getLsbD n.val = (s.line n).notice := by
  rw [getLsbD_noticeSummary s (by omega), Bool.eq_iff_iff, List.any_eq_true]
  constructor
  · rintro ⟨m, -, h⟩
    rw [Bool.and_eq_true, decide_eq_true_iff] at h
    have same : n = m := Fin.ext h.1
    rw [same]
    exact h.2
  · intro h
    exact ⟨n, mem_allLines n, by simp [h]⟩

theorem reads_noticeSummary (s : State) : Reads (noticeSummary s) (noticeSummary s).toNat 12 := by
  refine ⟨rfl, Nat.lt_pow_two_of_testBit _ fun i hi => ?_⟩
  by_cases word : i < 32
  · change (noticeSummary s).getLsbD i = false
    rw [getLsbD_noticeSummary s word, Bool.eq_false_iff]
    intro h
    obtain ⟨m, -, h⟩ := List.any_eq_true.mp h
    rw [Bool.and_eq_true, decide_eq_true_iff] at h
    omega
  · exact Nat.testBit_lt_two_pow (lt_of_lt_of_le (noticeSummary s).isLt
      (Nat.pow_le_pow_right (by omega) (by omega)))

theorem reads_berthWord2 {s : State} (queue : s.queue.length < 16) : (berthWord2 s).toNat =
    (noticeSummary s).toNat + s.report.notices.toNat * 2 ^ 12 + s.queue.length * 2 ^ 20 +
    s.supply.live.toNat * 2 ^ 24 + s.supply.latched.toNat * 2 ^ 25 := by
  unfold berthWord2
  rw [setWidth_shiftLeft s.report.notices 12]
  exact (((((reads_noticeSummary s).or_field (by omega) s.report.notices.isLt (by omega)).or_field (j := 4) (by omega)
    queue (by omega)).or_flag (by omega) _ (by omega)).or_flag (by omega) _ (by omega)).value

theorem upper_berthWord2 {s : State} (queue : s.queue.length < 16) : (berthWord2 s).extractLsb' 12 20 =
    BitVec.ofNat 20 (s.report.notices.toNat + s.queue.length * 2 ^ 8 + s.supply.live.toNat * 2 ^ 12 +
      s.supply.latched.toNat * 2 ^ 13) := by
  have value := reads_berthWord2 queue
  have low := (reads_noticeSummary s).below
  refine BitVec.eq_of_toNat_eq ?_
  rw [BitVec.extractLsb'_toNat, BitVec.toNat_ofNat, value, Nat.shiftRight_eq_div_pow]
  congr 1
  omega

theorem lower_berthWord2 {s : State} (queue : s.queue.length < 16) (n : LineId) :
    (berthWord2 s).getLsbD n.val = (s.line n).notice := by
  have value := reads_berthWord2 queue
  rw [← getLsbD_noticeSummary_line s n]
  change (berthWord2 s).toNat.testBit n.val = (noticeSummary s).toNat.testBit n.val
  have split : (berthWord2 s).toNat = 2 ^ 12 * (s.report.notices.toNat + s.queue.length * 2 ^ 8 +
      s.supply.live.toNat * 2 ^ 12 + s.supply.latched.toNat * 2 ^ 13) + (noticeSummary s).toNat := by
    rw [value]
    ring
  rw [split, Nat.testBit_two_pow_mul_add _ (reads_noticeSummary s).below, if_pos n.isLt]

theorem reads_berthWord3 {s : State} (index : ∀ i, s.profile.outcome = .rejected i → i < 128) :
    (berthWord3 s).toNat = s.report.seq.toNat % 256 + s.profile.outcome.code * 2 ^ 8 +
      (s.profile.load != .idle).toNat * 2 ^ 11 +
      (match s.profile.outcome with | .rejected i => i + 128 | _ => 0) * 2 ^ 12 := by
  have low := ((Reads.low_byte s.report.seq).or_field (at_ := 8) (by omega)
    (ProfileOutcome.code_lt s.profile.outcome) (by omega)).or_flag (at_ := 11) (by omega) (s.profile.load != .idle) (by omega)
  unfold berthWord3
  cases outcome : s.profile.outcome with
  | rejected i =>
    rw [outcome] at low
    have room : i < 2 ^ 7 := index i outcome
    unfold ProfileOutcome.indexField
    dsimp only
    rw [← BitVec.or_assoc, ((low.or_field (at_ := 12) (by omega) room (by omega)).or_flag (by omega) true
      (by omega)).value]
    simp only [Bool.toNat_true]
    omega
  | _ =>
    rw [outcome] at low
    change (_ ||| 0#32 : Word).toNat = _
    rw [BitVec.or_zero, low.value]
    dsimp only
    omega

end Sys2Proof.Machine
end

section
/-! SUPPORT. O47, assembled: the two records and the tables of codes. -/

namespace Sys2Proof.Machine

/-- The last byte of word 3, as the manual tables it (R181). -/
theorem reasonOrTag_eq (h : LastHost) : reasonOrTag h = match h.outcome, h.superseded with
    | some (.refused r), _ => r.code
    | _, some t => t.toNat
    | _, none => 0 := by
  unfold reasonOrTag
  cases h.outcome with
  | none => cases h.superseded <;> rfl
  | some v => cases v <;> cases h.superseded <;> rfl

theorem recordWords_line (n : LineId) (s : State) : recordWords n.castSucc s =
    .record n.castSucc (lineWord0 s n) (lineWord1 s n) (lineWord2 s n) (lineWord3 s n) := by
  unfold recordWords
  exact dif_pos n.isLt

theorem recordWords_berth (s : State) :
    recordWords 12 s = .record 12 (berthWord0 s) (berthWord1 s) (berthWord2 s) (berthWord3 s) := rfl

/-- Settles O47: the words by their sums, then the tables. -/
theorem recordContents : Obligations.RecordContents := by
  refine ⟨fun n s => ?_, fun s => ?_, fun _ _ _ => rfl, fun _ => ⟨rfl, rfl⟩, fun st other => ?_, fun _ _ => rfl,
    fun st other => ?_, rfl, rfl, fun _ => rfl, rfl, rfl, rfl, rfl, fun c cs => ⟨?_, rfl⟩, rfl, fun k s => ?_, rfl,
    rfl, rfl, rfl, rfl, fun _ => rfl⟩
  · refine ⟨_, _, _, _, recordWords_line n s, fun steps payout tension span => ⟨reads_lineWord0 s n,
      reads_lineWord1 tension span, (reads_lineWord2 steps payout).trans ?_, (reads_lineWord3 s n).trans ?_⟩⟩
    · cases (s.line n).lastPart <;> rfl
    · rw [reasonOrTag_eq]
      cases (s.line n).lastHost.order <;> cases (s.line n).lastHost.outcome <;> cases (s.line n).lastPart <;> rfl
  · refine ⟨_, _, _, _, recordWords_berth s, fun queue index => ⟨reads_berthWord0 s,
      (reads_berthWord1 s).trans ?_, upper_berthWord2 queue, lower_berthWord2 queue, reads_berthWord3 index⟩⟩
    cases s.berth.refusal <;> rfl
  · cases st with
    | faulted f => exact absurd rfl (other f)
    | _ => rfl
  · cases st with
    | rendering r k => exact absurd rfl (other r k)
    | _ => rfl
  · cases c <;> rfl
  · rfl

end Sys2Proof.Machine
end

section
/-! SUPPORT. A change of profile, step by step: the flags and states of the lines, the scan cleared and restarted, and
the outcome recorded. -/

namespace Sys2Proof.Machine

variable {n : LineId}

/-! ### The lines at a change of profile (R2) -/

theorem applyProfile_eq (s : State) : applyProfile s = { s with lines := (applyProfile s).lines } :=
  eachLine_modLine_eq _ _

theorem line_applyProfile (s : State) (m : LineId) : (applyProfile s).line m =
    (s.line m).applyProfile s.image (s.berth.phase == .starting) m :=
  line_eachLine_modLine (fun m => Line.applyProfile s.image (s.berth.phase == .starting) m) m s

section Lines

variable (img : List Word) (l : Line)

/-- In STARTING every fitted line is ADOPTING and every other PARKED (R2). -/
theorem Line.applyProfile_starting (m : LineId) : l.applyProfile img true m =
    if fittedBit img m then (if l.state = .adopting then l.copyFlags img m else (l.copyFlags img m).adopt)
    else (l.copyFlags img m).freeze := rfl

/-- In every other phase a line acts where its fitted flag changes (R2). -/
theorem Line.applyProfile_serving (m : LineId) : l.applyProfile img false m =
    if fittedBit img m = l.fitted then l.copyFlags img m
    else if fittedBit img m then (l.copyFlags img m).adopt else (l.copyFlags img m).freeze := rfl

/-- Flags, verdict and notice of a line after a change of profile, in every phase. -/
theorem Line.applyProfile_fields (starting : Bool) (m : LineId) :
    (l.applyProfile img starting m).fitted = fittedBit img m ∧
    (l.applyProfile img starting m).rank = releaseRank img m ∧
    (l.applyProfile img starting m).required = requiredFlag img m ∧
    (l.applyProfile img starting m).notice = l.notice ∧
    (l.applyProfile img starting m).ring = l.ring ∧
    (l.applyProfile img starting m).probeWaiting = l.probeWaiting := by
  cases starting with
  | true =>
    rw [Line.applyProfile_starting]
    split
    · split <;> exact ⟨rfl, rfl, rfl, rfl, rfl, rfl⟩
    · exact ⟨rfl, rfl, rfl, rfl, rfl, rfl⟩
  | false =>
    rw [Line.applyProfile_serving]
    split
    · exact ⟨rfl, rfl, rfl, rfl, rfl, rfl⟩
    · split <;> exact ⟨rfl, rfl, rfl, rfl, rfl, rfl⟩

theorem Line.applyProfile_starting_state (m : LineId) :
    (l.applyProfile img true m).state = if fittedBit img m then .adopting else .parked := by
  rw [Line.applyProfile_starting]
  split
  · split
    · assumption
    · rfl
  · rfl

end Lines

/-! ### The records cleared, the scan stopped or restarted (R101, R102) -/

/-- A line with its record cleared (R101 step 3). -/
def Line.cleared (l : Line) : Line := l.stale.emptyRing

theorem clearRecords_eq (s : State) : clearRecords s = { s with lines := (clearRecords s).lines } :=
  eachLine_modLine_eq _ _

theorem line_clearRecords (s : State) (m : LineId) : (clearRecords s).line m = (s.line m).cleared :=
  line_eachLine_modLine (fun _ => Line.cleared) m s

/-- The limited restart, block by block (R102). -/
theorem prepareScan_eq (s : State) : prepareScan s = { s with
    lines := (clearRecords s).lines
    scan := { s.scan with
      plan := planOf s.image, mode := scanMode s.image, pacing := none, pass := .idle } } := by
  unfold prepareScan takePlan
  rw [clearRecords_eq]
  rfl

theorem line_prepareScan (s : State) (m : LineId) : (prepareScan s).line m = (s.line m).cleared := by
  rw [← line_clearRecords, prepareScan_eq]
  rfl

/-- The lines whose probe a restart of the scan runs: fitted, waiting or cut off (R101). -/
def State.Waits (s : State) (m : LineId) : Prop :=
  fittedBit s.image m = true ∧ ((s.line m).probeWaiting = true ∨ ∃ r, s.scan.pass = .probing m r)

/-- The part with the probe set as a restart of the scan leaves it, every record cleared. -/
def probesGathered (s : State) : State := clearRecords (dropProbes (returnProbe s))

theorem returnProbe_eq (s : State) : returnProbe s = { s with lines := (returnProbe s).lines } := by
  unfold returnProbe
  split <;> rfl

theorem line_returnProbe (s : State) (m : LineId) : ∃ w, (returnProbe s).line m = { s.line m with probeWaiting := w } ∧
    (w = true ↔ (s.line m).probeWaiting = true ∨ ∃ r, s.scan.pass = .probing m r) := by
  unfold returnProbe
  cases pass : s.scan.pass with
  | idle => exact ⟨(s.line m).probeWaiting, rfl, by simp⟩
  | running p => exact ⟨(s.line m).probeWaiting, rfl, by simp⟩
  | probing k r =>
    dsimp only
    rw [line_modLine]
    by_cases own : m = k
    · subst own
      rw [if_pos rfl]
      exact ⟨true, rfl, by simp⟩
    · rw [if_neg own]
      exact ⟨(s.line m).probeWaiting, rfl, by simp [Ne.symm own]⟩

theorem dropProbes_eq (s : State) : dropProbes s = { s with lines := (dropProbes s).lines } :=
  eachLine_modLine_eq _ _

theorem line_dropProbes (s : State) (m : LineId) : (dropProbes s).line m =
    { s.line m with probeWaiting := (s.line m).probeWaiting && fittedBit s.image m } :=
  line_eachLine_modLine (fun m l => { l with probeWaiting := l.probeWaiting && fittedBit s.image m }) m s

theorem probesGathered_eq (s : State) : probesGathered s = { s with lines := (probesGathered s).lines } := by
  have cleared := clearRecords_eq (dropProbes (returnProbe s))
  have dropped := dropProbes_eq (returnProbe s)
  have returned := returnProbe_eq s
  unfold probesGathered
  rw [cleared, dropped, returned]

theorem line_probesGathered (s : State) (m : LineId) : ∃ w,
    (probesGathered s).line m = { (s.line m).cleared with probeWaiting := w } ∧ (w = true ↔ s.Waits m) := by
  obtain ⟨w, line, waits⟩ := line_returnProbe s m
  have image : (returnProbe s).image = s.image := by
    rw [returnProbe_eq]
    rfl
  refine ⟨w && fittedBit s.image m, ?_, ?_⟩
  · unfold probesGathered
    rw [line_clearRecords, line_dropProbes, line, image]
    rfl
  · rw [Bool.and_eq_true, waits, and_comm]
    rfl

theorem restartScan_eq (s : State) :
    restartScan s = nextProbe (some 0) (startPacing (takePlan (probesGathered s))) := rfl

/-- The scan block of a restart, but for the pass (R82, R83, R101). -/
def Scan.restarted (sc : Scan) (img : List Word) (ticks : Nat → Nat) (p : Pass) : Scan :=
  { sc with
    plan := planOf img, mode := scanMode img, pass := p
    pacing := match scanMode img with
      | .paced => some (ticks (pacingPeriod img))
      | .continuous => none }

/-- The part with plan, mode and timer taken from the profile, before the pass or the probe starts. -/
theorem planTaken_eq (s : State) : startPacing (takePlan (probesGathered s)) = { s with
    lines := (probesGathered s).lines
    scan := s.scan.restarted s.image s.ticksFor s.scan.pass } := by
  have shape := probesGathered_eq s
  generalize probesGathered s = b at *
  obtain ⟨lines, rfl⟩ : ∃ lines, b = { s with lines := lines } := ⟨_, shape⟩
  rfl

theorem line_planTaken (s : State) (m : LineId) :
    (startPacing (takePlan (probesGathered s))).line m = (probesGathered s).line m := by
  rw [planTaken_eq]
  rfl

/-- The probe that a restart begins: the scan, the lines and the entries (R101). -/
theorem restartScan_probes {s : State} {m : LineId} (waits : s.Waits m) (lowest : ∀ k, k < m → ¬ s.Waits k) :
    restartScan s = { s with
      lines := (restartScan s).lines
      queue := s.queue.map fun e =>
        if e.line = m ∧ e.stage = .probing then { e with probeBegun := true } else e
      scan := s.scan.restarted s.image s.ticksFor (.probing m (some 0)) } ∧
    ∀ k, ∃ w, (restartScan s).line k = { (s.line k).cleared with probeWaiting := w } ∧
      (w = true ↔ k ≠ m ∧ s.Waits k) := by
  have asks : ((startPacing (takePlan (probesGathered s))).line m).probeWaiting = true := by
    obtain ⟨w, line, iff⟩ := line_probesGathered s m
    rw [line_planTaken, line]
    exact iff.mpr waits
  have others : ∀ k, k < m → ((startPacing (takePlan (probesGathered s))).line k).probeWaiting = false :=
    fun k lower => by
      obtain ⟨w, line, iff⟩ := line_probesGathered s k
      rw [line_planTaken, line, ← Bool.not_eq_true]
      exact fun c => lowest k lower (iff.mp c)
  have begun := nextProbe_begins (resume := some 0) asks others
  rw [← restartScan_eq] at begun
  have plan := planTaken_eq s
  have line : ∀ k, ∃ w, (startPacing (takePlan (probesGathered s))).line k =
      { (s.line k).cleared with probeWaiting := w } ∧ (w = true ↔ s.Waits k) := fun k => by
    rw [line_planTaken]
    exact line_probesGathered s k
  rw [begun]
  generalize startPacing (takePlan (probesGathered s)) = b at *
  refine ⟨?_, fun k => ?_⟩
  · obtain ⟨lines, rfl⟩ : ∃ lines, b = { s with
        lines := lines, scan := s.scan.restarted s.image s.ticksFor s.scan.pass } := ⟨_, plan⟩
    rfl
  · obtain ⟨w, line, iff⟩ := line k
    by_cases own : k = m
    · subst own
      rw [line_beginProbe, line]
      exact ⟨false, rfl, by simp⟩
    · rw [(Kept.beginProbe own _ _).line, line]
      exact ⟨w, rfl, by simp [own, iff]⟩

/-- With no probe to run a restart starts a pass (R101). -/
theorem restartScan_runs {s : State} (none : ∀ m, ¬ s.Waits m) :
    restartScan s = { s with
      lines := (restartScan s).lines
      scan := s.scan.restarted s.image s.ticksFor (.running 0) } ∧
    ∀ k, (restartScan s).line k = { (s.line k).cleared with probeWaiting := false } := by
  have idle : ∀ k, ((startPacing (takePlan (probesGathered s))).line k).probeWaiting = false := fun k => by
    obtain ⟨w, line, iff⟩ := line_probesGathered s k
    rw [line_planTaken, line, ← Bool.not_eq_true]
    exact fun c => none k (iff.mp c)
  have begun := nextProbe_resumes (resume := some 0) idle
  rw [← restartScan_eq] at begun
  have plan := planTaken_eq s
  have line : ∀ k, (startPacing (takePlan (probesGathered s))).line k =
      { (s.line k).cleared with probeWaiting := false } := fun k => by
    obtain ⟨w, line, iff⟩ := line_probesGathered s k
    have off : w = false := by
      rw [← Bool.not_eq_true]
      exact fun c => none k (iff.mp c)
    rw [line_planTaken, line, off]
  rw [begun]
  generalize startPacing (takePlan (probesGathered s)) = b at *
  refine ⟨?_, line⟩
  obtain ⟨lines, rfl⟩ : ∃ lines, b = { s with
      lines := lines, scan := s.scan.restarted s.image s.ticksFor s.scan.pass } := ⟨_, plan⟩
  rfl

/-- Some line waits, and then a lowest one, or none does. -/
theorem waits_cases (s : State) : (∃ m, s.Waits m ∧ ∀ k, k < m → ¬ s.Waits k) ∨ ∀ m, ¬ s.Waits m := by
  by_cases some : ∃ m, s.Waits m
  · obtain ⟨m, waits⟩ := some
    have least := WellFounded.has_min (wellFounded_lt (α := LineId)) {k | s.Waits k} ⟨m, waits⟩
    obtain ⟨k, own, lowest⟩ := least
    exact .inl ⟨k, own, fun j lower c => lowest j c lower⟩
  · exact .inr fun m c => some ⟨m, c⟩

/-- What every restart of the scan leaves: the blocks but for lines, entries and scan, the lines but for records and
probe requests, the entries but for the mark of a probe begun (R101). -/
structure Restarted (s t : State) : Prop where
  line : ∀ k, ∃ w, t.line k = { (s.line k).cleared with probeWaiting := w }
  entry : ∀ k, (t.entry k).map (fun e => (e.tag, e.kind)) = (s.entry k).map fun e => (e.tag, e.kind)
  queue : t.queue.map (·.line) = s.queue.map (·.line)
  scan : ∃ p, t.scan = s.scan.restarted s.image s.ticksFor p
  berth : t.berth = s.berth
  profile : t.profile = s.profile
  bus : t.bus = s.bus
  report : t.report = s.report
  supply : t.supply = s.supply
  atTick : t.atTick = s.atTick

/-- A change of entries that leaves their lines, tags and kinds. -/
theorem entries_map {f : Entry → Entry} (same : ∀ x, (f x).line = x.line ∧ (f x).tag = x.tag ∧ (f x).kind = x.kind)
    (q : List Entry) : (q.map f).map (·.line) = q.map (·.line) ∧
    ∀ k : LineId, ((q.map f).find? fun e => e.line == k).map (fun e => (e.tag, e.kind)) =
      (q.find? fun e => e.line == k).map fun e => (e.tag, e.kind) := by
  induction q with
  | nil => exact ⟨rfl, fun _ => rfl⟩
  | cons e q ih =>
    obtain ⟨lines, entries⟩ := ih
    obtain ⟨line, tag, kind⟩ := same e
    refine ⟨?_, fun k => ?_⟩
    · rw [List.map_cons, List.map_cons, List.map_cons, lines, line]
    · rw [List.map_cons]
      by_cases own : (e.line == k) = true
      · rw [List.find?_cons_of_pos (p := fun e : Entry => e.line == k) (by rw [line]; exact own),
          List.find?_cons_of_pos (p := fun e : Entry => e.line == k) own, Option.map_some, Option.map_some, tag, kind]
      · rw [List.find?_cons_of_neg (p := fun e : Entry => e.line == k) (by rw [line]; exact own),
          List.find?_cons_of_neg (p := fun e : Entry => e.line == k) own, entries k]

/-- The mark of a probe begun leaves line, tag and kind of an entry (R65). -/
theorem probeMark_keeps (m : LineId) (x : Entry) :
    (if x.line = m ∧ x.stage = .probing then { x with probeBegun := true } else x).line = x.line ∧
    (if x.line = m ∧ x.stage = .probing then { x with probeBegun := true } else x).tag = x.tag ∧
    (if x.line = m ∧ x.stage = .probing then { x with probeBegun := true } else x).kind = x.kind := by
  split <;> exact ⟨rfl, rfl, rfl⟩

theorem restarted_restartScan (s : State) : Restarted s (restartScan s) := by
  rcases waits_cases s with ⟨m, waits, lowest⟩ | none
  · obtain ⟨shape, lines⟩ := restartScan_probes waits lowest
    obtain ⟨same, entries⟩ := entries_map (probeMark_keeps m) s.queue
    generalize restartScan s = t at *
    refine ⟨fun k => ?_, fun k => ?_, ?_, ⟨.probing m (some 0), ?_⟩, ?_, ?_, ?_, ?_, ?_, ?_⟩
    · obtain ⟨w, line, -⟩ := lines k
      exact ⟨w, line⟩
    · unfold State.entry
      rw [shape]
      exact entries k
    all_goals rw [shape]
    exact same
  · obtain ⟨shape, lines⟩ := restartScan_runs none
    generalize restartScan s = t at *
    refine ⟨fun k => ⟨false, lines k⟩, fun k => ?_, ?_, ⟨.running 0, ?_⟩, ?_, ?_, ?_, ?_, ?_, ?_⟩
    · unfold State.entry
      rw [shape]
    all_goals rw [shape]

end Sys2Proof.Machine
end

section
/-! SUPPORT. The outcome of a load, and the end of the start-up load (R172, R195, R201). -/

namespace Sys2Proof.Machine

variable {n : LineId}

/-! ### The outcome of a load, said of the reporting block (R172, R183) -/

/-- A part whose ATTN agrees with its notices keeps it so over a recorded outcome (R175). -/
theorem recordOutcome_attn (o : ProfileOutcome) {s : State} (h : s.report.attn = s.anyNotice) :
    (recordOutcome o s).report.attn = (recordOutcome o s).anyNotice := by
  have asked : ∀ t : State, (askBerth t).report.attn = t.report.attn ∧ (askBerth t).anyNotice = t.anyNotice := fun t =>
    ⟨congrArg Reporting.attn (askBerth_report t),
      anyNotice_congr (congrArg Reporting.notices (askBerth_report t)) fun m => by rw [line_askBerth]⟩
  have set : (setBerthNotice .profileEvent { s with profile := { s.profile with outcome := o } }).report.attn =
      (setBerthNotice .profileEvent { s with profile := { s.profile with outcome := o } }).anyNotice := by
    unfold setBerthNotice
    split
    · exact h
    · rw [(asked _).1, (asked _).2]
      rfl
  unfold recordOutcome
  rw [(asked _).1, (asked _).2, set]

theorem recordOutcome_divider (o : ProfileOutcome) (s : State) :
    (recordOutcome o s).report.divider = s.report.divider := by
  have set := (Surveyed.setBerthNotice .profileEvent { s with profile := { s.profile with outcome := o } }).divider
  unfold recordOutcome
  rw [askBerth_report, set]

/-! ### The profile activated in the limited way (R102, R195, R201) -/

/-- The part with a profile in force and the scan stopped, before the outcome is recorded. -/
def profileTaken (img : List Word) (src : ProfileSource) (s : State) : State :=
  setDivider 0 (prepareScan (applyProfile (setActive img src s)))

/-- The part at the end of the start-up load, before the adoption read (R201). -/
def startUpLoaded (img : List Word) (src : ProfileSource) (o : ProfileOutcome) (s : State) : State :=
  setStage .adoptRead (recordOutcome o
    (if src = .loaded then endCause .profileFault (profileTaken img src s) else profileTaken img src s))

theorem endStartUpLoad_eq (img : List Word) (src : ProfileSource) (o : ProfileOutcome) (s : State) :
    endStartUpLoad img src o s = adoptFrom 0 (startUpLoaded img src o s) := rfl

theorem profileTaken_eq (img : List Word) (src : ProfileSource) (s : State) : profileTaken img src s = { s with
    lines := (profileTaken img src s).lines
    scan := { s.scan with
      plan := planOf img, mode := scanMode img, pacing := none, pass := .idle }
    profile := { s.profile with
      active := img, source := src, verify := some (s.ticksFor 1000) }
    report := { s.report with divider := 0 } } := by
  have applied := applyProfile_eq (setActive img src s)
  unfold profileTaken
  generalize applyProfile (setActive img src s) = a at *
  obtain ⟨lines, rfl⟩ : ∃ lines, a = { setActive img src s with lines := lines } := ⟨_, applied⟩
  rw [prepareScan_eq]
  rfl

theorem line_profileTaken (img : List Word) (src : ProfileSource) (s : State) (m : LineId) :
    (profileTaken img src s).line m =
      ((s.line m).applyProfile img (s.berth.phase == .starting) m).cleared := by
  change (prepareScan (applyProfile (setActive img src s))).line m = _
  rw [line_prepareScan, line_applyProfile]
  rfl

/-- The blocks at the end of the start-up load (R102, R195, R201). -/
theorem startUpLoaded_fields (img : List Word) (src : ProfileSource) (o : ProfileOutcome) (s : State) :
    (∀ m, (startUpLoaded img src o s).line m =
      ((s.line m).applyProfile img (s.berth.phase == .starting) m).cleared) ∧
    (startUpLoaded img src o s).queue = s.queue ∧
    (startUpLoaded img src o s).scan = { s.scan with
      plan := planOf img, mode := scanMode img, pacing := none, pass := .idle } ∧
    (startUpLoaded img src o s).profile = { s.profile with
      active := img, source := src, verify := some (s.ticksFor 1000), outcome := o } ∧
    (startUpLoaded img src o s).berth = { s.berth with
      present := if src = .loaded then s.berth.present &&& ~~~LockdownCause.profileFault.bit
        else s.berth.present } ∧
    (startUpLoaded img src o s).supply = { s.supply with stage := .adoptRead } ∧
    (startUpLoaded img src o s).bus.bare = s.bus.bare ∧
    (startUpLoaded img src o s).report.divider = 0 ∧
    (startUpLoaded img src o s).notice .profileEvent = true ∧
    (s.report.attn = s.anyNotice →
      (startUpLoaded img src o s).report.attn = (startUpLoaded img src o s).anyNotice) := by
  have line := line_profileTaken img src s
  have shape := profileTaken_eq img src s
  have ended : ∃ y : State, (if src = .loaded then endCause .profileFault (profileTaken img src s)
        else profileTaken img src s) = y ∧
      y.lines = (profileTaken img src s).lines ∧ y.queue = s.queue ∧
      y.scan = (profileTaken img src s).scan ∧ y.profile = (profileTaken img src s).profile ∧
      y.berth = { s.berth with
        present := if src = .loaded then s.berth.present &&& ~~~LockdownCause.profileFault.bit
          else s.berth.present } ∧
      y.supply = s.supply ∧ y.bus.bare = s.bus.bare ∧
      y.report = (profileTaken img src s).report := by
    generalize profileTaken img src s = t at *
    have same : t.queue = s.queue ∧ t.berth = s.berth ∧ t.supply = s.supply ∧ t.bus = s.bus := by
      rw [shape]
      exact ⟨rfl, rfl, rfl, rfl⟩
    obtain ⟨queue, berth, supply, bus⟩ := same
    refine ⟨_, rfl, ?_⟩
    split
    · obtain ⟨berth', lines', queue', bus', scan', profile', supply', report', -⟩ :=
        setCauses_fields t.berth.causes (t.berth.present &&& ~~~LockdownCause.profileFault.bit) t
      unfold endCause
      rw [berth', lines', queue', bus', scan', profile', supply', report']
      exact ⟨rfl, queue, rfl, rfl, by rw [berth], supply, by rw [bus], rfl⟩
    · exact ⟨rfl, queue, rfl, rfl, berth, supply, by rw [bus], rfl⟩
  obtain ⟨y, eq, lines, queue, scan, profile, berth, supply, bus, report⟩ := ended
  have whole : startUpLoaded img src o s = setStage .adoptRead (recordOutcome o y) := by
    unfold startUpLoaded
    rw [eq]
  have line' : ∀ m, (recordOutcome o y).line m = (profileTaken img src s).line m := fun m => by
    unfold State.line
    rw [recordOutcome_lines, lines]
  rw [whole]
  generalize profileTaken img src s = t at *
  refine ⟨fun m => (line' m).trans (line m), (recordOutcome_queue o y).trans queue,
    ((recordOutcome_scan o y).trans scan).trans ?_, ?_, (recordOutcome_berth o y).trans berth, ?_,
    (recordOutcome_bare o y).trans bus, ?_, notice_recordOutcome o y, fun attn => ?_⟩
  · rw [shape]
  · change (recordOutcome o y).profile = _
    rw [recordOutcome_profile, profile, shape]
  · change { (recordOutcome o y).supply with stage := .adoptRead } = _
    rw [recordOutcome_supply, supply]
  · change (recordOutcome o y).report.divider = 0
    rw [recordOutcome_divider, report, shape]
  · have before : y.report.attn = y.anyNotice := by
      have notices : y.anyNotice = s.anyNotice := by
        refine anyNotice_congr ?_ fun m => ?_
        · rw [report, shape]
        · have own : y.line m = t.line m := congrArg (fun l : Vector Line 12 => l[m]) lines
          rw [own, line]
          exact (Line.applyProfile_fields img (s.line m) (s.berth.phase == .starting) m).2.2.2.1
      rw [notices, report, shape]
      exact attn
    exact recordOutcome_attn o before

/-- The adoption read leaves all but stage, scan and fetch (R202). -/
theorem adoptFrom_fields (k : Nat) (s : State) : (adoptFrom k s).lines = s.lines ∧ (adoptFrom k s).queue = s.queue ∧
    (adoptFrom k s).profile = s.profile ∧ (adoptFrom k s).berth = s.berth ∧ (adoptFrom k s).report = s.report ∧
    (adoptFrom k s).bus.dport = s.bus.dport ∧ (adoptFrom k s).bus.orderLane = s.bus.orderLane ∧
    (adoptFrom k s).scan.plan = s.scan.plan ∧ (adoptFrom k s).scan.mode = s.scan.mode ∧
    (adoptFrom k s).scan.ref = s.scan.ref ∧ (adoptFrom k s).scan.refCount = s.scan.refCount := by
  unfold adoptFrom
  split <;> exact ⟨rfl, rfl, rfl, rfl, rfl, rfl, rfl, rfl, rfl, rfl, rfl⟩

theorem fittedBit_fallbackImage : ∀ n : LineId, fittedBit fallbackImage n = true := by decide

/-- The end of a start-up load on the fallback profile asks for the order word of line 0 (R195, R202). -/
theorem endStartUpLoad_fallback (o : ProfileOutcome) (s : State) :
    endStartUpLoad fallbackImage .fallback o s =
      askFetch (.orderWord 0) (startUpLoaded fallbackImage .fallback o s) := by
  obtain ⟨line, -⟩ := startUpLoaded_fields fallbackImage .fallback o s
  rw [endStartUpLoad_eq]
  refine adoptFrom_next (Nat.zero_le _) ?_ fun j _ lower => absurd lower (Fin.not_lt_zero j)
  rw [line]
  exact (Line.applyProfile_fields fallbackImage (s.line 0) (s.berth.phase == .starting) 0).1.trans
    (fittedBit_fallbackImage 0)

end Sys2Proof.Machine
end

section
/-! SUPPORT. A load disturbed by a write to the profile window (R190, R195). -/

namespace Sys2Proof.Machine

/-! ### The load taken off -/

/-- The part as a load ends, before the image is judged or turned away (R189, R190). -/
def loadEnded (s : State) : State := askBerth (clearLoad s)

theorem loadEnded_fields (s : State) :
    (loadEnded s).profile = { s.profile with load := .idle, buffer := [], sum := 0 } ∧
    (loadEnded s).lines = s.lines ∧ (loadEnded s).queue = s.queue ∧ (loadEnded s).scan = s.scan ∧
    (loadEnded s).berth = s.berth ∧ (loadEnded s).supply = s.supply ∧ (loadEnded s).report = s.report ∧
    (loadEnded s).bus.bare = s.bus.bare ∧ (loadEnded s).atTick = s.atTick :=
  ⟨askBerth_profile _, lines_askBerth _, askBerth_queue _, askBerth_scan _, askBerth_berth _, askBerth_supply _,
    askBerth_report _, askBerth_bare _, askBerth_atTick _⟩

theorem ticksFor_congr {s t : State} (h : t.atTick = s.atTick) (ms : Nat) : t.ticksFor ms = s.ticksFor ms := by
  unfold State.ticksFor
  rw [h]

theorem abortLoad_idle {s : State} (load : s.profile.load = .idle) : abortLoad s = s := by
  unfold abortLoad
  rw [load]

theorem abortLoad_loading {s : State} {k : Nat} (load : s.profile.load = .loading k) : abortLoad s =
    if s.supply.stage = .profileLoad then
      endStartUpLoad fallbackImage .fallback .disturbed (loadEnded (discardFetch s))
    else recordOutcome .disturbed (loadEnded (discardFetch s)) := by
  have stage : (loadEnded (discardFetch s)).supply.stage = s.supply.stage := by
    rw [(loadEnded_fields _).2.2.2.2.2.1, discardFetch_eq]
  unfold abortLoad
  rw [load]
  dsimp only
  change ite ((loadEnded (discardFetch s)).supply.stage = Stage.profileLoad) _ _ = _
  rw [stage]
  rfl

/-- What a disturbed load leaves, in service and at start-up. -/
structure Disturbed (s u : State) : Prop where
  load : u.profile.load = .idle
  buffer : u.profile.buffer = []
  outcome : u.profile.outcome = .disturbed
  event : u.notice .profileEvent = true
  marked : ∀ f d, s.bus.dport = some (.fetch f d) → u.bus.dport = some (.fetch f true)

/-- A load disturbed in service leaves the profile in force (R190). -/
theorem abortLoad_serving {s : State} {k : Nat} (load : s.profile.load = .loading k)
    (stage : s.supply.stage ≠ .profileLoad) : Disturbed s (abortLoad s) ∧
    (abortLoad s).bus.fetch = none ∧ (abortLoad s).profile.active = s.profile.active ∧
    (abortLoad s).profile.source = s.profile.source ∧ (abortLoad s).lines = s.lines ∧
    (abortLoad s).queue = s.queue ∧ (abortLoad s).scan = s.scan ∧ (abortLoad s).berth = s.berth := by
  obtain ⟨profile, lines, queue, scan, berth, -, -, bus, -⟩ := loadEnded_fields (discardFetch s)
  rw [abortLoad_loading load, if_neg stage]
  generalize loadEnded (discardFetch s) = t at *
  have bus' := (recordOutcome_bare .disturbed t).trans bus
  have profile' : (recordOutcome .disturbed t).profile = { s.profile with
      load := .idle, buffer := [], sum := 0, outcome := .disturbed } := by
    rw [recordOutcome_profile, profile, discardFetch_profile]
  refine ⟨⟨?_, ?_, ?_, notice_recordOutcome _ _, fun f d port => ?_⟩, ?_, ?_, ?_, ?_, ?_, ?_, ?_⟩
  · rw [profile']
  · rw [profile']
  · rw [profile']
  · exact (Bus.bare_dport bus').trans (discardFetch_dport port)
  · rw [Bus.bare_fetch bus', discardFetch_eq]
  · rw [profile']
  · rw [profile']
  · rw [recordOutcome_lines, lines, discardFetch_lines]
  · rw [recordOutcome_queue, queue, discardFetch_queue]
  · rw [recordOutcome_scan, scan, discardFetch_scan]
  · rw [recordOutcome_berth, berth, discardFetch_berth]

/-- The start-up load disturbed ends on the fallback profile (R195). -/
theorem abortLoad_startUp {s : State} {k : Nat} (load : s.profile.load = .loading k)
    (stage : s.supply.stage = .profileLoad) : Disturbed s (abortLoad s) ∧
    (abortLoad s).profile.active = fallbackImage ∧ (abortLoad s).profile.source = .fallback ∧
    (abortLoad s).profile.verify = some (s.ticksFor 1000) ∧ (abortLoad s).supply.stage = .adoptRead ∧
    (abortLoad s).bus.fetch = some (.orderWord 0) ∧ (abortLoad s).scan.pass = .idle ∧
    (abortLoad s).scan.pacing = none ∧
    (s.berth.phase = .starting → ∀ n, ((abortLoad s).line n).fitted = true ∧
      ((abortLoad s).line n).state = .adopting) := by
  obtain ⟨profile, -, -, -, berth, -, -, bus, tick⟩ := loadEnded_fields (discardFetch s)
  rw [abortLoad_loading load, if_pos stage, endStartUpLoad_fallback]
  generalize loadEnded (discardFetch s) = t at *
  have tick' : t.atTick = s.atTick := by rw [tick, discardFetch_eq]
  obtain ⟨line', -, scan', profile', -, supply', bus', -, event', -⟩ :=
    startUpLoaded_fields fallbackImage .fallback .disturbed t
  generalize startUpLoaded fallbackImage .fallback .disturbed t = u at *
  change Disturbed s { u with bus := { u.bus with fetch := some (.orderWord 0) } } ∧ u.profile.active = _ ∧
    u.profile.source = _ ∧ u.profile.verify = _ ∧ u.supply.stage = _ ∧ _ ∧ u.scan.pass = _ ∧
    u.scan.pacing = none ∧ (_ → ∀ n, (u.line n).fitted = true ∧ (u.line n).state = .adopting)
  refine ⟨⟨?_, ?_, congrArg Profile.outcome profile', event', fun f d port => ?_⟩, congrArg Profile.active profile',
    congrArg Profile.source profile',
    (congrArg Profile.verify profile').trans (congrArg some (ticksFor_congr tick' 1000)),
    congrArg Supply.stage supply', rfl, congrArg Scan.pass scan', congrArg Scan.pacing scan', fun starting n => ?_⟩
  · exact (congrArg Profile.load profile').trans (by rw [profile])
  · exact (congrArg Profile.buffer profile').trans (by rw [profile])
  · exact (Bus.bare_dport (bus'.trans bus)).trans (discardFetch_dport port)
  · have phase : (t.berth.phase == Phase.starting) = true := by rw [berth, discardFetch_berth, starting]; rfl
    rw [line' n, phase]
    have fit := fittedBit_fallbackImage n
    refine ⟨(Line.applyProfile_fields fallbackImage (t.line n) true n).1.trans fit, ?_⟩
    exact (Line.applyProfile_starting_state fallbackImage (t.line n) n).trans (if_pos fit)

theorem exec_profileWindowWrite {s : State} (power : s.supply.powered = true) (free : s.uwait = false) (j : Fin 128)
    (w : Word) (be : ByteEnables) : exec (.profileWindowWrite j w be) s = .next (arbitrate
      (passTransfer ⟨true, regionWord s.bus.base (128 + j.val), w, be⟩ none (abortLoad s))) := by
  have run : exec (.profileWindowWrite j w be) s = .next (present _ s) := rfl
  rw [run, present_write power free (by omega), targetOf_profile]
  rfl

/-- Settles O39: the write passes, and a load in flight ends as DISTURBED. -/
theorem profileWindowWrite : Obligations.ProfileWindowWrite := by
  unfold Obligations.ProfileWindowWrite
  refine fun j w be s power free => ⟨fun load => ?_, fun k load => ⟨_, exec_profileWindowWrite power free j w be, ?_⟩⟩
  · rw [exec_profileWindowWrite power free, abortLoad_idle load]
    rfl
  · by_cases stage : s.supply.stage = .profileLoad
    · obtain ⟨⟨idle, buffer, outcome, event, marked⟩, rest⟩ := abortLoad_startUp load stage
      exact ⟨rfl, idle, buffer, outcome, event, marked, fun c => absurd stage c, fun _ => rest⟩
    · obtain ⟨⟨idle, buffer, outcome, event, marked⟩, rest⟩ := abortLoad_serving load stage
      exact ⟨rfl, idle, buffer, outcome, event, marked, fun _ => rest, fun c => absurd c stage⟩

end Sys2Proof.Machine
end

section
/-! SUPPORT. A load that has come to its last word (R191), and the end of the start-up load (R195, R201). -/

namespace Sys2Proof.Machine

/-- The part as the load of `s` ends, the D-port free. -/
def imageRead (s : State) : State := loadEnded (freePort s)

theorem imageRead_fields (s : State) :
    (imageRead s).profile = { s.profile with load := .idle, buffer := [], sum := 0 } ∧
    (imageRead s).lines = s.lines ∧ (imageRead s).queue = s.queue ∧ (imageRead s).scan = s.scan ∧
    (imageRead s).berth = s.berth ∧ (imageRead s).supply = s.supply ∧ (imageRead s).report = s.report ∧
    (imageRead s).bus.orderLane = s.bus.orderLane ∧ (∀ ms, (imageRead s).ticksFor ms = s.ticksFor ms) ∧
    (imageRead s).anyNotice = s.anyNotice := by
  obtain ⟨profile, lines, queue, scan, berth, supply, report, bus, tick⟩ := loadEnded_fields (freePort s)
  refine ⟨profile, lines, queue, scan, berth, supply, report, Bus.bare_orderLane (c := (freePort s).bus) bus, ticksFor_congr tick,
    anyNotice_congr (congrArg Reporting.notices report) fun m => ?_⟩
  exact congrArg (fun l : Vector Line 12 => l[m].notice) lines

theorem line_imageRead (s : State) (m : LineId) : (imageRead s).line m = s.line m :=
  congrArg (fun l : Vector Line 12 => l[m]) (imageRead_fields s).2.1

/-- Judged on the state of the lines, which the end of a load does not touch. -/
theorem mayUnfit_imageRead (s : State) : mayUnfit (imageRead s) = mayUnfit s := by
  funext m
  unfold mayUnfit
  rw [line_imageRead]

/-- The last image word ends the load (R189). -/
theorem exec_lastWord {v : Word} {j : Nat} {s : State} (port : s.bus.dport = some (.fetch (.image j) false))
    (load : s.profile.load = .loading 127) : exec (.fetchComplete v) s =
      .next (arbitrate (endLoad (s.profile.buffer ++ [v]) (s.profile.sum + v) (freePort s))) := by
  have run := exec_fetchComplete (v := v) port
  rw [if_neg (by simp)] at run
  rw [run]
  change Host.Outcome.next (arbitrate (deliverImage v (freePort s))) = _
  unfold deliverImage
  rw [show (freePort s).profile.load = .loading 127 from load]
  dsimp only
  rw [if_neg (by decide)]
  rfl

/-- A valid image at start-up is taken (R195). -/
theorem endLoad_startUp {img : List Word} {sum : Word} {s : State} (stage : s.supply.stage = .profileLoad)
    (valid : firstFailing img sum (mayUnfit s) = none) :
    endLoad img sum (freePort s) = endStartUpLoad img .loaded .activated (imageRead s) := by
  have same : (imageRead s).supply.stage = .profileLoad :=
    (congrArg Supply.stage (imageRead_fields s).2.2.2.2.2.1).trans stage
  unfold endLoad
  rw [show askBerth (clearLoad (freePort s)) = imageRead s from rfl]
  dsimp only
  rw [mayUnfit_imageRead, valid, same]

/-- A failing image at start-up gives way to the fallback profile (R195). -/
theorem endLoad_startUp_fallback {img : List Word} {sum : Word} {i : Nat} {s : State}
    (stage : s.supply.stage = .profileLoad) (fails : firstFailing img sum (mayUnfit s) = some i) :
    endLoad img sum (freePort s) = endStartUpLoad fallbackImage .fallback (.rejected i) (imageRead s) := by
  have same : (imageRead s).supply.stage = .profileLoad :=
    (congrArg Supply.stage (imageRead_fields s).2.2.2.2.2.1).trans stage
  unfold endLoad
  rw [show askBerth (clearLoad (freePort s)) = imageRead s from rfl]
  dsimp only
  rw [mayUnfit_imageRead, fails, same]

/-- What the end of the start-up load leaves, with the image in force, its source and the outcome given. -/
structure StartUpEnded (img : List Word) (src : ProfileSource) (o : ProfileOutcome) (s u : State) : Prop where
  profile : u.profile = ⟨img, src, .idle, [], 0, some (s.ticksFor 1000), o⟩
  event : u.notice .profileEvent = true
  divider : u.report.divider = 0
  attn : s.report.attn = s.anyNotice → u.report.attn = u.anyNotice
  berth : u.berth = { s.berth with
    present := if src = .loaded then s.berth.present &&& ~~~LockdownCause.profileFault.bit else s.berth.present }
  line : ∀ n, (u.line n) = ((s.line n).applyProfile img (s.berth.phase == .starting) n).cleared
  plan : u.scan.plan = planOf img ∧ u.scan.mode = scanMode img
  ref : u.scan.ref = s.scan.ref ∧ u.scan.refCount = s.scan.refCount
  lane : u.bus.orderLane = s.bus.orderLane
  queue : u.queue = s.queue
  reads : ∀ n, fittedBit img n = true → (∀ k, k < n → fittedBit img k = false) →
    u.supply = { s.supply with stage := .adoptRead } ∧ u.bus.fetch = some (.orderWord n) ∧
    u.scan.pass = .idle ∧ u.scan.pacing = none
  passes : (∀ n, fittedBit img n = false) →
    u.supply = { s.supply with stage := .firstPass } ∧ u.scan.pass = .running 0

theorem startUpEnded (img : List Word) (src : ProfileSource) (o : ProfileOutcome) (s : State) :
    StartUpEnded img src o s (endStartUpLoad img src o (imageRead s)) := by
  obtain ⟨profile, -, queue, scan, berth, supply, report, lane, ticks, notices⟩ := imageRead_fields s
  obtain ⟨line', queue', scan', profile', berth', supply', bus', divider', event', attn'⟩ :=
    startUpLoaded_fields img src o (imageRead s)
  rw [endStartUpLoad_eq]
  have line : ∀ n, (startUpLoaded img src o (imageRead s)).line n =
      ((s.line n).applyProfile img (s.berth.phase == .starting) n).cleared := fun n => by
    rw [line' n, line_imageRead, berth]
  have fitted : ∀ n, ((startUpLoaded img src o (imageRead s)).line n).fitted = fittedBit img n := fun n => by
    rw [line n]
    exact (Line.applyProfile_fields img (s.line n) _ n).1
  rw [report, notices] at attn'
  generalize startUpLoaded img src o (imageRead s) = t at *
  obtain ⟨lines, queue'', profile'', berth'', report'', -, lane'', plan'', mode'', ref'', count''⟩ :=
    adoptFrom_fields 0 t
  have line'' : ∀ n, (adoptFrom 0 t).line n = t.line n := fun n =>
    congrArg (fun l : Vector Line 12 => l[n]) lines
  refine ⟨?_, ?_, ?_, fun attn => ?_, ?_, fun n => (line'' n).trans (line n), ⟨?_, ?_⟩, ⟨?_, ?_⟩, ?_, ?_,
    fun n own below => ?_, fun unfit => ?_⟩
  · rw [profile'', profile', profile, ticks]
  · rw [← event']
    unfold State.notice
    rw [report'']
  · rw [report'', divider']
  · have same : (adoptFrom 0 t).anyNotice = t.anyNotice :=
      anyNotice_congr (congrArg Reporting.notices report'') fun m => by rw [line'']
    rw [report'', same, attn' attn]
  · rw [berth'', berth', berth]
  · rw [plan'', scan']
  · rw [mode'', scan']
  · rw [ref'', scan', scan]
  · rw [count'', scan', scan]
  · rw [lane'', Bus.bare_orderLane bus', lane]
  · rw [queue'', queue', queue]
  · rw [adoptFrom_next (Nat.zero_le _) ((fitted n).trans own) fun k _ lower => (fitted k).trans (below k lower)]
    exact ⟨supply'.trans (by rw [supply]), rfl, congrArg Scan.pass scan', congrArg Scan.pacing scan'⟩
  · rw [adoptFrom_last fun m _ => (fitted m).trans (unfit m)]
    refine ⟨?_, rfl⟩
    change { t.supply with stage := .firstPass } = _
    rw [supply', supply]

/-- Settles O11: the start-up load ends on the image where it is valid, and on the fallback profile. -/
theorem startUpLoadEnds : Obligations.StartUpLoadEnds := by
  unfold Obligations.StartUpLoadEnds
  intro v j s port load stage starting read verdict img src outcome
  have ended : StartUpEnded img src outcome s (endLoad read (s.profile.sum + v) (freePort s)) := by
    cases found : firstFailing read (s.profile.sum + v) (mayUnfit s) with
    | none =>
      rw [endLoad_startUp stage found]
      simpa only [img, src, outcome, verdict, found, if_true] using startUpEnded read .loaded .activated s
    | some i =>
      rw [endLoad_startUp_fallback stage found]
      simpa only [img, src, outcome, verdict, found, reduceCtorEq, if_false] using
        startUpEnded fallbackImage .fallback (.rejected i) s
  have loaded : src = .loaded ↔ verdict = none := by
    dsimp only [src]
    split <;> simp_all
  obtain ⟨profile, event, divider, attn, berth, line, ⟨plan, mode⟩, ⟨ref, count⟩, lane, queue, reads, passes⟩ := ended
  refine ⟨_, exec_lastWord port load, profile, event, divider, attn, ?_, ?_, ?_, fun n => ?_, plan, mode, ref, count,
    lane, queue, reads, passes⟩
  · rw [berth]
    exact starting
  · rw [berth]
  · rw [berth]
    exact if_congr loaded rfl rfl
  · obtain ⟨fitted, rank, required, -⟩ := Line.applyProfile_fields img (s.line n) true n
    have state := Line.applyProfile_starting_state img (s.line n) n
    have starts : (s.berth.phase == Phase.starting) = true := by rw [starting]; rfl
    rw [line n, starts]
    exact ⟨fitted, rank, required, state, rfl, rfl, rfl, rfl, rfl⟩

end Sys2Proof.Machine
end

section
/-! SUPPORT. A load that ends in service: rejected, turned away or activated (R191, R192). -/

namespace Sys2Proof.Machine

variable {n : LineId}

/-! ### The records of the lines whose fitted flag changed (R192 step 6) -/

theorem AskedMore.askChanged (old s : State) : AskedMore s (askChanged old s) :=
  eachLine_keeps (P := AskedMore s) (fun n t h => by
    split
    · exact h
    · exact h.trans (.askLine n t)) (.refl s)

theorem askChanged_scan (old s : State) : (askChanged old s).scan = s.scan :=
  eachLine_keeps (P := fun t => t.scan = s.scan) (fun n t h => by
    split
    · exact h
    · exact (askLine_scan n t).trans h) rfl

theorem askChanged_report (old s : State) : (askChanged old s).report = s.report :=
  eachLine_keeps (P := fun t => t.report = s.report) (fun n t h => by
    split
    · exact h
    · exact (askLine_report n t).trans h) rfl

/-- The record of a line whose fitted flag changed is asked for. -/
theorem mem_askChanged {old s : State} (speaks : s.berth.phase.silent = false)
    (changed : (old.line n).fitted ≠ (s.line n).fitted) : n.castSucc ∈ (askChanged old s).bus.reportLane := by
  unfold askChanged
  refine eachLine_reaches
    (f := fun m t => if (old.line m).fitted = (t.line m).fitted then t else askLine m t) (I := AskedMore s)
    (P := fun t => n.castSucc ∈ t.bus.reportLane) n (.refl s) (fun m t h => ?_) (fun t h => ?_) (fun m t h => ?_)
  · split
    · exact h
    · exact h.trans (.askLine m t)
  · have differs : (old.line n).fitted ≠ (t.line n).fitted := by
      rw [h.line]
      exact changed
    rw [if_neg differs]
    exact mem_askLine (by rw [h.berth]; exact speaks)
  · split
    · exact h
    · exact askRecord_mem h

/-! ### A line at a change of profile in service (R2) -/

/-- A line whose fitted flag stays keeps its state and its timers. -/
theorem Line.applyProfile_same {img : List Word} {l : Line} {m : LineId} (same : fittedBit img m = l.fitted) :
    l.applyProfile img false m = l.copyFlags img m := by
  rw [Line.applyProfile_serving, if_pos same]

/-- A line whose fitted flag changes is ADOPTING or PARKED, with every drum timer stopped. -/
theorem Line.applyProfile_changed {img : List Word} {l : Line} {m : LineId} (changed : fittedBit img m ≠ l.fitted) :
    (l.applyProfile img false m).state = (if fittedBit img m then .adopting else .parked) ∧
    (l.applyProfile img false m).Rests ∧ (l.applyProfile img false m).brakeSettle = none := by
  rw [Line.applyProfile_serving, if_neg changed]
  split <;> exact ⟨rfl, ⟨rfl, rfl, rfl, rfl⟩, rfl⟩

/-! ### The profile put in force in service (R192) -/

/-- The part with a profile in force, before the scan restarts (R192 steps 1 and 2). -/
def profileApplied (img : List Word) (src : ProfileSource) (s : State) : State := applyProfile (setActive img src s)

theorem profileApplied_eq (img : List Word) (src : ProfileSource) (s : State) : profileApplied img src s = { s with
    lines := (profileApplied img src s).lines
    profile := { s.profile with active := img, source := src, verify := some (s.ticksFor 1000) } } :=
  applyProfile_eq (setActive img src s)

theorem line_profileApplied (img : List Word) (src : ProfileSource) (s : State) (m : LineId) :
    (profileApplied img src s).line m = (s.line m).applyProfile img (s.berth.phase == .starting) m :=
  line_applyProfile (setActive img src s) m

/-- The part after an activation, before the records of the changed lines are asked for. -/
def activated (img : List Word) (s : State) : State :=
  recordOutcome .activated (endCause .profileFault (setDivider 0 (restartScan (profileApplied img .loaded s))))

theorem activate_eq (img : List Word) (s : State) : activate img s = askChanged s (activated img s) := rfl

theorem endCause_fields (c : LockdownCause) (s : State) :
    (endCause c s).berth = { s.berth with present := s.berth.present &&& ~~~c.bit } ∧
    (endCause c s).lines = s.lines ∧ (endCause c s).scan = s.scan ∧ (endCause c s).profile = s.profile ∧
    (endCause c s).report = s.report ∧ (endCause c s).bus.orderLane = s.bus.orderLane := by
  obtain ⟨berth, lines, -, bus, scan, profile, -, report, -⟩ :=
    setCauses_fields s.berth.causes (s.berth.present &&& ~~~c.bit) s
  exact ⟨berth, lines, scan, profile, report, Bus.bare_orderLane bus⟩

/-- What an activation leaves, its records not yet asked for (R192). -/
theorem activated_fields (img : List Word) (s : State) :
    (activated img s).lines = (restartScan (profileApplied img .loaded s)).lines ∧
    (activated img s).scan = (restartScan (profileApplied img .loaded s)).scan ∧
    (activated img s).profile = { s.profile with
      active := img, source := .loaded, verify := some (s.ticksFor 1000), outcome := .activated } ∧
    (activated img s).berth = { s.berth with
      present := s.berth.present &&& ~~~LockdownCause.profileFault.bit } ∧
    (activated img s).report.divider = 0 ∧ (activated img s).notice .profileEvent = true ∧
    (activated img s).bus.orderLane = s.bus.orderLane := by
  have restart := restarted_restartScan (profileApplied img .loaded s)
  have applied := profileApplied_eq img .loaded s
  unfold activated
  generalize restartScan (profileApplied img .loaded s) = r at *
  generalize profileApplied img .loaded s = a at *
  have profile : r.profile = a.profile := restart.profile
  have berth : r.berth = a.berth := restart.berth
  have bus : r.bus = a.bus := restart.bus
  obtain ⟨berth', lines', scan', profile', report', lane'⟩ := endCause_fields .profileFault (setDivider 0 r)
  generalize endCause .profileFault (setDivider 0 r) = y at *
  refine ⟨(recordOutcome_lines _ y).trans lines', (recordOutcome_scan _ y).trans scan', ?_,
    ((recordOutcome_berth _ y).trans berth').trans ?_, ?_, notice_recordOutcome _ y,
    (Bus.bare_orderLane (recordOutcome_bare _ y)).trans (lane'.trans ?_)⟩
  · rw [recordOutcome_profile, profile', show (setDivider 0 r).profile = a.profile from profile, applied]
  · rw [show (setDivider 0 r).berth = a.berth from berth, applied]
  · rw [recordOutcome_divider, report']
    rfl
  · rw [show (setDivider 0 r).bus = a.bus from bus, applied]

/-- The lines whose probe an activation runs are those of the new profile that wait or were cut off (R101). -/
theorem waits_profileApplied (img : List Word) (src : ProfileSource) (s : State) (m : LineId) :
    (profileApplied img src s).Waits m ↔
      fittedBit img m = true ∧ ((s.line m).probeWaiting = true ∨ ∃ r, s.scan.pass = .probing m r) := by
  have image : (profileApplied img src s).image = img := by
    rw [profileApplied_eq]
    rfl
  have scan : (profileApplied img src s).scan = s.scan := by rw [profileApplied_eq]
  have asks := (Line.applyProfile_fields img (s.line m) (s.berth.phase == .starting) m).2.2.2.2.2
  unfold State.Waits
  rw [image, scan, line_profileApplied, asks]

/-! ### The end of a load in service (R191) -/

/-- A failing image is rejected at its first failing word. -/
theorem endLoad_rejected {img : List Word} {sum : Word} {i : Nat} {s : State}
    (stage : s.supply.stage ≠ .profileLoad) (fails : firstFailing img sum (mayUnfit s) = some i) :
    endLoad img sum (freePort s) = recordOutcome (.rejected i) (imageRead s) := by
  have same : (imageRead s).supply.stage = s.supply.stage := congrArg Supply.stage (imageRead_fields s).2.2.2.2.2.1
  unfold endLoad
  rw [show askBerth (clearLoad (freePort s)) = imageRead s from rfl]
  dsimp only
  rw [mayUnfit_imageRead, fails, same]
  split
  case h_3 found _ => rw [Option.some.inj found]
  all_goals contradiction

/-- A valid image is activated where the berth is quiet, and turned away elsewhere. -/
theorem endLoad_valid {img : List Word} {sum : Word} {s : State} (stage : s.supply.stage ≠ .profileLoad)
    (valid : firstFailing img sum (mayUnfit s) = none) : endLoad img sum (freePort s) =
      if quiet s then activate img (imageRead s) else recordOutcome .berthBusy (imageRead s) := by
  obtain ⟨-, -, queue, -, berth, supply, -⟩ := imageRead_fields s
  have same : (imageRead s).supply.stage = s.supply.stage := congrArg Supply.stage supply
  have still : quiet (imageRead s) = quiet s := by
    unfold quiet
    rw [berth, queue]
    simp only [line_imageRead]
  unfold endLoad
  rw [show askBerth (clearLoad (freePort s)) = imageRead s from rfl]
  dsimp only
  rw [mayUnfit_imageRead, valid, same, still]
  split
  case h_4 => rfl
  all_goals contradiction

end Sys2Proof.Machine
end

section
/-! SUPPORT. O45, over the ends of a load in service. -/

namespace Sys2Proof.Machine

/-- A load turned away in service: the outcome is recorded, and the profile in force stays. -/
structure TurnedAway (o : ProfileOutcome) (s u : State) : Prop where
  outcome : u.profile.outcome = o
  active : u.profile.active = s.profile.active
  source : u.profile.source = s.profile.source
  lines : u.lines = s.lines
  scan : u.scan = s.scan
  berth : u.berth = s.berth

theorem turnedAway (o : ProfileOutcome) (s : State) : TurnedAway o s (recordOutcome o (imageRead s)) ∧
    (recordOutcome o (imageRead s)).profile.load = .idle ∧ (recordOutcome o (imageRead s)).profile.buffer = [] := by
  obtain ⟨profile, lines, -, scan, berth, -⟩ := imageRead_fields s
  generalize imageRead s = t at *
  have whole : (recordOutcome o t).profile = { s.profile with load := .idle, buffer := [], sum := 0, outcome := o } := by
    rw [recordOutcome_profile, profile]
  exact ⟨⟨congrArg Profile.outcome whole, by rw [whole], by rw [whole],
    (recordOutcome_lines o t).trans lines, (recordOutcome_scan o t).trans scan,
    (recordOutcome_berth o t).trans berth⟩, congrArg Profile.load whole, congrArg Profile.buffer whole⟩

/-- A line whose probe runs first under the profile `img`: fitted there, waiting or cut off (R101). -/
def State.WaitsUnder (img : List Word) (s : State) (m : LineId) : Prop :=
  fittedBit img m = true ∧ ((s.line m).probeWaiting = true ∨ ∃ r, s.scan.pass = .probing m r)

/-- An activation out of STARTING: the profile, the lines, the scan and the berth as O45 states them. -/
structure Activated (img : List Word) (s u : State) : Prop where
  profile : u.profile = { s.profile with
    active := img, source := .loaded, load := .idle, buffer := [], sum := 0, verify := some (s.ticksFor 1000)
    outcome := .activated }
  event : u.notice .profileEvent = true
  line : ∀ n, ∃ w, u.line n = { ((s.line n).applyProfile img false n).cleared with probeWaiting := w }
  asked : ∀ n, fittedBit img n ≠ (s.line n).fitted → n.castSucc ∈ u.bus.reportLane
  scan : ∃ p, u.scan = s.scan.restarted img s.ticksFor p
  probes : ∀ m, s.WaitsUnder img m → (∀ k, k < m → ¬ s.WaitsUnder img k) →
    u.scan.pass = .probing m (some 0) ∧ (u.line m).probeWaiting = false
  runs : (∀ m, ¬ s.WaitsUnder img m) → u.scan.pass = .running 0
  divider : u.report.divider = 0
  berth : u.berth = { s.berth with present := s.berth.present &&& ~~~LockdownCause.profileFault.bit }
  lane : u.bus.orderLane = s.bus.orderLane

theorem activated_activate (img : List Word) {s : State} (speaks : s.berth.phase.silent = false) :
    Activated img s (activate img (imageRead s)) := by
  obtain ⟨profile, -, -, scan, berth, -, -, lane, ticks, -⟩ := imageRead_fields s
  have lines := line_imageRead s
  rw [activate_eq]
  generalize imageRead s = t at *
  have starting : (t.berth.phase == Phase.starting) = false := by
    rw [berth]
    exact beq_eq_false_iff_ne.mpr (Phase.not_starting speaks)
  have image : (profileApplied img .loaded t).image = img := by
    rw [profileApplied_eq]
    rfl
  have scanKept : (profileApplied img .loaded t).scan = s.scan := by
    rw [profileApplied_eq]
    exact scan
  have ticks' : (profileApplied img .loaded t).ticksFor = s.ticksFor := by
    funext ms
    exact (ticksFor_congr (by rw [profileApplied_eq]) ms).trans (ticks ms)
  have applied : ∀ n, (profileApplied img .loaded t).line n = (s.line n).applyProfile img false n := fun n => by
    rw [line_profileApplied, starting, lines]
  have holds : ∀ m, (profileApplied img .loaded t).Waits m ↔ s.WaitsUnder img m := fun m => by
    rw [waits_profileApplied, lines, scan]
    exact Iff.rfl
  obtain ⟨lines₁, scan₁, profile₁, berth₁, divider₁, event₁, lane₁⟩ := activated_fields img t
  have more := AskedMore.askChanged t (activated img t)
  have scan₂ := (askChanged_scan t (activated img t)).trans scan₁
  have report₂ := askChanged_report t (activated img t)
  have line₂ : ∀ n, (askChanged t (activated img t)).line n = (restartScan (profileApplied img .loaded t)).line n :=
    fun n => (more.line n).trans (congrArg (fun l : Vector Line 12 => l[n]) lines₁)
  have restart := restarted_restartScan (profileApplied img .loaded t)
  have line : ∀ n, ∃ w, (askChanged t (activated img t)).line n =
      { ((s.line n).applyProfile img false n).cleared with probeWaiting := w } := fun n => by
    obtain ⟨w, eq⟩ := restart.line n
    exact ⟨w, by rw [line₂, eq, applied]⟩
  refine ⟨more.profile.trans (profile₁.trans ?_), (more.notice _).trans event₁, line, fun n changed => ?_, ?_,
    fun m waits lowest => ?_, fun idle => ?_, ?_, more.berth.trans (berth₁.trans ?_),
    more.lane.trans (lane₁.trans lane)⟩
  · rw [profile, ticks]
  · refine mem_askChanged ?_ ?_
    · rw [berth₁, berth]
      exact speaks
    · obtain ⟨w, eq⟩ := line n
      rw [← more.line, eq, lines]
      exact fun same => changed ((Line.applyProfile_fields img (s.line n) false n).1.symm.trans same.symm)
  · obtain ⟨p, eq⟩ := restart.scan
    exact ⟨p, by rw [scan₂, eq, image, scanKept, ticks']⟩
  · obtain ⟨shape, probes⟩ := restartScan_probes ((holds m).mpr waits) fun k lower c =>
      lowest k lower ((holds k).mp c)
    obtain ⟨w, eq, off⟩ := probes m
    refine ⟨by rw [scan₂, shape]; rfl, ?_⟩
    rw [line₂, eq, ← Bool.not_eq_true]
    exact fun on => (off.mp on).1 rfl
  · rw [scan₂, (restartScan_runs fun m c => idle m ((holds m).mp c)).1]
    rfl
  · rw [report₂, divider₁]
  · rw [berth]

/-- Settles O45: a load ends rejected, turned away, or in an activation. -/
theorem loadEnds : Obligations.LoadEnds := by
  unfold Obligations.LoadEnds
  intro v j s port load stage img verdict waits
  refine ⟨_, exec_lastWord port load, ?_⟩
  cases found : firstFailing img (s.profile.sum + v) (mayUnfit s) with
  | some i =>
    obtain ⟨⟨outcome, active, source, lines, scan, berth⟩, idle, buffer⟩ := turnedAway (.rejected i) s
    rw [endLoad_rejected stage found]
    refine ⟨idle, buffer, notice_recordOutcome _ _, fun k first => ?_, fun valid => ?_, fun valid => ?_⟩
    · rw [Option.some.inj (found.symm.trans first)] at *
      exact ⟨outcome, active, source, lines, scan, berth⟩
    · cases found.symm.trans valid
    · cases found.symm.trans valid
  | none =>
    rw [endLoad_valid stage found]
    cases still : quiet s with
    | false =>
      obtain ⟨⟨outcome, active, source, lines, scan, berth⟩, idle, buffer⟩ := turnedAway .berthBusy s
      rw [if_neg (by simp)]
      refine ⟨idle, buffer, notice_recordOutcome _ _, fun k first => ?_, fun _ _ => ?_, fun _ c => nomatch c⟩
      · cases found.symm.trans first
      · exact ⟨outcome, active, source, lines, scan, berth⟩
    | true =>
      obtain ⟨phase, -⟩ := (quiet_iff s).mp still
      have speaks : s.berth.phase.silent = false := by
        rcases phase with phase | phase <;> rw [phase] <;> rfl
      obtain ⟨profile, event, line, asked, ⟨p, scan⟩, probes, runs, divider, berth, lane⟩ :=
        activated_activate img speaks
      rw [if_pos rfl]
      refine ⟨congrArg Profile.load profile, congrArg Profile.buffer profile, event, fun k first => ?_,
        fun _ c => (nomatch c), fun _ _ => ⟨congrArg Profile.outcome profile, congrArg Profile.active profile,
        congrArg Profile.source profile, congrArg Profile.verify profile, fun n => ?_, fun n same => ?_,
        fun n changed => ?_, probes, runs, congrArg Scan.plan scan, congrArg Scan.mode scan,
        divider, congrArg Scan.pacing scan, by rw [scan]; rfl, by rw [scan]; rfl,
        by rw [scan]; rfl, berth, lane⟩⟩
      · cases found.symm.trans first
      · obtain ⟨w, eq⟩ := line n
        obtain ⟨fitted, rank, required, -⟩ := Line.applyProfile_fields img (s.line n) false n
        rw [eq]
        exact ⟨fitted, rank, required, rfl, rfl, rfl⟩
      · obtain ⟨w, eq⟩ := line n
        rw [eq, Line.applyProfile_same same]
        exact ⟨rfl, rfl, rfl⟩
      · obtain ⟨w, eq⟩ := line n
        obtain ⟨state, rests, settle⟩ := Line.applyProfile_changed changed
        have mem := asked n changed
        rw [eq]
        exact ⟨state, rests, settle, mem⟩

end Sys2Proof.Machine
end

section
/-! SUPPORT. DERIVE: every fitted line derived in ascending order (R204, R205). -/

namespace Sys2Proof.Machine

variable {n : LineId}

/-! ### STARTING asks for no record and hands on nothing (R155) -/

theorem askLine_starting {s : State} (starting : s.berth.phase = .starting) (n : LineId) : askLine n s = s :=
  if_pos (.inl starting)

theorem settle_starting {s : State} (starting : s.berth.phase = .starting) (queue : s.queue = []) (n : LineId) :
    settle n s = s := by
  unfold settle autoVacant
  rw [reevaluate_of_empty queue, askLine_starting starting, if_neg]
  rintro ⟨departs, -⟩
  cases starting.symm.trans departs

/-! ### One line -/

/-- A pair for a line with none in the lane joins at the end (R152). -/
theorem placeIn_new {e : LaneEntry} {lane : List LaneEntry} (new : ∀ x ∈ lane, x.line ≠ e.line) :
    placeIn e lane = lane ++ [e] := by
  unfold placeIn
  rw [if_neg]
  simpa using new

/-- The order lane after a derivation, where the line has no pair in it (R204 step 1). -/
theorem deriveLine_lane {s : State} (new : ∀ x ∈ s.bus.orderLane, x.line ≠ n) :
    (deriveLine n s).bus.orderLane =
      s.bus.orderLane ++ if (s.line n).brakeSet then [] else [makePair n .lock 0 0] := by
  rw [deriveLine_bus]
  unfold derivationLock
  split
  · rw [List.append_nil]
  · rw [Bus.bare_orderLane (partOrder_bare .lock .derivation s)]
    exact placeIn_new new

/-- The turn of one line in DERIVE. -/
def deriveFitted (s : State) (n : LineId) : State :=
  if (s.line n).fitted then settle n (deriveLine n s) else s

theorem deriveAll_eq (s : State) : deriveAll s = allLines.foldl deriveFitted s := rfl

/-- The lines whose brake DERIVE locks. -/
def locksBrake (s : State) (m : LineId) : Bool := (s.line m).fitted && !(s.line m).brakeSet

/-- What DERIVE leaves of `s` once it has met the lines of `l`. -/
structure DerivedLines (l : List LineId) (s t : State) : Prop where
  line : ∀ m, t.line m =
    if m ∈ l ∧ (s.line m).fitted = true then Line.derived s.image s.ticksFor (s.line m) else s.line m
  queue : t.queue = s.queue
  scan : t.scan = s.scan
  berth : t.berth = s.berth
  profile : t.profile = s.profile
  report : t.report = s.report
  supply : t.supply = s.supply
  atTick : t.atTick = s.atTick
  lane : (∀ x ∈ s.bus.orderLane, x.line ∉ l) → t.bus.orderLane =
    s.bus.orderLane ++ (l.filter (locksBrake s)).map fun m => makePair m .lock 0 0

theorem DerivedLines.nil (s : State) : DerivedLines [] s s :=
  ⟨fun m => by simp, rfl, rfl, rfl, rfl, rfl, rfl, rfl, fun _ => (List.append_nil _).symm⟩

theorem DerivedLines.step (n : LineId) {s : State} (starting : s.berth.phase = .starting) (queue : s.queue = []) :
    DerivedLines [n] s (deriveFitted s n) := by
  by_cases fitted : (s.line n).fitted = true
  · obtain ⟨queue', scan, berth, profile, report, supply, tick⟩ := deriveLine_fields n s
    have turn : deriveFitted s n = deriveLine n s := by
      unfold deriveFitted
      rw [if_pos fitted, settle_starting (by rw [berth]; exact starting) (queue'.trans queue)]
    rw [turn]
    refine ⟨fun m => ?_, queue', scan, berth, profile, report, supply, tick, fun new => ?_⟩
    · by_cases own : m = n
      · subst own
        rw [if_pos ⟨List.mem_singleton_self m, fitted⟩]
        exact line_deriveLine s
      · rw [if_neg fun c => own (List.mem_singleton.mp c.1)]
        exact (Kept.deriveLine own s).line
    · rw [deriveLine_lane fun x hx own => new x hx (List.mem_singleton.mpr own)]
      cases set : (s.line n).brakeSet <;> simp [locksBrake, fitted, set]
  · have turn : deriveFitted s n = s := if_neg fitted
    rw [turn]
    refine ⟨fun m => ?_, rfl, rfl, rfl, rfl, rfl, rfl, rfl, fun _ => ?_⟩
    · rw [if_neg]
      rintro ⟨own, fits⟩
      rw [List.mem_singleton.mp own] at fits
      exact fitted fits
    · simp [locksBrake, fitted]

/-- A lane that meets the lines of `n :: l` in order: the lane of `n`, then of `l`. -/
theorem DerivedLines.cons {n : LineId} {l : List LineId} {s t u : State} (new : n ∉ l)
    (h : DerivedLines [n] s t) (k : DerivedLines l t u) : DerivedLines (n :: l) s u := by
  have image : t.image = s.image := congrArg Profile.active h.profile
  have ticks : t.ticksFor = s.ticksFor := funext (ticksFor_congr h.atTick)
  have line : ∀ m ∈ l, t.line m = s.line m := fun m later => by
    rw [h.line m, if_neg]
    rintro ⟨own, -⟩
    exact new (List.mem_singleton.mp own ▸ later)
  refine ⟨fun m => ?_, k.queue.trans h.queue, k.scan.trans h.scan, k.berth.trans h.berth, k.profile.trans h.profile,
    k.report.trans h.report, k.supply.trans h.supply, k.atTick.trans h.atTick, fun fresh => ?_⟩
  · rw [k.line m, image, ticks]
    by_cases later : m ∈ l
    · rw [line m later]
      simp [later]
    · rw [if_neg fun c => later c.1, h.line m]
      simp [later]
  · have first := h.lane fun x hx own => fresh x hx (List.mem_cons.mpr (.inl (List.mem_singleton.mp own)))
    have rest := k.lane fun x hx later => by
      rw [first, List.mem_append] at hx
      rcases hx with old | own
      · exact fresh x old (List.mem_cons_of_mem n later)
      · obtain ⟨m, locked, rfl⟩ := List.mem_map.mp own
        exact new (List.mem_singleton.mp (List.mem_filter.mp locked).1 ▸ later)
    have same : l.filter (locksBrake t) = l.filter (locksBrake s) :=
      List.filter_congr fun m later => by
        unfold locksBrake
        rw [line m later]
    rw [rest, first, same, List.append_assoc, ← List.map_append, ← List.filter_append]
    rfl

theorem DerivedLines.walk {l : List LineId} (distinct : l.Nodup) {s : State} (starting : s.berth.phase = .starting)
    (queue : s.queue = []) : DerivedLines l s (l.foldl deriveFitted s) := by
  induction l generalizing s with
  | nil => exact .nil s
  | cons n l ih =>
    obtain ⟨new, distinct'⟩ := List.nodup_cons.mp distinct
    have first := DerivedLines.step n starting queue
    exact .cons new first (ih distinct' (by rw [first.berth]; exact starting) (first.queue.trans queue))

/-- DERIVE meets every line (R205). -/
theorem derivedLines_deriveAll {s : State} (starting : s.berth.phase = .starting) (queue : s.queue = []) :
    DerivedLines allLines s (deriveAll s) := by
  rw [deriveAll_eq]
  exact .walk (by decide) starting queue

/-! ### Lockdown entry of a part at rest (R132) -/

/-- The part with the phase alone turned to LOCKDOWN, as the entry actions find it. -/
def State.inLockdown (s : State) : State := { s with berth := { s.berth with phase := .lockdown } }

theorem flush_of_empty {s : State} (queue : s.queue = []) : flush s = s := if_pos queue

/-- With no entry held and no fitted line in motion, lockdown entry empties the latches and withdraws host pairs. -/
theorem enterLockdown_atRest {c : LockdownCause} {s : State} (queue : s.queue = [])
    (rest : ∀ m, (s.line m).fitted = true → (s.line m).state.inMotion = false) :
    (∀ m, (enterLockdown c s).line m = { s.line m with latch := none }) ∧
    (enterLockdown c s).bus.orderLane = s.bus.orderLane.filter LaneEntry.stays ∧
    (enterLockdown c s).notice .lockdownEntered = true := by
  have still : eachLine (lockdownLock c) (flush s.inLockdown) =
      s.inLockdown := by
    rw [flush_of_empty (s := s.inLockdown) queue]
    refine eachLine_keeps (P := fun t => t = s.inLockdown)
      (fun n t same => ?_) rfl
    subst same
    refine if_neg ?_
    rintro ⟨fitted, moves⟩
    cases (rest n fitted).symm.trans moves
  have line := fun m => line_eachLine_modLine (fun _ l => { l with latch := none }) m
    (withdrawPairs s.inLockdown)
  have bus := eachLine_modLine_bus (fun _ l => { l with latch := none })
    (withdrawPairs s.inLockdown)
  unfold enterLockdown changePhase entryActions emptyLatches
  rw [show ({ s with berth := { s.berth with phase := .lockdown } } : State) = s.inLockdown from rfl, still]
  generalize eachLine _ (withdrawPairs s.inLockdown) = w at *
  refine ⟨fun m => ?_, ?_, ?_⟩
  · rw [line_askBerth]
    unfold silenceAt
    exact (line_setBerthNotice m .lockdownEntered w).trans (line m)
  · rw [Bus.bare_orderLane (askBerth_bare _), silenceAt_bus, setBerthNotice_orderLane, bus]
    rfl
  · rw [notice_askBerth]
    exact notice_setBerthNotice _ _

end Sys2Proof.Machine
end

section
/-! SUPPORT. DONE: the berth leaves STARTING, every record asked for (R136, R207). -/

namespace Sys2Proof.Machine

variable {n : LineId}

/-! ### The berth leaves STARTING (R136) -/

/-- What leaving STARTING makes of `d`, all its lines derived. -/
structure LeftStarting (d v : State) : Prop where
  line : ∀ m, ∃ x, v.line m = { d.line m with latch := x } ∧ (v.berth.phase = .lockdown → x = none)
  scan : v.scan = d.scan
  profile : v.profile = d.profile
  supply : v.supply = d.supply
  present : v.berth.present = d.berth.present
  vacant : d.berth.causes = 0 → d.allParked = true → v.berth.phase = .vacant
  locks : d.berth.causes ≠ 0 ∨ d.allParked = false →
    v.berth.phase = .lockdown ∧ v.notice .lockdownEntered = true
  added : d.allParked = false → v.berth.causes = d.berth.causes ||| LockdownCause.adoption.bit
  kept : d.allParked = true → v.berth.causes = d.berth.causes
  lane : (∀ e ∈ d.bus.orderLane, e.stays = true) → v.bus.orderLane = d.bus.orderLane

/-- A berth that leaves STARTING is VACANT or in LOCKDOWN. -/
theorem LeftStarting.phase {d v : State} (h : LeftStarting d v) :
    v.berth.phase = .vacant ∨ v.berth.phase = .lockdown := by
  by_cases causes : d.berth.causes = 0
  · cases parked : d.allParked with
    | true => exact .inl (h.vacant causes parked)
    | false => exact .inr (h.locks (.inr parked)).1
  · exact .inr (h.locks (.inl causes)).1

/-- With no cause and every line stowed the berth is VACANT. -/
theorem leftStarting_vacant {d : State} (causes : d.berth.causes = 0) (parked : d.allParked = true) :
    LeftStarting d (leaveStarting d) := by
  obtain ⟨lines, -, bus, scan, profile, supply, -⟩ := changePhase_fields .vacant d
  have berth := changePhase_berth .vacant d
  have vacates : leaveStarting d = changePhase .vacant id d := if_pos ⟨causes, parked⟩
  rw [vacates]
  generalize changePhase .vacant id d = v at *
  refine ⟨fun m => ⟨(d.line m).latch, congrArg (fun l : Vector Line 12 => l[m]) lines, fun lockdown => ?_⟩, scan,
    profile, supply, by rw [berth], fun _ _ => congrArg Berth.phase berth, fun c => ?_, fun c => ?_,
    fun _ => by rw [berth], fun _ => Bus.bare_orderLane bus⟩
  · rw [berth] at lockdown
    cases lockdown
  · rcases c with c | c
    · exact absurd causes c
    · cases parked.symm.trans c
  · cases parked.symm.trans c

/-- The part as LOCKDOWN is entered out of STARTING, the cause ADOPTION added for a line that is away. -/
def adoptionAdded (d : State) : State := if d.allParked then d else addCause .adoption false d

theorem adoptionAdded_fields (d : State) : (adoptionAdded d).berth = { d.berth with
      causes := if d.allParked then d.berth.causes else d.berth.causes ||| LockdownCause.adoption.bit } ∧
    (adoptionAdded d).lines = d.lines ∧ (adoptionAdded d).queue = d.queue ∧
    (adoptionAdded d).bus.orderLane = d.bus.orderLane ∧ (adoptionAdded d).scan = d.scan ∧
    (adoptionAdded d).profile = d.profile ∧ (adoptionAdded d).supply = d.supply := by
  unfold adoptionAdded
  split
  · exact ⟨rfl, rfl, rfl, rfl, rfl, rfl, rfl⟩
  · obtain ⟨-, lines, queue, bus, scan, profile, supply, -⟩ :=
      setCauses_fields (d.berth.causes ||| LockdownCause.adoption.bit) d.berth.present d
    exact ⟨addCause_berth .adoption false d, lines, queue, Bus.bare_orderLane bus, scan, profile, supply⟩

/-- With a cause, or a line away, the berth is in LOCKDOWN. -/
theorem leftStarting_locks {d : State} (queue : d.queue = [])
    (rest : ∀ m, (d.line m).fitted = true → (d.line m).state.inMotion = false)
    (locks : d.berth.causes ≠ 0 ∨ d.allParked = false) : LeftStarting d (leaveStarting d) := by
  obtain ⟨berth, lines, queue', lane, scan, profile, supply⟩ := adoptionAdded_fields d
  have enters : leaveStarting d = enterLockdown .adoption (adoptionAdded d) := if_neg fun h => by
    rcases locks with c | c
    · exact c h.1
    · cases c.symm.trans h.2
  have line : ∀ m, (adoptionAdded d).line m = d.line m := fun m => congrArg (fun l : Vector Line 12 => l[m]) lines
  rw [enters]
  generalize adoptionAdded d = z at *
  obtain ⟨berth', scan', profile', supply', -⟩ := enterLockdown_fields .adoption z
  obtain ⟨line', lane', notice'⟩ := enterLockdown_atRest (c := .adoption) (queue'.trans queue)
    fun m fitted => by rw [line] at fitted ⊢; exact rest m fitted
  generalize enterLockdown .adoption z = v at *
  rw [berth] at berth'
  refine ⟨fun m => ⟨none, (line' m).trans (by rw [line]), fun _ => rfl⟩, scan'.trans scan, profile'.trans profile,
    supply'.trans supply, by rw [berth'], fun causes parked => ?_,
    fun _ => ⟨congrArg Berth.phase berth', notice'⟩, fun away => ?_, fun parked => ?_, fun stays => ?_⟩
  · rcases locks with c | c
    · exact absurd causes c
    · cases parked.symm.trans c
  · exact (congrArg Berth.causes berth').trans (if_neg (by simp [away]))
  · exact (congrArg Berth.causes berth').trans (if_pos parked)
  · rw [lane', lane, List.filter_eq_self]
    exact stays

theorem leftStarting {d : State} (queue : d.queue = [])
    (rest : ∀ m, (d.line m).fitted = true → (d.line m).state.inMotion = false) :
    LeftStarting d (leaveStarting d) := by
  by_cases causes : d.berth.causes = 0
  · cases parked : d.allParked with
    | true => exact leftStarting_vacant causes parked
    | false => exact leftStarting_locks queue rest (.inr parked)
  · exact leftStarting_locks queue rest (.inl causes)

/-! ### Every record asked for (R207) -/

theorem AskedMore.askLines (s : State) : AskedMore s (eachLine Machine.askLine s) :=
  eachLine_keeps (P := AskedMore s) (fun n t h => h.trans (.askLine n t)) (.refl s)

theorem askLines_scan (s : State) : (eachLine askLine s).scan = s.scan :=
  eachLine_keeps (P := fun t => t.scan = s.scan) (fun n t h => (askLine_scan n t).trans h) rfl

theorem mem_askLines {s : State} (speaks : s.berth.phase.silent = false) (n : LineId) :
    n.castSucc ∈ (eachLine askLine s).bus.reportLane :=
  eachLine_reaches (I := AskedMore s) (P := fun t => n.castSucc ∈ t.bus.reportLane) n (.refl s)
    (fun m t h => h.trans (.askLine m t)) (fun t h => mem_askLine (by rw [h.berth]; exact speaks))
    fun _ _ h => askRecord_mem h

theorem mem_askAll {s : State} (speaks : s.berth.phase.silent = false) (r : RecId) :
    r ∈ (askBerth (eachLine askLine s)).bus.reportLane := by
  have lines := mem_askLines speaks
  have berth := (AskedMore.askLines s).berth
  generalize eachLine askLine s = t at *
  have started : t.berth.phase ≠ .starting := by
    rw [berth]
    exact Phase.not_starting speaks
  by_cases line : r.val < 12
  · exact askRecord_mem (lines ⟨r.val, line⟩)
  · have own : r = 12 := Fin.ext (by have := r.isLt; change r.val = 12; omega)
    rw [own]
    exact mem_askBerth started

/-! ### DERIVE and DONE (R205, R207) -/

/-- The part with every fitted line derived, the stage DONE. -/
def allDerived (s : State) : State := setStage .done (deriveAll (setStage .derive s))

/-- The part out of STARTING, RESET_DONE set. -/
def resetDone (s : State) : State := setBerthNotice .resetDone (leaveStarting (allDerived s))

theorem finishStartUp_eq (s : State) : finishStartUp s = askBerth (eachLine askLine (resetDone s)) := rfl

/-- What DERIVE and DONE make of `s` in STARTING, no entry held. -/
structure StartUpDone (s u : State) : Prop where
  line : ∀ m, ∃ x, u.line m = { (if (s.line m).fitted = true then Line.derived s.image s.ticksFor (s.line m)
    else s.line m) with latch := x } ∧ (u.berth.phase = .lockdown → x = none)
  scan : u.scan = s.scan
  profile : u.profile = s.profile
  supply : u.supply = { s.supply with stage := .done }
  present : u.berth.present = s.berth.present
  vacant : s.berth.causes = 0 → (∀ m, (s.line m).fitted = true → (s.line m).stowMade = true) →
    u.berth.phase = .vacant
  locks : s.berth.causes ≠ 0 ∨ (∃ m, (s.line m).fitted = true ∧ (s.line m).stowMade = false) →
    u.berth.phase = .lockdown ∧ u.notice .lockdownEntered = true
  added : (∃ m, (s.line m).fitted = true ∧ (s.line m).stowMade = false) →
    u.berth.causes = s.berth.causes ||| LockdownCause.adoption.bit
  kept : (∀ m, (s.line m).fitted = true → (s.line m).stowMade = true) → u.berth.causes = s.berth.causes
  lane : s.bus.orderLane = [] →
    u.bus.orderLane = (allLines.filter (locksBrake s)).map fun m => makePair m .lock 0 0
  notice : u.notice .resetDone = true
  asked : ∀ r : RecId, r ∈ u.bus.reportLane

/-- A derived line is PARKED where its stow switch is made, and only there. -/
theorem derivedState_parked_iff (l : Line) : derivedState l = .parked ↔ l.stowMade = true := by
  constructor
  · intro parked
    by_contra away
    rw [Bool.not_eq_true] at away
    obtain ⟨tight, loose⟩ := derivedState_unstowed away
    by_cases heavy : l.cls = .inBand ∨ l.cls = .high ∨ l.cls = .over
    · cases (tight heavy).symm.trans parked
    · have light : l.cls = .slack ∨ l.cls = .low ∨ l.cls = .noClass := by
        cases cls : l.cls <;> simp [cls] at heavy ⊢
      cases (loose light).symm.trans parked
  · exact derivedState_stowed

theorem allDerived_fields {s : State} (starting : s.berth.phase = .starting) (queue : s.queue = []) :
    (∀ m, (allDerived s).line m =
      if (s.line m).fitted = true then Line.derived s.image s.ticksFor (s.line m) else s.line m) ∧
    (allDerived s).queue = [] ∧ (allDerived s).scan = s.scan ∧ (allDerived s).berth = s.berth ∧
    (allDerived s).profile = s.profile ∧ (allDerived s).supply = { s.supply with stage := .done } ∧
    (s.bus.orderLane = [] → (allDerived s).bus.orderLane =
      (allLines.filter (locksBrake s)).map fun m => makePair m .lock 0 0) := by
  obtain ⟨line, queue', scan, berth, profile, -, supply, -, lane⟩ :=
    derivedLines_deriveAll (s := setStage .derive s) starting queue
  unfold allDerived
  generalize deriveAll (setStage .derive s) = t at *
  refine ⟨fun m => (line m).trans (by simp only [mem_allLines, true_and]; rfl), queue'.trans queue, scan, berth,
    profile, ?_, fun free => (lane fun x hx => ?_).trans ?_⟩
  · change { t.supply with stage := .done } = _
    rw [supply]
    rfl
  · rw [show (setStage .derive s).bus.orderLane = [] from free] at hx
    cases hx
  · rw [show (setStage .derive s).bus.orderLane = [] from free, List.nil_append]
    rfl

/-- DERIVE leaves every fitted line PARKED where all are stowed, and no fitted line in motion. -/
theorem allDerived_atRest {s : State} (starting : s.berth.phase = .starting) (queue : s.queue = []) :
    ((allDerived s).allParked = true ↔ ∀ m, (s.line m).fitted = true → (s.line m).stowMade = true) ∧
    ∀ m, ((allDerived s).line m).fitted = true → ((allDerived s).line m).state.inMotion = false := by
  obtain ⟨line, -⟩ := allDerived_fields starting queue
  have fits : ∀ m, ((allDerived s).line m).fitted = (s.line m).fitted := fun m => by
    rw [line]
    split <;> rfl
  have derived : ∀ m, (s.line m).fitted = true → ((allDerived s).line m).state = derivedState (s.line m) :=
    fun m fitted => by
      rw [line, if_pos fitted]
      rfl
  refine ⟨?_, fun m fitted => ?_⟩
  · rw [allParked_iff]
    refine forall_congr' fun m => ?_
    rw [fits]
    exact forall_congr' fun fitted => by rw [derived m fitted, derivedState_parked_iff]
  · rw [fits] at fitted
    rw [derived m fitted]
    rcases derivedState_cases (s.line m) with h | h | h <;> rw [h] <;> rfl

theorem startUpDone {s : State} (starting : s.berth.phase = .starting) (queue : s.queue = []) :
    StartUpDone s (finishStartUp s) := by
  obtain ⟨line, queue', scan, berth, profile, supply, lane⟩ := allDerived_fields starting queue
  obtain ⟨parked, rest⟩ := allDerived_atRest starting queue
  have left := leftStarting queue' rest
  have away : (allDerived s).allParked = false ↔ ∃ m, (s.line m).fitted = true ∧ (s.line m).stowMade = false := by
    rw [← Bool.not_eq_true, parked]
    simp
  have asked : AskedMore (resetDone s) (finishStartUp s) := by
    rw [finishStartUp_eq]
    exact (AskedMore.askLines _).trans (.askBerth _)
  have scan' : (finishStartUp s).scan = (resetDone s).scan := by
    rw [finishStartUp_eq, askBerth_scan, askLines_scan]
  have berth' : (finishStartUp s).berth = (leaveStarting (allDerived s)).berth :=
    asked.berth.trans (setBerthNotice_berth _ _)
  have speaks : (leaveStarting (allDerived s)).berth.phase.silent = false := by
    rcases left.phase with h | h <;> rw [h] <;> rfl
  have members : ∀ r : RecId, r ∈ (finishStartUp s).bus.reportLane := by
    have berth : (resetDone s).berth = (leaveStarting (allDerived s)).berth := setBerthNotice_berth _ _
    rw [finishStartUp_eq]
    exact mem_askAll (by rw [berth]; exact speaks)
  have shown := fun k => asked.notice k
  have line' : ∀ m, (finishStartUp s).line m = (leaveStarting (allDerived s)).line m := fun m =>
    (asked.line m).trans (line_setBerthNotice m _ _)
  have lane' : (finishStartUp s).bus.orderLane = (leaveStarting (allDerived s)).bus.orderLane :=
    asked.lane.trans (setBerthNotice_orderLane _ _)
  refine ⟨fun m => ?_, ?_, ?_, ?_, ?_, fun causes home => ?_, fun c => ⟨?_, ?_⟩, fun c => ?_, fun home => ?_,
    fun free => ?_, (shown _).trans (notice_setBerthNotice _ _), members⟩
  · obtain ⟨x, eq, empty⟩ := left.line m
    rw [line', berth', eq, line]
    exact ⟨x, rfl, empty⟩
  · rw [scan']
    exact (setBerthNotice_scan _ _).trans (left.scan.trans scan)
  · exact asked.profile.trans ((setBerthNotice_profile _ _).trans (left.profile.trans profile))
  · exact asked.supply.trans ((setBerthNotice_supply _ _).trans (left.supply.trans supply))
  · rw [berth', left.present, berth]
  · rw [berth']
    exact left.vacant (by rw [berth]; exact causes) (parked.mpr home)
  · rw [berth']
    exact (left.locks (by rw [berth, away]; exact c)).1
  · rw [shown]
    exact notice_setBerthNotice_of _ (left.locks (by rw [berth, away]; exact c)).2
  · rw [berth', left.added (away.mpr c), berth]
  · rw [berth', left.kept (parked.mpr home), berth]
  · have pairs := lane free
    rw [lane', left.lane fun e he => ?_, pairs]
    rw [pairs] at he
    obtain ⟨m, -, rfl⟩ := List.mem_map.mp he
    exact lockPair_stays m

end Sys2Proof.Machine
end

section
/-! SUPPORT. O12: the reference judged at the end of FIRST_PASS, then DERIVE and DONE. -/

namespace Sys2Proof.Machine

variable {n : LineId}

/-! ### The reference judged in FIRST_PASS (R92, R93) -/

/-- The part after the judgement of the reference in STARTING, `good` that it lay in its window. -/
structure StartUpJudged (good : Prop) [Decidable good] (s j : State) : Prop where
  line : ∀ m, j.line m = if good then s.line m else (s.line m).stale
  queue : j.queue = s.queue
  profile : j.profile = s.profile
  supply : j.supply = s.supply
  phase : j.berth.phase = s.berth.phase
  scan : j.scan = { s.scan with ref := if good then .ok else .fault, refCount := 0 }
  causes : j.berth.causes =
    if good then s.berth.causes else s.berth.causes ||| LockdownCause.senseFault.bit
  present : j.berth.present =
    if good then s.berth.present else s.berth.present ||| LockdownCause.senseFault.bit
  lane : j.bus.orderLane = s.bus.orderLane

/-- Entry to the reference FAULT in STARTING: the cause joins the sets, every record is stale (R93, R131). -/
theorem startUpJudged_bad {good : Prop} [Decidable good] (bad : ¬ good) {s : State}
    (starting : s.berth.phase = .starting) : StartUpJudged good s (enterRefFault s) := by
  have line := line_staleRecords s
  have stale := staleRecords_eq s
  have asked := AskedMore.askFitted (raiseCause .senseFault true (staleRecords s))
  have scan := askFitted_scan (raiseCause .senseFault true (staleRecords s))
  rw [← enterRefFault_eq] at asked scan
  generalize enterRefFault s = j at *
  generalize staleRecords s = z at *
  have same : z.berth = s.berth ∧ z.queue = s.queue ∧ z.profile = s.profile ∧ z.supply = s.supply ∧
      z.bus = s.bus ∧ z.scan = { s.scan with ref := .fault, refCount := 0 } := by
    rw [stale]
    exact ⟨rfl, rfl, rfl, rfl, rfl, rfl⟩
  obtain ⟨berth, queue, profile, supply, bus, scan'⟩ := same
  obtain ⟨berth', lines', queue', lane'⟩ := raiseCause_kept (c := .senseFault) (p := true)
    (s := z) (.inl (by rw [berth]; exact starting))
  obtain ⟨scan'', profile', supply', -⟩ := raiseCause_fields .senseFault true z
  generalize raiseCause .senseFault true z = y at *
  rw [berth] at berth'
  refine ⟨fun m => ?_, asked.queue.trans (queue'.trans queue), asked.profile.trans (profile'.trans profile),
    asked.supply.trans (supply'.trans supply), ?_, ?_, ?_, ?_, asked.lane.trans (lane'.trans (by rw [bus]))⟩
  · rw [if_neg bad, asked.line, ← line]
    exact congrArg (fun l : Vector Line 12 => l[m]) lines'
  · rw [asked.berth, berth']
  · rw [scan, scan'', scan', if_neg bad]
  · rw [asked.berth, berth', if_neg bad]
  · rw [asked.berth, berth', if_neg bad]
    rfl

theorem startUpJudged_good {good : Prop} [Decidable good] (inside : good) (s : State) :
    StartUpJudged good s (setRef .ok 0 s) := by
  refine ⟨fun m => (if_pos inside).symm, rfl, rfl, rfl, rfl, ?_, (if_pos inside).symm, (if_pos inside).symm, rfl⟩
  rw [if_pos inside]
  rfl

/-- The judgement of a reference that was in order: good, or bad for the second time (R92). -/
theorem startUpJudged {s : State} {raw : Nat} (starting : s.berth.phase = .starting) (ref : s.scan.ref = .ok)
    (second : (referenceLow s.image ≤ raw ∧ raw ≤ referenceHigh s.image) ∨ 1 ≤ s.scan.refCount) :
    StartUpJudged (referenceLow s.image ≤ raw ∧ raw ≤ referenceHigh s.image) s (judgeReference raw s) := by
  by_cases inside : referenceLow s.image ≤ raw ∧ raw ≤ referenceHigh s.image
  · rw [judgeReference_ok_good ref ((refInWindow_iff s raw).mpr inside)]
    exact startUpJudged_good inside s
  · have bad : refInWindow s raw = false := by
      rw [← Bool.not_eq_true, refInWindow_iff]
      exact inside
    have again := second.resolve_left inside
    rw [judgeReference_ok_bad ref bad, if_pos (by omega)]
    exact startUpJudged_bad inside starting

/-- The lines that DERIVE reads are those before the judgement, but for their records. -/
theorem StartUpJudged.reads {good : Prop} [Decidable good] {s j : State} (h : StartUpJudged good s j) (m : LineId) :
    (j.line m).fitted = (s.line m).fitted ∧ (j.line m).stowMade = (s.line m).stowMade ∧
    (j.line m).brakeSet = (s.line m).brakeSet ∧ (j.line m).payout = (s.line m).payout ∧
    (j.line m).lastPart = (s.line m).lastPart ∧ (j.line m).state = (s.line m).state ∧
    (j.line m).cls = if good then (s.line m).cls else .noClass := by
  rw [h.line m]
  split <;> exact ⟨rfl, rfl, rfl, rfl, rfl, rfl, rfl⟩

/-- What derivation makes of a line: state and payout count by the stow switch, the LOCK by the brake (R204). -/
theorem Line.derived_fields (img : List Word) (f : Nat → Nat) (l : Line) :
    (l.stowMade = true → (l.derived img f).state = .parked ∧ (l.derived img f).payout = 0) ∧
    (l.stowMade = false → (l.derived img f).payout = l.payout ∧
      (l.cls = .inBand ∨ l.cls = .high ∨ l.cls = .over → (l.derived img f).state = .locked) ∧
      (l.cls = .slack ∨ l.cls = .low ∨ l.cls = .noClass → (l.derived img f).state = .standing)) ∧
    (l.brakeSet = false → (l.derived img f).lastPart = some ⟨.lock, .derivation⟩) ∧
    (l.brakeSet = true → (l.derived img f).lastPart = l.lastPart) := by
  refine ⟨fun stowed => ⟨derivedState_stowed stowed, if_pos stowed⟩, fun away => ⟨if_neg (by simp [away]), ?_⟩,
    fun released => if_neg (by simp [released]), fun set => if_pos set⟩
  exact derivedState_unstowed away

/-! ### The first pass complete -/

theorem exec_firstPass {raw : BitVec 12} {p : Nat} {s : State} (power : s.supply.powered = true)
    (pass : s.scan.pass = .running p) (plan : s.scan.plan[p]? = some .reference)
    (stage : (judgeReference raw.toNat s).supply.stage = .firstPass) :
    exec (.referenceConversionComplete raw) s = .next (arbitrate (setPass
      (finishStartUp (judgeReference raw.toNat s)).scan.mode.next (finishStartUp (judgeReference raw.toNat s)))) := by
  have run : exec (.referenceConversionComplete raw) s = .next (arbitrate (referenceConversion raw.toNat s)) :=
    congrArg Host.Outcome.next (if_pos power)
  have complete : passComplete (judgeReference raw.toNat s) = finishStartUp (judgeReference raw.toNat s) :=
    if_pos stage
  have shape : referenceConversion raw.toNat s = setPass (passComplete (judgeReference raw.toNat s)).scan.mode.next
      (passComplete (judgeReference raw.toNat s)) := by
    unfold referenceConversion
    rw [pass]
    dsimp only
    rw [plan]
    rfl
  rw [run, shape, complete]

/-- Settles O12: the first pass ends, every fitted line is derived, and the berth leaves STARTING. -/
theorem firstPassEnds : Obligations.FirstPassEnds := by
  unfold Obligations.FirstPassEnds
  intro raw s p power stage starting queue pass plan ref good second cls away causes
  have judged : StartUpJudged good s (judgeReference raw.toNat s) := startUpJudged starting ref second
  have run := exec_firstPass power pass plan (by rw [judged.supply]; exact stage)
  have reads := judged.reads
  have done := startUpDone (judged.phase.trans starting) (judged.queue.trans queue)
  generalize judgeReference raw.toNat s = j at *
  generalize finishStartUp j = u at *
  have home : (∀ m, (j.line m).fitted = true → (j.line m).stowMade = true) ↔ ¬ away := by
    simp only [away, reads, not_exists, not_and, Bool.not_eq_false]
  have strays : (∃ m, (j.line m).fitted = true ∧ (j.line m).stowMade = false) ↔ away := by
    simp only [away, reads]
  have passes : ∀ m, (setPass u.scan.mode.next u).line m = u.line m := fun _ => rfl
  have causes' : j.berth.causes = causes := judged.causes
  refine ⟨_, run, done.supply.trans (by rw [judged.supply]), done.profile.trans judged.profile, ?_, fun bad m => ?_,
    fun m fitted => ?_, fun m unfitted => ?_, fun free => ?_, fun none_ stowed => ⟨?_, ?_⟩, fun c => ⟨?_, ?_, fun m => ?_⟩,
    fun c => ?_, fun c => ?_, done.present.trans judged.present, done.notice, done.asked⟩
  · change { u.scan with pass := u.scan.mode.next } = _
    rw [done.scan, judged.scan]
    rfl
  · obtain ⟨x, line, -⟩ := done.line m
    have stale : j.line m = (s.line m).stale := (judged.line m).trans (if_neg bad)
    rw [passes m, line, stale]
    split <;> exact ⟨rfl, rfl, rfl, rfl, rfl⟩
  · obtain ⟨x, line, -⟩ := done.line m
    obtain ⟨fits, stow, brake, payout, part, -, cls'⟩ := reads m
    rw [if_pos (fits.trans fitted)] at line
    obtain ⟨parks, locks, part'⟩ := Line.derived_fields j.image j.ticksFor (j.line m)
    rw [stow, payout, cls'] at locks
    rw [stow] at parks
    rw [brake, part] at part'
    rw [passes m, line]
    exact ⟨parks, locks, part'⟩
  · obtain ⟨x, line, -⟩ := done.line m
    obtain ⟨fits, stow, brake, payout, part, state, -⟩ := reads m
    rw [if_neg (by rw [fits, unfitted]; simp)] at line
    rw [passes m, line]
    exact ⟨state, payout, part⟩
  · have same : allLines.filter (locksBrake j) =
        allLines.filter fun m => (s.line m).fitted && !(s.line m).brakeSet := List.filter_congr fun m _ => by
      obtain ⟨fits, -, brake, -⟩ := reads m
      unfold locksBrake
      rw [fits, brake]
    refine (done.lane (judged.lane.trans free)).trans ?_
    rw [same]
    rfl
  · exact done.vacant (causes'.trans none_) (home.mpr stowed)
  · exact (done.kept (home.mpr stowed)).trans (causes'.trans none_)
  · exact (done.locks (by rw [causes', strays]; exact c)).1
  · exact (done.locks (by rw [causes', strays]; exact c)).2
  · obtain ⟨x, line, empty⟩ := done.line m
    rw [passes m, line]
    exact empty (done.locks (by rw [causes', strays]; exact c)).1
  · exact (done.added (strays.mpr c)).trans (by rw [causes'])
  · exact (done.kept (home.mpr c)).trans causes'

end Sys2Proof.Machine
end

section
/-! SUPPORT. The hold queue at a change of profile (R5, log 21): an entry whose gates stand open asks for its probe,
and the blocks that the re-evaluations leave. -/

namespace Sys2Proof.Machine

variable {n m : LineId}

/-! ### An entry whose gates stay open -/

/-- The probe of line `m` waits or runs (R96, R97). -/
def State.Seeks (s : State) (m : LineId) : Prop :=
  (s.line m).probeWaiting = true ∨ ∃ r, s.scan.pass = .probing m r

/-- The SLIP entry of `m` has its gates open whatever the other lines do, all ranks being 0, and its probe is asked
for or will be at its next judgement. -/
structure Offered (m : LineId) (s : State) : Prop where
  flat : ∀ k, (s.line k).rank = 0
  ready : s.Ready m
  settled : s.Settled m
  entry : ∃ e, s.entry m = some e ∧ e.kind = .slip ∧ (s.Seeks m ∨ e.stage = .waiting ∧ e.failed = false)

theorem Offered.opened {s : State} (h : Offered m s) : s.Open m := by
  refine ⟨h.ready, fun k _ lower => ?_, h.settled⟩
  rw [h.flat k, h.flat m] at lower
  exact absurd lower (by decide)

/-- A ready line is not SLACK, so that no judgement moves it. -/
theorem Offered.tight {s : State} (h : Offered m s) : (s.line m).state ≠ .slack := by
  rcases h.ready with ready | ready | ready <;> rw [ready] <;> simp

/-- What keeps the line but for its probe request, the ranks, and the entry, keeps the offer. -/
theorem Offered.of_held {s t : State} (h : Offered m s) (held : Held m s t) (image : t.image = s.image)
    (flags : ∀ k, (s.line k).Gauged (t.line k))
    (entry : ∃ e, t.entry m = some e ∧ e.kind = .slip ∧ (t.Seeks m ∨ e.stage = .waiting ∧ e.failed = false)) :
    Offered m t := by
  obtain ⟨flat, ready, settled, -⟩ := h
  refine ⟨fun k => ?_, ?_, ?_, entry⟩
  · obtain ⟨⟨-, rank, -⟩, -⟩ := flags k
    rw [rank, flat k]
  · unfold State.Ready
    rw [held.line]
    exact ready
  · unfold State.Settled
    rw [held.line, image]
    exact settled

theorem judgeEntry_image (k : LineId) (s : State) : (judgeEntry k s).image = s.image :=
  congrArg Profile.active (judgeEntry_profile k s)

/-- Another line's judgement keeps the offer. -/
theorem Offered.judgeEntry_other {s : State} (h : Offered m s) {k : LineId} (other : m ≠ k) :
    Offered m (judgeEntry k s) ∧ (s.Seeks m → (judgeEntry k s).Seeks m) := by
  have kept := Kept.judgeEntry other s
  have seeks : s.Seeks m → (judgeEntry k s).Seeks m := fun seeks => by
    unfold State.Seeks
    rw [kept.line, judgeEntry_scan_same]
    exact seeks
  obtain ⟨e, found, kind, asks⟩ := h.entry
  exact ⟨h.of_held kept.held (judgeEntry_image k s) (fun _ => gauged_judgeEntry k s)
    ⟨e, kept.entry.trans found, kind, asks.imp_left seeks⟩, seeks⟩

/-- The judgement of the entry itself asks for its probe (R67). -/
theorem Offered.judgeEntry_own {s : State} (h : Offered m s) :
    Offered m (judgeEntry m s) ∧ (judgeEntry m s).Seeks m := by
  obtain ⟨e, found, kind, asks⟩ := h.entry
  have own : e.line = m := entry_line found
  have opened := h.opened
  have scan := judgeEntry_scan_same m s
  have line := line_judgeSlip e s
  have entry := entry_judgeSlip found
  have held := Held.judgeEntry_of_not_slack h.tight m
  rw [← judgeEntry_slip found kind] at line entry
  rw [own] at line
  have kind' : (judged s e).kind = .slip := by
    unfold judged
    (repeat' split) <;> exact kind
  have seeks : (judgeEntry m s).Seeks m := by
    unfold State.Seeks
    rw [scan, line]
    rcases asks with (waits | runs) | ⟨waiting, fresh⟩
    · left
      split
      · rfl
      · exact waits
    · exact .inr runs
    · left
      rw [judged_opens (by rw [own]; exact opened) waiting fresh, if_pos ⟨waiting, rfl⟩]
  exact ⟨h.of_held held (judgeEntry_image m s) (fun _ => gauged_judgeEntry m s)
    ⟨_, entry, kind', .inl seeks⟩, seeks⟩

theorem Offered.judgeEntry {s : State} (h : Offered m s) (k : LineId) :
    Offered m (Machine.judgeEntry k s) ∧ (s.Seeks m → (Machine.judgeEntry k s).Seeks m) := by
  by_cases own : m = k
  · subst own
    obtain ⟨offered, seeks⟩ := h.judgeEntry_own
    exact ⟨offered, fun _ => seeks⟩
  · exact h.judgeEntry_other own

/-- The walks reach the entry, whose probe is then asked for (R69). -/
theorem Offered.rewalk {s : State} (h : Offered m s) :
    Offered m (Machine.rewalk s) ∧ (Machine.rewalk s).Seeks m := by
  have keeps : ∀ k t, Offered m t ∧ t.Seeks m → Offered m (Machine.judgeEntry k t) ∧ (Machine.judgeEntry k t).Seeks m :=
    fun k t both => ⟨(both.1.judgeEntry k).1, (both.1.judgeEntry k).2 both.2⟩
  have walked : Offered m (walkOnce s) ∧ (walkOnce s).Seeks m := by
    obtain ⟨e, found, -⟩ := h.entry
    have mem : m ∈ s.queue.map (·.line) := by
      rw [← entry_line found]
      exact List.mem_map_of_mem (List.mem_of_find?_eq_some found)
    exact foldl_reaches (I := Offered m) (P := fun t => Offered m t ∧ t.Seeks m)
      (f := fun t k => Machine.judgeEntry k t) mem h (fun t k offered => (offered.judgeEntry k).1)
      (fun t offered => offered.judgeEntry_own) fun t k => keeps k t
  rw [rewalk_eq]
  split
  · exact rewalk_keeps (P := fun t => Offered m t ∧ t.Seeks m) keeps walked
  · exact walked

/-- A probe that begins leaves line, tag and kind of every entry. -/
theorem entry_beginProbe (k : LineId) (r : Option Nat) (s : State) (j : LineId) :
    ((beginProbe k r s).entry j).map (fun e => (e.tag, e.kind)) = (s.entry j).map fun e => (e.tag, e.kind) :=
  (entries_map (probeMark_keeps k) s.queue).2 j

theorem Offered.beginProbe {s : State} (h : Offered m s) (seeks : s.Seeks m) (free : ∀ j r, s.scan.pass ≠ .probing j r)
    (k : LineId) (r : Option Nat) :
    Offered m (Machine.beginProbe k r s) ∧ (Machine.beginProbe k r s).Seeks m := by
  have flags : ∀ j, (s.line j).Gauged ((Machine.beginProbe k r s).line j) := fun j => by
    by_cases own : j = k
    · subst own
      rw [line_beginProbe]
      exact ⟨⟨rfl, rfl, rfl⟩, rfl, rfl, rfl, rfl, rfl⟩
    · exact (Kept.beginProbe own r s).gauged
  have seeks' : (Machine.beginProbe k r s).Seeks m := by
    by_cases own : m = k
    · subst own
      exact .inr ⟨r, rfl⟩
    · left
      rw [(Kept.beginProbe own r s).line]
      exact seeks.resolve_right fun runs => free m _ runs.choose_spec
  have held : Held m s (Machine.beginProbe k r s) := by
    by_cases own : m = k
    · subst own
      exact ⟨by rw [line_beginProbe], rfl⟩
    · exact (Kept.beginProbe own r s).held
  obtain ⟨e, found, kind, -⟩ := h.entry
  have entry := entry_beginProbe k r s m
  rw [found, Option.map_some, Option.map_eq_some_iff] at entry
  obtain ⟨e', found', same⟩ := entry
  exact ⟨h.of_held held rfl flags ⟨e', found', (Prod.mk.inj same).2.trans kind, .inl seeks'⟩, seeks'⟩

theorem Offered.joinProbe {s : State} (h : Offered m s) (seeks : s.Seeks m) (k : LineId) :
    Offered m (Machine.joinProbe k s) ∧ (Machine.joinProbe k s).Seeks m := by
  have line : ∀ j, ∃ w, (Machine.joinProbe k s).line j = { s.line j with probeWaiting := w } ∧
      ((s.line j).probeWaiting = true → w = true) := fun j => by
    by_cases own : j = k
    · subst own
      exact ⟨true, line_joinProbe j s, fun _ => rfl⟩
    · exact ⟨_, (Kept.joinProbe own s).line, id⟩
  have seeks' : (Machine.joinProbe k s).Seeks m := by
    obtain ⟨w, eq, waits⟩ := line m
    refine seeks.imp (fun c => ?_) id
    rw [eq]
    exact waits c
  obtain ⟨e, found, kind, -⟩ := h.entry
  refine ⟨h.of_held ⟨?_, rfl⟩ rfl (fun j => ?_) ⟨e, found, kind, .inl seeks'⟩, seeks'⟩
  · obtain ⟨w, eq, -⟩ := line m
    rw [eq]
  · obtain ⟨w, eq, -⟩ := line j
    rw [eq]
    exact ⟨⟨rfl, rfl, rfl⟩, rfl, rfl, rfl, rfl, rfl⟩

theorem Offered.requestProbe {s : State} (h : Offered m s) (seeks : s.Seeks m) (k : LineId) :
    Offered m (Machine.requestProbe k s) ∧ (Machine.requestProbe k s).Seeks m := by
  unfold Machine.requestProbe
  split
  case h_1 pass => exact h.beginProbe seeks (fun _ _ c => nomatch pass.symm.trans c) k _
  case h_2 pass => exact h.beginProbe seeks (fun _ _ c => nomatch pass.symm.trans c) k _
  case h_3 => exact h.joinProbe seeks k

/-- After a re-evaluation the probe of an offered entry waits or runs, and the offer stands. -/
theorem Offered.reevaluate {s : State} (h : Offered m s) :
    Offered m (Machine.reevaluate s) ∧ (Machine.reevaluate s).Seeks m :=
  have walked := h.rewalk
  takeProbes_keeps (P := fun t => Offered m t ∧ t.Seeks m) (fun k _ => walked.1.requestProbe walked.2 k) walked

/-- Where a line has changed its state, an offered entry seeks its probe after the re-evaluations (R5; log 21). -/
theorem seeks_reevaluateChanged {old s : State} (h : Offered m s) (changed : (s.line n).state ≠ (old.line n).state) :
    (reevaluateChanged old s).Seeks m := by
  unfold reevaluateChanged
  refine (eachLine_reaches
    (f := fun k t => if (s.line k).state = (old.line k).state then t else Machine.reevaluate t) (I := Offered m)
    (P := fun t => Offered m t ∧ t.Seeks m) n h (fun k t offered => ?_) (fun t offered => ?_)
    fun k t both => ?_).2
  · split
    · exact offered
    · exact offered.reevaluate.1
  · rw [if_neg changed]
    exact offered.reevaluate
  · split
    · exact both
    · exact both.1.reevaluate

/-! ### What the re-evaluations leave -/

theorem requestProbe_scan (k : LineId) (s : State) :
    (requestProbe k s).scan = { s.scan with pass := (requestProbe k s).scan.pass } := by
  unfold requestProbe
  split <;> rfl

/-- `t` is `s` in the blocks that a re-evaluation of the hold queue leaves, and in every line that is not SLACK, but
for its probe request. -/
structure Reevaluated (s t : State) : Prop where
  gauged : ∀ m, (s.line m).Gauged (t.line m)
  state : ∀ m, (s.line m).state ≠ .slack → (t.line m).state = (s.line m).state
  scan : t.scan = { s.scan with pass := t.scan.pass }
  berth : t.berth = s.berth
  profile : t.profile = s.profile
  supply : t.supply = s.supply
  atTick : t.atTick = s.atTick

theorem Reevaluated.refl (s : State) : Reevaluated s s := ⟨fun _ => .refl _, fun _ _ => rfl, rfl, rfl, rfl, rfl, rfl⟩

theorem Reevaluated.trans {s t u : State} (h : Reevaluated s t) (k : Reevaluated t u) : Reevaluated s u where
  gauged m := (h.gauged m).trans (k.gauged m)
  state m tight := by rw [k.state m (by rw [h.state m tight]; exact tight), h.state m tight]
  scan := by rw [k.scan, h.scan]
  berth := k.berth.trans h.berth
  profile := k.profile.trans h.profile
  supply := k.supply.trans h.supply
  atTick := k.atTick.trans h.atTick

theorem Reevaluated.judgeEntry (k : LineId) (s : State) : Reevaluated s (judgeEntry k s) where
  gauged m := gauged_judgeEntry k s
  state m tight := by rw [(Held.judgeEntry_of_not_slack tight k).line]
  scan := by rw [judgeEntry_scan_same]
  berth := judgeEntry_berth k s
  profile := judgeEntry_profile k s
  supply := judgeEntry_supply k s
  atTick := judgeEntry_atTick k s

theorem Reevaluated.requestProbe (k : LineId) (s : State) : Reevaluated s (requestProbe k s) where
  gauged m := (Held.requestProbe k s).gauged
  state m _ := by rw [(Held.requestProbe (n := m) k s).line]
  scan := requestProbe_scan k s
  berth := requestProbe_berth k s
  profile := requestProbe_profile k s
  supply := requestProbe_supply k s
  atTick := requestProbe_atTick k s

theorem Reevaluated.reevaluateChanged (old s : State) : Reevaluated s (reevaluateChanged old s) :=
  reevaluateChanged_keeps (P := Reevaluated s) (fun _ h =>
    reevaluate_keeps (P := Reevaluated s) (fun k u r => r.trans (.judgeEntry k u))
      (fun k u r => r.trans (.requestProbe k u)) h) (.refl s)

end Sys2Proof.Machine
end

section
/-! SUPPORT. A render held to the steps of the fallback (R20, log 28), and what a raised cause leaves of lines at
rest, probe requests and requests for records (R131, R132). -/

namespace Sys2Proof.Machine

variable {n : LineId}

/-! ### Render steps held to the limit (R20) -/

/-- A line with its render steps held to a limit. -/
def Line.clamped (limit : Nat) (l : Line) : Line := { l with state := l.state.clamp limit }

/-- `t` is `s` but for lines and requests for records, and no request is lost. -/
structure Clamping (s t : State) : Prop where
  queue : t.queue = s.queue
  scan : t.scan = s.scan
  berth : t.berth = s.berth
  profile : t.profile = s.profile
  supply : t.supply = s.supply
  atTick : t.atTick = s.atTick
  bus : t.bus.bare = s.bus.bare
  asked : ∀ r ∈ s.bus.reportLane, r ∈ t.bus.reportLane

theorem Clamping.refl (s : State) : Clamping s s := ⟨rfl, rfl, rfl, rfl, rfl, rfl, rfl, fun _ h => h⟩

theorem Clamping.trans {s t u : State} (h : Clamping s t) (k : Clamping t u) : Clamping s u :=
  ⟨k.queue.trans h.queue, k.scan.trans h.scan, k.berth.trans h.berth, k.profile.trans h.profile,
    k.supply.trans h.supply, k.atTick.trans h.atTick, k.bus.trans h.bus, fun r hr => k.asked r (h.asked r hr)⟩

theorem Clamping.image {s t : State} (h : Clamping s t) : t.image = s.image := congrArg Profile.active h.profile

/-- The turn of one line: unchanged within the limit, and held to it with its record asked for otherwise. -/
theorem clampLine_cases (n : LineId) (s : State) :
    ((s.line n).state.clamp (renderStepLimit s.image) = (s.line n).state ∧ clampLine n s = s) ∨
    ((s.line n).state.clamp (renderStepLimit s.image) ≠ (s.line n).state ∧
      clampLine n s = askLine n (modLine n (Line.clamped (renderStepLimit s.image)) s)) := by
  by_cases same : (s.line n).state.clamp (renderStepLimit s.image) = (s.line n).state
  · exact .inl ⟨same, if_pos same⟩
  · refine .inr ⟨same, (if_neg same).trans ?_⟩
    unfold modLine Line.clamped
    rfl

theorem clamping_clampLine (n : LineId) (s : State) : Clamping s (clampLine n s) := by
  rcases clampLine_cases n s with ⟨-, kept⟩ | ⟨-, held⟩
  · rw [kept]
    exact .refl s
  · rw [held]
    exact ⟨askLine_queue _ _, askLine_scan _ _, askLine_berth _ _, askLine_profile _ _, askLine_supply _ _,
      askLine_atTick _ _, askLine_bare _ _, fun _ h => askRecord_mem h⟩

theorem line_clampLine (n m : LineId) (s : State) : (clampLine n s).line m =
    if m = n then (s.line n).clamped (renderStepLimit s.image) else s.line m := by
  rcases clampLine_cases n s with ⟨same, kept⟩ | ⟨-, held⟩
  · rw [kept]
    split
    · rename_i own
      subst own
      unfold Line.clamped
      rw [same]
    · rfl
  · rw [held, line_askLine, line_modLine]

theorem clamping_clampSteps (s : State) : Clamping s (clampSteps s) :=
  eachLine_keeps (P := Clamping s) (fun n t h => h.trans (clamping_clampLine n t)) (.refl s)

theorem line_clampSteps (s : State) (m : LineId) :
    (clampSteps s).line m = (s.line m).clamped (renderStepLimit s.image) :=
  line_eachLine_own (I := Clamping s) (g := fun _ => Line.clamped (renderStepLimit s.image))
    (fun n t h => by
      refine ⟨h.trans (clamping_clampLine n t), ?_, fun m other => ?_⟩
      · rw [line_clampLine, if_pos rfl, h.image]
      · rw [line_clampLine, if_neg other]) (.refl s) m

/-- The record of a line whose steps change is asked for. -/
theorem mem_clampSteps {s : State} (speaks : s.berth.phase.silent = false)
    (changes : (s.line n).state.clamp (renderStepLimit s.image) ≠ (s.line n).state) :
    n.castSucc ∈ (clampSteps s).bus.reportLane := by
  have turn : ∀ t, Clamping s t → t.line n = s.line n → n.castSucc ∈ (clampLine n t).bus.reportLane := by
    intro t h line
    rcases clampLine_cases n t with ⟨same, -⟩ | ⟨-, held⟩
    · rw [line, h.image] at same
      exact absurd same changes
    · rw [held]
      refine mem_askLine ?_
      rw [modLine_berth, h.berth]
      exact speaks
  unfold clampSteps
  refine eachLine_reaches (f := clampLine)
    (I := fun t => Clamping s t ∧ (t.line n = s.line n ∨ n.castSucc ∈ t.bus.reportLane))
    (P := fun t => n.castSucc ∈ t.bus.reportLane) n ⟨.refl s, .inl rfl⟩ (fun m t h => ?_) (fun t h => ?_)
    fun m t h => (clamping_clampLine m t).asked _ h
  · obtain ⟨clamping, line | asked⟩ := h
    · refine ⟨clamping.trans (clamping_clampLine m t), ?_⟩
      by_cases own : n = m
      · subst own
        exact .inr (turn t clamping line)
      · left
        rw [line_clampLine, if_neg own]
        exact line
    · exact ⟨clamping.trans (clamping_clampLine m t), .inr ((clamping_clampLine m t).asked _ asked)⟩
  · obtain ⟨clamping, line | asked⟩ := h
    · exact turn t clamping line
    · exact (clamping_clampLine n t).asked _ asked

/-! ### A cause raised: lines at rest, probe requests, requests for records (R131, R132) -/

/-- `t` has the state of every line that is not in motion in `s`, every probe request, and every request for a
record. -/
structure Undisturbed (s t : State) : Prop where
  state : ∀ m, (s.line m).state.inMotion = false → (t.line m).state = (s.line m).state
  probe : ∀ m, (t.line m).probeWaiting = (s.line m).probeWaiting
  asked : ∀ r ∈ s.bus.reportLane, r ∈ t.bus.reportLane

theorem Undisturbed.refl (s : State) : Undisturbed s s := ⟨fun _ _ => rfl, fun _ => rfl, fun _ h => h⟩

theorem Undisturbed.trans {s t u : State} (h : Undisturbed s t) (k : Undisturbed t u) : Undisturbed s u where
  state m rest := by rw [k.state m (by rw [h.state m rest]; exact rest), h.state m rest]
  probe m := (k.probe m).trans (h.probe m)
  asked r hr := k.asked r (h.asked r hr)

theorem Undisturbed.of_lines {s t : State} (lines : t.lines = s.lines)
    (asked : ∀ r ∈ s.bus.reportLane, r ∈ t.bus.reportLane) : Undisturbed s t := by
  have line : ∀ m, t.line m = s.line m := fun m => congrArg (fun l : Vector Line 12 => l[m]) lines
  exact ⟨fun m _ => by rw [line], fun m => by rw [line], asked⟩

theorem Undisturbed.askRecord (r : RecId) (s : State) : Undisturbed s (askRecord r s) :=
  .of_lines (lines_askRecord r s) fun _ h => askRecord_mem h

theorem Undisturbed.modLine (m : LineId) {f : Line → Line}
    (h : ∀ l : Line, (f l).state = l.state ∧ (f l).probeWaiting = l.probeWaiting) (s : State) :
    Undisturbed s (modLine m f s) := by
  have line : ∀ k, ((Machine.modLine m f s).line k).state = (s.line k).state ∧
      ((Machine.modLine m f s).line k).probeWaiting = (s.line k).probeWaiting := fun k => by
    rw [line_modLine]
    split
    · rename_i own
      rw [own]
      exact h (s.line m)
    · exact ⟨rfl, rfl⟩
  exact ⟨fun k _ => (line k).1, fun k => (line k).2, fun _ h => h⟩

theorem Undisturbed.setBerthNotice (k : BerthNotice) (s : State) : Undisturbed s (setBerthNotice k s) :=
  .of_lines (lines_setBerthNotice k s) fun _ h => setBerthNotice_mem h

theorem Undisturbed.setLineNotice (m : LineId) (s : State) : Undisturbed s (setLineNotice m s) := by
  have line : ∀ k, ((Machine.setLineNotice m s).line k).state = (s.line k).state ∧
      ((Machine.setLineNotice m s).line k).probeWaiting = (s.line k).probeWaiting := fun k => by
    rw [line_setLineNotice]
    split
    · rename_i own
      rw [own]
      exact ⟨rfl, rfl⟩
    · exact ⟨rfl, rfl⟩
  exact ⟨fun k _ => (line k).1, fun k => (line k).2, fun _ h => setLineNotice_mem h⟩

theorem Undisturbed.endEntry (v : Verdict) (e : Entry) (s : State) : Undisturbed s (endEntry v e s) := by
  have dropped : Undisturbed s (dropEntry e.line s) := .of_lines rfl fun _ h => h
  have recorded : ∀ h t, Undisturbed t (recordHost e.line h t) := fun h t =>
    (Undisturbed.modLine e.line (f := fun l : Line => { l with lastHost := h }) (fun _ => ⟨rfl, rfl⟩) t).trans
      (.askRecord _ _)
  exact (dropped.trans (recorded _ _)).trans (.setLineNotice _ _)

theorem Undisturbed.flush (s : State) : Undisturbed s (flush s) :=
  flush_keeps (P := Undisturbed s) (fun e t h => h.trans (.endEntry .flushed e t))
    (fun t h => h.trans (.askRecord 12 t)) (.refl s)

theorem mem_partOrder_lock {r : RecId} {m : LineId} {c : PartCause} {s : State} (h : r ∈ s.bus.reportLane) :
    r ∈ (partOrder m .lock c s).bus.reportLane := by
  unfold partOrder
  dsimp only
  rw [if_neg (by simp)]
  exact askRecord_mem h

/-- A lockdown LOCK moves a line in motion alone. -/
theorem Undisturbed.lockdownLock {s : State} (c : LockdownCause) (m : LineId) (empty : s.queue = [])
    (phase : s.berth.phase = .lockdown) : Undisturbed s (lockdownLock c m s) := by
  rw [lockdownLock_eq empty phase]
  split
  · rename_i moving
    have line : ∀ k, (askLine m (partOrder m .lock (.lockdown c)
        (enterState m (lockState (s.line m).state (s.line m).cls) s))).line k = if k = m then
          { Line.enter s.image s.ticksFor (lockState (s.line m).state (s.line m).cls) (s.line m) with
            lastPart := some ⟨.lock, .lockdown c⟩ } else s.line k := fun k => by
      rw [line_askLine]
      split
      · rename_i own
        subst own
        rw [partOrder_line (by simp), enterState_line]
      · rename_i other
        exact ((Kept.enterState other _ s).trans (.partOrder other _ _ _)).line
    refine ⟨fun k rest => ?_, fun k => ?_, fun r h => ?_⟩
    · rw [line, if_neg]
      rintro rfl
      cases rest.symm.trans moving.2
    · rw [line]
      split
      · rename_i own
        rw [own]
        rfl
      · rfl
    · exact askRecord_mem (mem_partOrder_lock h)
  · exact .refl s

theorem Undisturbed.enterLockdown (c : LockdownCause) (s : State) : Undisturbed s (enterLockdown c s) := by
  have phase : (Machine.flush s.inLockdown).berth.phase = .lockdown := by
    rw [flush_berth]
    rfl
  have start : Undisturbed s s.inLockdown := .of_lines rfl fun _ h => h
  have flushed : Undisturbed s (Machine.flush s.inLockdown) := start.trans (.flush _)
  have empty := flush_queue_empty s.inLockdown
  unfold Machine.enterLockdown changePhase entryActions
  rw [show ({ s with berth := { s.berth with phase := .lockdown } } : State) = s.inLockdown from rfl]
  generalize Machine.flush s.inLockdown = x at *
  have locked : Undisturbed s (eachLine (Machine.lockdownLock c) x) := by
    refine (eachLine_keeps (P := fun t => Locking x t ∧ Undisturbed s t) (fun m t h => ?_)
      ⟨⟨phase, empty, rfl, rfl⟩, flushed⟩).2
    exact ⟨(lockdownLock_own m t h.1).1, h.2.trans (.lockdownLock c m h.1.queue h.1.phase)⟩
  generalize eachLine (Machine.lockdownLock c) x = y at *
  have withdrawn : Undisturbed s (withdrawPairs y) := locked.trans (.of_lines rfl fun _ h => h)
  have emptied : Undisturbed s (emptyLatches (withdrawPairs y)) := by
    unfold emptyLatches
    exact eachLine_keeps (P := Undisturbed s) (fun m t h =>
      h.trans (.modLine m (f := fun l : Line => { l with latch := none }) (fun _ => ⟨rfl, rfl⟩) t)) withdrawn
  generalize emptyLatches (withdrawPairs y) = z at *
  have silenced : ∀ p t, Undisturbed t (silenceAt p t) := fun p t => .of_lines rfl fun _ h => h
  exact ((emptied.trans (.setBerthNotice .lockdownEntered z)).trans (silenced _ _)).trans (.askRecord 12 _)

theorem Undisturbed.setCauses (causes present : CauseSet) (s : State) : Undisturbed s (setCauses causes present s) := by
  unfold Machine.setCauses
  split
  · exact .refl s
  · have set : Undisturbed s { s with berth := { s.berth with causes := causes, present := present } } :=
      .of_lines rfl fun _ h => h
    exact set.trans (.askRecord 12 _)

theorem Undisturbed.addCause (c : LockdownCause) (p : Bool) (s : State) : Undisturbed s (addCause c p s) :=
  .setCauses _ _ s

/-- A raised cause leaves lines at rest, probe requests and requests for records. -/
theorem Undisturbed.raiseCause (c : LockdownCause) (p : Bool) (s : State) : Undisturbed s (raiseCause c p s) := by
  have added := Undisturbed.addCause c p s
  rcases Phase.cases_open s.berth.phase with h | h
  · rw [← or_assoc] at h
    rcases h with h | h
    · rw [raiseCause_silent h]
      exact added
    · rw [raiseCause_lockdown h]
      split
      · exact added
      · exact added.trans (.setBerthNotice _ _)
  · rw [raiseCause_enters h]
    exact added.trans (.enterLockdown c _)

end Sys2Proof.Machine
end

section
/-! SUPPORT. The fallback profile put in force by a verification mismatch, up to the cause it raises (R194). -/

namespace Sys2Proof.Machine

variable {n : LineId}

/-! ### The change of profile and the re-evaluations -/

/-- The part with the fallback in force and the hold queue re-evaluated (R194 steps 1 and 2). -/
def fellBack (s : State) : State := reevaluateChanged s (profileApplied fallbackImage .fallback s)

/-- The scan restarted, in the limited way up to the adoption read (R101, R102). -/
def rescanned (s : State) : State :=
  if s.supply.stage = .profileLoad ∨ s.supply.stage = .adoptRead then prepareScan s else restartScan s

/-- The part before PROFILE_FAULT is raised. -/
def swapped (x : State) : State := recordOutcome .verifyFailed (setDivider 0 (rescanned (clampSteps x)))

theorem mismatch_eq (s : State) : mismatch s =
    askChanged s (askBerth (raiseCause .profileFault true (swapped (fellBack s)))) := by
  unfold mismatch swapped rescanned fellBack profileApplied
  dsimp only

section

variable {img : List Word} {m : LineId} (fit : fittedBit img m = true) (l : Line)
include fit

/-- The flags of a profile that fits the line. -/
theorem Line.copyFlags_fits : l.copyFlags img m =
    { l with fitted := true, rank := releaseRank img m, required := requiredFlag img m } := by
  unfold Line.copyFlags
  rw [fit]

/-- A line that the profile fits keeps its state where it was fitted, in STARTING where it is ADOPTING (R2). -/
theorem Line.applyProfile_keeps {starting : Bool}
    (keeps : if starting then l.state = .adopting else l.fitted = true) : l.applyProfile img starting m =
    { l with fitted := true, rank := releaseRank img m, required := requiredFlag img m } := by
  rw [← l.copyFlags_fits fit]
  cases starting with
  | true =>
    rw [Line.applyProfile_starting, if_pos fit]
    exact if_pos keeps
  | false => exact Line.applyProfile_same (fit.trans (Eq.symm keeps))

/-- Any other line that the profile fits is ADOPTING, its drum timers stopped (R2). -/
theorem Line.applyProfile_adopts {starting : Bool}
    (changes : ¬ if starting then l.state = .adopting else l.fitted = true) : l.applyProfile img starting m =
    { l with
      fitted := true, rank := releaseRank img m, required := requiredFlag img m
      state := .adopting, run := none, stall := none, haul := none, slip := none, brakeSettle := none } := by
  have adopted : l.applyProfile img starting m = (l.copyFlags img m).adopt := by
    cases starting with
    | true =>
      rw [Line.applyProfile_starting, if_pos fit]
      exact if_neg changes
    | false =>
      rw [Line.applyProfile_serving, if_neg fun c => changes (Eq.trans c.symm fit)]
      exact if_pos fit
  rw [adopted, l.copyFlags_fits fit]
  rfl

end

/-- A line that was not fitted is ADOPTING under the fallback. -/
theorem state_fallback_unfitted {l : Line} (unfitted : l.fitted = false) (starting : Bool) (m : LineId) :
    (l.applyProfile fallbackImage starting m).state = .adopting := by
  have fit := fittedBit_fallbackImage m
  cases starting with
  | true => exact (Line.applyProfile_starting_state fallbackImage l m).trans (if_pos fit)
  | false => exact (Line.applyProfile_changed (by rw [fit, unfitted]; simp)).1.trans (if_pos fit)

/-- Under the fallback every rank is 0, so that an open gate stays open whatever other lines do. -/
theorem releaseRank_fallbackImage : ∀ m : LineId, releaseRank fallbackImage m = 0 := by decide

theorem offered_fallback {s : State} {m : LineId} {e : Entry} (found : s.entry m = some e) (kind : e.kind = .slip)
    (waiting : e.stage = .waiting) (fresh : e.failed = false)
    (opened : (profileApplied fallbackImage .fallback s).Open m) :
    Offered m (profileApplied fallbackImage .fallback s) := by
  obtain ⟨ready, -, settled⟩ := opened
  refine ⟨fun k => ?_, ready, settled, e, ?_, kind, .inr ⟨waiting, fresh⟩⟩
  · obtain ⟨-, rank, -⟩ := Line.applyProfile_fields fallbackImage (s.line k) (s.berth.phase == .starting) k
    rw [line_profileApplied, rank, releaseRank_fallbackImage]
  · rw [← found]
    exact entry_congr (by rw [profileApplied_eq]) m

/-! ### From the re-evaluations to the cause -/

/-- What clamping, the restart of the scan and the outcome make of `x`, the fallback in force. -/
structure Swapped (x v : State) : Prop where
  line : ∀ m, ∃ w, v.line m = { ((x.line m).clamped 3).cleared with probeWaiting := w }
  entry : ∀ m, (v.entry m).map (fun e => (e.tag, e.kind)) = (x.entry m).map fun e => (e.tag, e.kind)
  scan : v.scan = { x.scan with
    plan := planOf fallbackImage, mode := scanMode fallbackImage, pass := v.scan.pass, pacing := v.scan.pacing }
  limited : x.supply.stage = .profileLoad ∨ x.supply.stage = .adoptRead → v.scan.pass = .idle ∧
    v.scan.pacing = none ∧ ∀ m, (v.line m).probeWaiting = (x.line m).probeWaiting
  probes : ¬ (x.supply.stage = .profileLoad ∨ x.supply.stage = .adoptRead) → ∀ m, x.Seeks m →
    (∀ k, k < m → ¬ x.Seeks k) → v.scan.pass = .probing m (some 0) ∧
    ∀ k, (v.line k).probeWaiting = true ↔ k ≠ m ∧ x.Seeks k
  runs : ¬ (x.supply.stage = .profileLoad ∨ x.supply.stage = .adoptRead) → (∀ m, ¬ x.Seeks m) →
    v.scan.pass = .running 0
  paced : ¬ (x.supply.stage = .profileLoad ∨ x.supply.stage = .adoptRead) →
    v.scan.pacing = match scanMode fallbackImage with
      | .paced => some (x.ticksFor (pacingPeriod fallbackImage))
      | .continuous => none
  berth : v.berth = x.berth
  profile : v.profile = { x.profile with outcome := .verifyFailed }
  atTick : v.atTick = x.atTick
  lane : v.bus.orderLane = x.bus.orderLane
  asked : x.berth.phase.silent = false → ∀ m, (x.line m).state.clamp 3 ≠ (x.line m).state →
    m.castSucc ∈ v.bus.reportLane
  event : v.notice .profileEvent = true
  divider : v.report.divider = 0

theorem mem_recordOutcome {r : RecId} {s : State} (o : ProfileOutcome) (h : r ∈ s.bus.reportLane) :
    r ∈ (recordOutcome o s).bus.reportLane := by
  unfold recordOutcome
  exact askRecord_mem (setBerthNotice_mem h)

/-- What the scan's restart leaves, limited or not: records cleared, entries but for a mark, the blocks beside. -/
structure Rescanned (y z : State) : Prop where
  line : ∀ k, ∃ w, z.line k = { (y.line k).cleared with probeWaiting := w }
  entry : ∀ k, (z.entry k).map (fun e => (e.tag, e.kind)) = (y.entry k).map fun e => (e.tag, e.kind)
  scan : z.scan = { y.scan with
    plan := planOf y.image, mode := scanMode y.image, pass := z.scan.pass, pacing := z.scan.pacing }
  berth : z.berth = y.berth
  profile : z.profile = y.profile
  bus : z.bus = y.bus
  atTick : z.atTick = y.atTick

theorem rescanned_prepareScan (y : State) : Rescanned y (prepareScan y) := by
  have line := line_prepareScan y
  have shape := prepareScan_eq y
  generalize prepareScan y = z at *
  refine ⟨fun k => ⟨_, line k⟩, fun k => ?_, ?_, ?_, ?_, ?_, ?_⟩
  · unfold State.entry
    rw [shape]
  all_goals rw [shape]

theorem rescanned_restartScan (y : State) : Rescanned y (restartScan y) := by
  obtain ⟨line, entry, -, ⟨p, scan⟩, berth, profile, bus, -, -, tick⟩ := restarted_restartScan y
  generalize restartScan y = z at *
  refine ⟨line, entry, ?_, berth, profile, bus, tick⟩
  rw [scan]
  rfl

theorem rescanned_rescanned (y : State) : Rescanned y (rescanned y) := by
  unfold rescanned
  split
  · exact rescanned_prepareScan y
  · exact rescanned_restartScan y

/-- The probes that a restart under the fallback runs are those that wait, or one cut off. -/
theorem waits_clampSteps {x : State} (image : x.image = fallbackImage) (m : LineId) :
    (clampSteps x).Waits m ↔ x.Seeks m := by
  have clamping := clamping_clampSteps x
  unfold State.Waits State.Seeks
  rw [clamping.image, image, clamping.scan, line_clampSteps]
  simp only [fittedBit_fallbackImage, true_and]
  rfl

theorem swapped_swapped {x : State} (image : x.image = fallbackImage) : Swapped x (swapped x) := by
  have clamping := clamping_clampSteps x
  have clampedLine := line_clampSteps x
  have limit : renderStepLimit x.image = 3 := by
    rw [image]
    decide
  have asks : x.berth.phase.silent = false → ∀ m, (x.line m).state.clamp 3 ≠ (x.line m).state →
      m.castSucc ∈ (clampSteps x).bus.reportLane := fun speaks m changes =>
    mem_clampSteps speaks (by rw [limit]; exact changes)
  have waits := waits_clampSteps image
  rw [limit] at clampedLine
  have image' : (clampSteps x).image = fallbackImage := clamping.image.trans image
  have stage : (clampSteps x).supply.stage = x.supply.stage := congrArg Supply.stage clamping.supply
  have ticks : (clampSteps x).ticksFor = x.ticksFor := funext (ticksFor_congr clamping.atTick)
  unfold swapped
  generalize clampSteps x = y at *
  have scanned := rescanned_rescanned y
  have limited : x.supply.stage = .profileLoad ∨ x.supply.stage = .adoptRead → rescanned y = prepareScan y :=
    fun early => if_pos (by rw [stage]; exact early)
  have full : ¬ (x.supply.stage = .profileLoad ∨ x.supply.stage = .adoptRead) → rescanned y = restartScan y :=
    fun late => if_neg (by rw [stage]; exact late)
  generalize rescanned y = z at *
  have line : ∀ m, (recordOutcome .verifyFailed (setDivider 0 z)).line m = z.line m := fun m =>
    congrArg (fun l : Vector Line 12 => l[m]) (recordOutcome_lines .verifyFailed (setDivider 0 z))
  have scan : (recordOutcome .verifyFailed (setDivider 0 z)).scan = z.scan :=
    recordOutcome_scan .verifyFailed (setDivider 0 z)
  have profile := recordOutcome_profile .verifyFailed (setDivider 0 z)
  have bus := recordOutcome_bare .verifyFailed (setDivider 0 z)
  have berth := recordOutcome_berth .verifyFailed (setDivider 0 z)
  have tick := recordOutcome_atTick .verifyFailed (setDivider 0 z)
  have event := notice_recordOutcome .verifyFailed (setDivider 0 z)
  have divider := recordOutcome_divider .verifyFailed (setDivider 0 z)
  have queue : (recordOutcome .verifyFailed (setDivider 0 z)).queue = z.queue :=
    recordOutcome_queue .verifyFailed (setDivider 0 z)
  have member : ∀ r ∈ z.bus.reportLane, r ∈ (recordOutcome .verifyFailed (setDivider 0 z)).bus.reportLane :=
    fun r h => mem_recordOutcome (s := setDivider 0 z) .verifyFailed h
  generalize recordOutcome .verifyFailed (setDivider 0 z) = v at *
  refine ⟨fun m => ?_, fun m => ?_, ?_, fun early => ?_, fun late m seeks lowest => ?_, fun late idle => ?_,
    fun late => ?_, ?_, ?_, ?_, ?_, fun speaks m changes => ?_, event, divider⟩
  · obtain ⟨w, own⟩ := scanned.line m
    exact ⟨w, by rw [line, own, clampedLine]⟩
  · rw [entry_congr queue, scanned.entry, entry_congr clamping.queue]
  · rw [scan, scanned.scan, image', clamping.scan]
  · have shape := limited early
    refine ⟨?_, ?_, fun m => ?_⟩
    · rw [scan, shape, prepareScan_eq]
    · rw [scan, shape, prepareScan_eq]
    · rw [line, shape, line_prepareScan, clampedLine]
      rfl
  · obtain ⟨shape, probes⟩ := restartScan_probes ((waits m).mpr seeks) fun k lower c => lowest k lower ((waits k).mp c)
    rw [← full late] at shape probes
    refine ⟨?_, fun k => ?_⟩
    · rw [scan, shape]
      rfl
    · obtain ⟨w, own, iff⟩ := probes k
      rw [line, own, ← waits k]
      exact iff
  · have shape := (restartScan_runs fun m c => idle m ((waits m).mp c)).1
    rw [← full late] at shape
    rw [scan, shape]
    rfl
  · obtain ⟨p, restarted⟩ := (restarted_restartScan y).scan
    rw [← full late] at restarted
    rw [scan, restarted, image', ticks]
    rfl
  · rw [berth]
    exact scanned.berth.trans clamping.berth
  · rw [profile, show (setDivider 0 z).profile = z.profile from rfl, scanned.profile, clamping.profile]
  · rw [tick]
    exact scanned.atTick.trans clamping.atTick
  · rw [Bus.bare_orderLane bus]
    change z.bus.orderLane = _
    rw [scanned.bus, Bus.bare_orderLane clamping.bus]
  · refine member _ ?_
    rw [scanned.bus]
    exact asks speaks m changes

end Sys2Proof.Machine
end

section
/-! SUPPORT. O55: the active copy summed (R193), and the mismatch with the cause it raises (R194). -/

namespace Sys2Proof.Machine

variable {n : LineId}

/-! ### The expiry of the verification timer (R193) -/

/-- The part as the active copy is summed: the timer reloaded, the upset words in the copy. -/
def copied (upset : List (Fin 128 × Word)) (s : State) : State := { s with
  profile := { s.profile with
    active := upset.foldl (fun ws x => ws.set x.1.val x.2) s.profile.active, verify := some 1000 }
  atTick := true }

theorem verifyEvent_upsetCopy (upset : List (Fin 128 × Word)) (s : State) :
    verifyEvent (upsetCopy upset { s with atTick := true }) =
      if imageSum (copied upset s).image = 0 then copied upset s else mismatch (copied upset s) := rfl

theorem exec_verification {upset : List (Fin 128 × Word)} {s : State} (power : s.supply.powered = true)
    (due : s.profile.verify = some 0) : exec (.verification upset 0) s = .next (arbitrate
      { (if imageSum (copied upset s).image = 0 then copied upset s else mismatch (copied upset s)) with
        atTick := false }) := by
  have run : exec (.verification upset 0) s = .next (event
      (onTick fun u => if Expiry.due u .verify then verifyEvent (upsetCopy upset u) else u) s) := rfl
  have stands : Expiry.due { s with atTick := true } .verify = true := beq_iff_eq.mpr due
  rw [run]
  unfold event onTick
  rw [if_pos power]
  exact congrArg (fun t : State => Host.Outcome.next (arbitrate { t with atTick := false }))
    ((if_pos stands).trans (verifyEvent_upsetCopy upset s))

/-! ### The part after the mismatch -/

/-- What PROFILE_FAULT makes of `v`, the records of the changed lines asked for and the tick over. -/
structure Faulted (o v u : State) : Prop where
  profile : u.profile = v.profile
  gauged : ∀ m, (v.line m).Gauged (u.line m)
  state : ∀ m, (v.line m).state.inMotion = false → (u.line m).state = (v.line m).state
  probe : ∀ m, (u.line m).probeWaiting = (v.line m).probeWaiting
  asked : ∀ r ∈ v.bus.reportLane, r ∈ u.bus.reportLane
  causes : u.berth.causes = v.berth.causes ||| LockdownCause.profileFault.bit
  present : u.berth.present = v.berth.present ||| LockdownCause.profileFault.bit
  silent : v.berth.phase.silent = true → u.berth.phase = v.berth.phase
  speaks : v.berth.phase.silent = false → u.berth.phase = .lockdown
  event : v.notice .profileEvent = true → u.notice .profileEvent = true
  divider : u.report.divider = v.report.divider
  scan : u.scan = v.scan
  berthRecord : v.berth.phase ≠ .starting → 12 ∈ u.bus.reportLane
  lineRecord : v.berth.phase.silent = false → ∀ m, (o.line m).fitted ≠ (v.line m).fitted →
    m.castSucc ∈ u.bus.reportLane
  entered : (v.queue.map (·.line)).Nodup → v.berth.phase = .vacant ∨ v.berth.phase = .arrival ∨
    v.berth.phase = .secured ∨ v.berth.phase = .departure → EnteredLockdown .profileFault v u

theorem faulted (o v : State) : Faulted o v
    { askChanged o (askBerth (raiseCause .profileFault true v)) with atTick := false } := by
  obtain ⟨scan, profile, -⟩ := raiseCause_fields .profileFault true v
  obtain ⟨causes, present, silent, speaks⟩ := raiseCause_berth .profileFault true v
  have undisturbed := Undisturbed.raiseCause .profileFault true v
  have surveyed := Surveyed.raiseCause .profileFault true v
  have event := notice_raiseCause_other (k := .profileEvent) (by simp) .profileFault true v
  have entered := fun distinct phase => (enteredLockdown_raiseCause (s := v) (z := v) (c := .profileFault) (p := true)
    distinct phase rfl rfl rfl rfl rfl rfl).1
  generalize raiseCause .profileFault true v = r at *
  have asked : AskedMore r (askChanged o (askBerth r)) := (AskedMore.askBerth r).trans (.askChanged o _)
  have scan' : (askChanged o (askBerth r)).scan = r.scan := (askChanged_scan o _).trans (askBerth_scan r)
  have report' : (askChanged o (askBerth r)).report = r.report := (askChanged_report o _).trans (askBerth_report r)
  have changedRecord : r.berth.phase.silent = false → ∀ m, (o.line m).fitted ≠ (r.line m).fitted →
      m.castSucc ∈ (askChanged o (askBerth r)).bus.reportLane := fun h m changed =>
    mem_askChanged (by rw [askBerth_berth]; exact h) (by rw [line_askBerth]; exact changed)
  have berthRecord : r.berth.phase ≠ .starting → 12 ∈ (askChanged o (askBerth r)).bus.reportLane := fun h =>
    (AskedMore.askChanged o (askBerth r)).asked _ (mem_askBerth h)
  generalize askChanged o (askBerth r) = t at *
  have ticked : AskedMore t { t with atTick := false } := ⟨rfl, rfl, rfl, rfl, rfl, rfl, rfl, fun _ h => h⟩
  have whole := asked.trans ticked
  have line : ∀ m, ({ t with atTick := false } : State).line m = r.line m := whole.line
  refine ⟨whole.profile.trans profile, fun m => ?_, fun m rest => ?_, fun m => ?_,
    fun q h => whole.asked q (undisturbed.asked q h), ?_, ?_, fun h => ?_, fun h => ?_, fun h => ?_, ?_,
    scan'.trans scan, fun h => ?_, fun h m changed => ?_, fun distinct phase => (entered distinct phase).askedMore whole⟩
  · rw [line]
    exact surveyed.gauged m
  · rw [line]
    exact undisturbed.state m rest
  · rw [line]
    exact undisturbed.probe m
  · rw [whole.berth, causes]
  · rw [whole.berth, present]
    rfl
  · rw [whole.berth, silent h]
  · rw [whole.berth, speaks h]
  · rw [whole.notice, event, h]
  · change t.report.divider = _
    rw [report', surveyed.divider]
  · refine berthRecord ?_
    cases quiet : v.berth.phase.silent with
    | true =>
      rw [silent quiet]
      exact h
    | false =>
      rw [speaks quiet]
      simp
  · refine changedRecord (by rw [speaks h]; rfl) m ?_
    rw [(surveyed.gauged m).flags.1]
    exact changed

/-- The entries of a sound part still name distinct lines before the cause is raised. -/
theorem sound_swapped {o : State} (sound : o.Sound) : (swapped (fellBack o)).Sound := by
  have back : (fellBack o).Sound := (sound.setActive fallbackImage .fallback).applyProfile.reevaluateChanged o
  have clamped := back.clampSteps
  unfold swapped rescanned
  split
  · exact (clamped.prepareScan.setDivider 0).recordOutcome _
  · exact (clamped.restartScan.setDivider 0).recordOutcome _

end Sys2Proof.Machine
end

section
/-! SUPPORT. O55, assembled: the part before and after the change of profile, and the cause raised. -/

namespace Sys2Proof.Machine

variable {n : LineId}

section Mismatch

variable (upset : List (Fin 128 × Word)) (s : State)

/-- `w` of O55: the fallback's flags copied. -/
def fallbackIn : State := profileApplied fallbackImage .fallback (copied upset s)

/-- `x` of O55: the hold queue re-evaluated. -/
def requeued : State := fellBack (copied upset s)

/-- `u` of O55. -/
def fallbackOut : State := { mismatch (copied upset s) with atTick := false }

theorem fallbackIn_eq : fallbackIn upset s = { s with
    lines := (fallbackIn upset s).lines
    profile := { s.profile with active := fallbackImage, source := .fallback, verify := some 1000 }
    atTick := true } := profileApplied_eq fallbackImage .fallback (copied upset s)

theorem line_fallbackIn (m : LineId) : (fallbackIn upset s).line m =
    (s.line m).applyProfile fallbackImage (s.berth.phase == .starting) m :=
  line_profileApplied fallbackImage .fallback (copied upset s) m

theorem requeued_eq : requeued upset s = allLines.foldl (fun t m =>
    if ((fallbackIn upset s).line m).state = (s.line m).state then t else reevaluate t) (fallbackIn upset s) := rfl

theorem reevaluated_requeued : Reevaluated (fallbackIn upset s) (requeued upset s) :=
  .reevaluateChanged (copied upset s) (fallbackIn upset s)

/-- The blocks of `x`: the fallback in force, the rest as before the expiry. -/
theorem requeued_fields : (requeued upset s).image = fallbackImage ∧
    (requeued upset s).profile =
      { s.profile with active := fallbackImage, source := .fallback, verify := some 1000 } ∧
    (requeued upset s).berth = s.berth ∧ (requeued upset s).supply = s.supply ∧
    (requeued upset s).scan = { s.scan with pass := (requeued upset s).scan.pass } ∧
    (requeued upset s).atTick = true ∧ ∀ m, ((requeued upset s).line m).fitted = true := by
  obtain ⟨gauged, -, scan, berth, profile, supply, tick⟩ := reevaluated_requeued upset s
  have line := line_fallbackIn upset s
  have shape := fallbackIn_eq upset s
  generalize requeued upset s = x at *
  generalize fallbackIn upset s = w at *
  have same : w.profile = { s.profile with active := fallbackImage, source := .fallback, verify := some 1000 } ∧
      w.berth = s.berth ∧ w.supply = s.supply ∧ w.scan = s.scan ∧ w.atTick = true := by
    rw [shape]
    exact ⟨rfl, rfl, rfl, rfl, rfl⟩
  obtain ⟨profile', berth', supply', scan', tick'⟩ := same
  rw [scan'] at scan
  have whole := profile.trans profile'
  refine ⟨congrArg Profile.active whole, whole, berth.trans berth', supply.trans supply', scan, tick.trans tick',
    fun m => ?_⟩
  rw [(gauged m).flags.1, line]
  exact (Line.applyProfile_fields fallbackImage (s.line m) _ m).1.trans (fittedBit_fallbackImage m)

/-- A line that was not fitted is ADOPTING when the queue has been re-evaluated. -/
theorem requeued_unfitted (unfitted : (s.line n).fitted = false) :
    ((requeued upset s).line n).state = .adopting := by
  have adopting : ((fallbackIn upset s).line n).state = .adopting := by
    rw [line_fallbackIn]
    exact state_fallback_unfitted unfitted _ n
  rw [(reevaluated_requeued upset s).state n (by rw [adopting]; simp), adopting]

/-- A fitted line in RENDERING is still in it, out of STARTING. -/
theorem requeued_rendering {ret : RenderReturn} {used : Nat} (fitted : (s.line n).fitted = true)
    (started : s.berth.phase ≠ .starting) (renders : (s.line n).state = .rendering ret used) :
    ((requeued upset s).line n).state = .rendering ret used := by
  have rendering : ((fallbackIn upset s).line n).state = .rendering ret used := by
    rw [line_fallbackIn, beq_eq_false_iff_ne.mpr started,
      Line.applyProfile_same ((fittedBit_fallbackImage n).trans fitted.symm)]
    exact renders
  rw [(reevaluated_requeued upset s).state n (by rw [rendering]; simp), rendering]

/-- Where the change of profile moves a line, a SLIP entry with its gates open seeks its probe (log 21). -/
theorem seeks_requeued {m : LineId} {e : Entry} (moved : ∃ k, ((fallbackIn upset s).line k).state ≠ (s.line k).state)
    (found : s.entry m = some e) (kind : e.kind = .slip) (waiting : e.stage = .waiting) (fresh : e.failed = false)
    (opened : (fallbackIn upset s).Open m) : (requeued upset s).Seeks m := by
  obtain ⟨k, changed⟩ := moved
  have offered : Offered m (fallbackIn upset s) :=
    offered_fallback (s := copied upset s) found kind waiting fresh opened
  have moves : ((fallbackIn upset s).line k).state ≠ ((copied upset s).line k).state := changed
  unfold requeued fellBack
  exact seeks_reevaluateChanged offered moves

/-- The part with the fallback in force and the hold queue re-evaluated, against the part before the expiry. -/
structure Requeued (s x : State) : Prop where
  image : x.image = fallbackImage
  profile : x.profile = { s.profile with active := fallbackImage, source := .fallback, verify := some 1000 }
  berth : x.berth = s.berth
  supply : x.supply = s.supply
  scan : x.scan = { s.scan with pass := x.scan.pass }
  atTick : x.atTick = true
  fits : ∀ m, (x.line m).fitted = true
  unfitted : ∀ m, (s.line m).fitted = false → (x.line m).state = .adopting
  renders : ∀ m ret used, (s.line m).fitted = true → s.berth.phase ≠ .starting →
    (s.line m).state = .rendering ret used → (x.line m).state = .rendering ret used

theorem requeued_requeued : Requeued s (requeued upset s) := by
  obtain ⟨image, profile, berth, supply, scan, tick, fits⟩ := requeued_fields upset s
  exact ⟨image, profile, berth, supply, scan, tick, fits, fun m => requeued_unfitted upset s,
    fun m ret used => requeued_rendering upset s⟩

theorem requeued_of_empty (empty : s.queue = []) : requeued upset s = fallbackIn upset s := by
  have empty' : (fallbackIn upset s).queue = [] := by
    rw [fallbackIn_eq]
    exact empty
  unfold requeued fellBack
  exact reevaluateChanged_of_empty empty' (copied upset s)

/-- The lines of `w`, by whether they keep their state (R2). -/
theorem fallbackIn_lines (m : LineId) :
    let kept := { s.line m with
      fitted := true, rank := releaseRank fallbackImage m, required := requiredFlag fallbackImage m }
    let keeps := if s.berth.phase = .starting then (s.line m).state = .adopting else (s.line m).fitted = true
    (keeps → (fallbackIn upset s).line m = kept) ∧
    (¬ keeps → (fallbackIn upset s).line m = { kept with
      state := .adopting, run := none, stall := none, haul := none, slip := none, brakeSettle := none }) := by
  intro kept keeps
  have fit := fittedBit_fallbackImage m
  have same : (if (s.berth.phase == .starting) = true then (s.line m).state = .adopting
      else (s.line m).fitted = true) ↔ keeps := by
    dsimp only [keeps]
    simp only [beq_iff_eq]
  rw [line_fallbackIn]
  exact ⟨fun c => (s.line m).applyProfile_keeps fit (same.mpr c),
    fun c => (s.line m).applyProfile_adopts fit fun k => c (same.mp k)⟩

theorem fallbackOut_faulted : Faulted (copied upset s) (swapped (requeued upset s)) (fallbackOut upset s) := by
  unfold fallbackOut
  rw [mismatch_eq]
  exact faulted _ _

end Mismatch

/-- A clamped line is at rest where it was, and keeps a state that is not RENDERING. -/
theorem LineState.clamp_cases (limit : Nat) (st : LineState) :
    (∀ ret used, st = .rendering ret used → st.clamp limit = .rendering ret (min used limit)) ∧
    ((∀ ret used, st ≠ .rendering ret used) → st.clamp limit = st) := by
  cases st with
  | rendering ret used =>
    exact ⟨fun ret' used' same => by cases same; rfl, fun other => absurd rfl (other ret used)⟩
  | _ => exact ⟨fun _ _ c => (by cases c), fun _ => rfl⟩

end Sys2Proof.Machine
end

section
/-! SUPPORT. O55: its clauses, gathered from the change of profile, the scan's restart and the cause. -/

namespace Sys2Proof.Machine

section Mismatch

variable {s x v u : State} {upset : List (Fin 128 × Word)} {n : LineId}
  (queued : Requeued s x) (swap : Swapped x v) (faulted : Faulted (copied upset s) v u)
include queued swap faulted

/-- The profile block after a mismatch: the fallback and VERIFY_FAILED, a load undisturbed. -/
theorem profile_mismatched : u.profile = { s.profile with
    active := fallbackImage, source := .fallback, verify := some 1000, outcome := .verifyFailed } := by
  rw [faulted.profile, swap.profile, queued.profile]

/-- Every line is fitted, its record cleared. -/
theorem line_mismatched (m : LineId) :
    (u.line m).fitted = true ∧ (u.line m).ring = [] ∧ (u.line m).tension = none := by
  obtain ⟨w, line⟩ := swap.line m
  obtain ⟨⟨fitted, -, -⟩, tension, -, -, -, ring⟩ := faulted.gauged m
  rw [line] at fitted tension ring
  exact ⟨fitted.trans (queued.fits m), ring, tension⟩

omit queued faulted in
/-- The state of a line before the cause is raised is the one held to the limit of steps. -/
theorem Swapped.state (m : LineId) : (v.line m).state = (x.line m).state.clamp 3 := by
  obtain ⟨w, line⟩ := swap.line m
  rw [line]
  rfl

theorem state_mismatched_unfitted (unfitted : (s.line n).fitted = false) : (u.line n).state = .adopting := by
  have state : (v.line n).state = .adopting := by
    rw [swap.state, queued.unfitted n unfitted]
    rfl
  rw [faulted.state n (by rw [state]; rfl), state]

/-- A render goes on with its steps held to 3, and its record is asked for where that changes them. -/
theorem rendering_mismatched {ret : RenderReturn} {used : Nat} (fitted : (s.line n).fitted = true)
    (started : s.berth.phase ≠ .starting) (renders : (s.line n).state = .rendering ret used) :
    (u.line n).state = .rendering ret (min used 3) ∧
    (s.berth.phase ≠ .halted → 3 < used → n.castSucc ∈ u.bus.reportLane) := by
  have rendering := queued.renders n ret used fitted started renders
  have state : (v.line n).state = .rendering ret (min used 3) := by
    rw [swap.state, rendering]
    rfl
  refine ⟨?_, fun running excess => ?_⟩
  · rw [faulted.state n (by rw [state]; rfl), state]
  · have speaks : s.berth.phase.silent = false := by
      cases phase : s.berth.phase with
      | starting => exact absurd phase started
      | halted => exact absurd phase running
      | vacant | arrival | secured | departure | lockdown => rfl
    refine faulted.asked _ (swap.asked (by rw [queued.berth]; exact speaks) n ?_)
    rw [rendering]
    intro same
    have held : min used 3 = used := (LineState.rendering.inj same).2
    omega

omit faulted in
theorem berth_swapped : v.berth = s.berth := swap.berth.trans queued.berth

/-- The berth after a mismatch: PROFILE_FAULT in both sets, LOCKDOWN out of every phase but STARTING and HALTED. -/
theorem berth_mismatched : u.berth.causes.has .profileFault = true ∧ u.berth.present.has .profileFault = true ∧
    (s.berth.phase.silent = false → u.berth.phase = .lockdown) ∧
    (s.berth.phase.silent = true → u.berth.phase = s.berth.phase) := by
  have berth := berth_swapped queued swap
  have silent := faulted.silent
  have speaks := faulted.speaks
  rw [berth] at silent speaks
  refine ⟨?_, ?_, speaks, silent⟩
  · rw [faulted.causes]
    exact CauseSet.has_or_bit _ _
  · rw [faulted.present]
    exact CauseSet.has_or_bit _ _

/-- The records asked for: the berth's, and those of the lines newly fitted. -/
theorem records_mismatched : (s.berth.phase ≠ .starting → 12 ∈ u.bus.reportLane) ∧
    (s.berth.phase.silent = false → ∀ m, (s.line m).fitted = false → m.castSucc ∈ u.bus.reportLane) := by
  have berth := berth_swapped queued swap
  have berthRecord := faulted.berthRecord
  have lineRecord := faulted.lineRecord
  rw [berth] at berthRecord lineRecord
  refine ⟨berthRecord, fun speaks m unfitted => lineRecord speaks m ?_⟩
  obtain ⟨w, line⟩ := swap.line m
  have fitted : (v.line m).fitted = true := by
    rw [line]
    exact queued.fits m
  rw [fitted]
  change (s.line m).fitted ≠ true
  rw [unfitted]
  simp

/-- The scan after a mismatch, but for pass and pacing timer, is that of the fallback (R82, R83). -/
theorem scan_mismatched : u.scan = { s.scan with
    plan := planOf fallbackImage, mode := scanMode fallbackImage
    pass := u.scan.pass, pacing := u.scan.pacing } := by
  have own := queued.scan
  rw [faulted.scan]
  refine swap.scan.trans ?_
  rw [own]

/-- Up to the adoption read the scan stops and the probe requests stay; later the probes run first (R101, R102). -/
theorem pass_mismatched :
    (s.supply.stage = .adoptRead → u.scan.pass = .idle ∧ u.scan.pacing = none ∧
      ∀ m, (u.line m).probeWaiting = (x.line m).probeWaiting) ∧
    (s.supply.stage ≠ .adoptRead → s.supply.stage ≠ .profileLoad →
      (∀ m, x.Seeks m → (∀ k, k < m → ¬ x.Seeks k) → u.scan.pass = .probing m (some 0) ∧
        ∀ k, (u.line k).probeWaiting = true ↔ k ≠ m ∧ x.Seeks k) ∧
      ((∀ m, ¬ x.Seeks m) → u.scan.pass = .running 0) ∧
      u.scan.pacing = match scanMode fallbackImage with
        | .paced => some (pacingPeriod fallbackImage)
        | .continuous => none) := by
  have limited := swap.limited
  have probes := swap.probes
  have runs := swap.runs
  have paced := swap.paced
  have ticks : x.ticksFor (pacingPeriod fallbackImage) = pacingPeriod fallbackImage := by
    unfold State.ticksFor
    rw [queued.atTick, if_pos rfl]
  rw [ticks] at paced
  rw [queued.supply] at limited probes runs paced
  rw [faulted.scan]
  simp only [faulted.probe]
  exact ⟨fun early => limited (.inr early), fun adopted loaded =>
    have late := not_or.mpr ⟨loaded, adopted⟩
    ⟨probes late, runs late, paced late⟩⟩

end Mismatch

/-- The line table and the hold queue as LOCKDOWN is entered, seen from the re-evaluated part. -/
theorem Swapped.lines {x v : State} (swap : Swapped x v) (m : LineId) :
    v.line m = { x.line m with
      state := (v.line m).state, tension := none, cls := .noClass, overRun := 0, slackRun := 0
      ring := [], probeWaiting := (v.line m).probeWaiting } ∧
    ((∀ ret used, (x.line m).state ≠ .rendering ret used) → (v.line m).state = (x.line m).state) ∧
    ∀ ret used, (x.line m).state = .rendering ret used → (v.line m).state = .rendering ret (min used 3) := by
  obtain ⟨renders, other⟩ := LineState.clamp_cases 3 (x.line m).state
  refine ⟨?_, fun rest => ?_, fun ret used rendering => ?_⟩
  · obtain ⟨w, line⟩ := swap.line m
    rw [line]
    rfl
  · rw [swap.state]
    exact other rest
  · rw [swap.state]
    exact renders ret used rendering

/-- Settles O55: the sum good, and the mismatch. -/
theorem verification : Obligations.Verification := by
  unfold Obligations.Verification
  intro upset s power due copy
  have run := exec_verification (upset := upset) power due
  refine ⟨fun good => ?_, fun bad => ⟨fallbackIn upset s, requeued upset s, fallbackOut upset s, ?_,
    ⟨fallbackIn_eq upset s, fallbackIn_lines upset s⟩, requeued_eq upset s, requeued_of_empty upset s,
    fun moved _ m e found kind waiting fresh opened =>
      seeks_requeued upset s moved found kind waiting fresh opened, ?_⟩⟩
  · rw [if_pos (show imageSum (copied upset s).image = 0 from good)] at run
    exact run
  · unfold fallbackOut
    rw [run, if_neg (show imageSum (copied upset s).image ≠ 0 from bad)]
  · have queued := requeued_requeued upset s
    have swap := swapped_swapped queued.image
    have faulted := fallbackOut_faulted upset s
    have distinct : s.Sound → ((swapped (requeued upset s)).queue.map (·.line)).Nodup := fun sound =>
      (sound_swapped (o := copied upset s)
        ((sound.withProfile (p := (copied upset s).profile) sound.load).withTick true)).queueLines
    generalize swapped (requeued upset s) = v at *
    generalize fallbackOut upset s = u at *
    generalize requeued upset s = x at *
    have profile := profile_mismatched queued swap faulted
    have berth := berth_swapped queued swap
    obtain ⟨causes, present, speaks, silent⟩ := berth_mismatched queued swap faulted
    obtain ⟨berthRecord, lineRecord⟩ := records_mismatched queued swap faulted
    obtain ⟨early, late⟩ := pass_mismatched queued swap faulted
    exact ⟨congrArg Profile.active profile, congrArg Profile.source profile, congrArg Profile.verify profile,
      congrArg Profile.outcome profile, by rw [profile], by rw [profile], line_mismatched queued swap faulted,
      fun m unfitted => state_mismatched_unfitted queued swap faulted unfitted,
      fun m ret used fitted started renders => rendering_mismatched queued swap faulted fitted started renders,
      causes, present, faulted.event swap.event, faulted.divider.trans swap.divider, speaks, silent, berthRecord,
      lineRecord, ⟨scan_mismatched queued swap faulted, early, late⟩, fun sound phase =>
        ⟨v, swap.lines, swap.entry, swap.lane, berth, swap.atTick.trans queued.atTick,
          faulted.entered (distinct sound) (by rw [berth]; exact phase)⟩⟩

end Sys2Proof.Machine
end
